-- ==== Sys2Proof/Word.lean ====
section
/-! DEFINITION. The words the V960 computes with, and the sparse map its memories and tables are held in. -/

namespace Sys2Proof

/-- One byte (00 R12: memories are byte addressed). -/
abbrev Byte := BitVec 8
/-- A 32-bit register or lane word. -/
abbrev W32 := BitVec 32
/-- A 64-bit word: a sequencer word, a seed, an 8-byte slot of a Cistern unit. -/
abbrev W64 := BitVec 64
/-- One 64-byte line, the unit of a logical address (06 R151), byte b in bits [8b + 7 : 8b] (00 R12). -/
abbrev Line := BitVec 512
/-- The 64 lanes of a vector register (05 R113). -/
abbrev Lanes := Vector W32 64
/-- A sparse table: pairs of a key and an entry, keys strictly rising; an unlisted key has the table's default. -/
abbrev SMap (α : Type) := List (Nat × α)
/-- A compute die, CD0 to CD15 (00 R17). -/
abbrev Die := Fin 16
/-- A physical tile of a die, PT0 to PT135 (00 R17). -/
abbrev PT := Fin 136

/-- One sample of the power governor (20 R485): input in 10 mV, 10 mA and W, coolant in 0.5 °C and mL/min, hottest junction of
each die and of the hub, temperature of each stack, in °C. -/
structure PwrSample where
  volts : Nat
  amps : Nat
  watts : Nat
  inlet : Nat
  outlet : Nat
  flow : Nat
  tj : List Nat
  hbm : List Nat
  deriving DecidableEq, Repr

/-- What the codes of 13 R316 find in a line that a command reads: nothing, a symbol to correct, more than they correct. -/
inductive ReadErr where
  | clean | corrected | uncorrectable
  deriving DecidableEq, Repr

/-- What ECC and parity find in a tile or an operand buffer (09 R217, R219): nothing, an error corrected (`buffer`: in the operand buffer), an
uncorrectable error. -/
inductive TileErr where
  | clean | corrected (buffer : Bool) | uncorrectable
  deriving DecidableEq, Repr

/-- Where a Cascade piece comes from (08 R198, 14 R340): a station of this module, with whether it arrives undamaged, or a port. -/
inductive PieceSource where
  | chain (group : Fin 65536) (step : W32) (pos : Fin 4096) (piece : Fin 16777216) (final ok : Bool)
  | port (die : Die)
  deriving DecidableEq, Repr

/-- What a port of a block memory does in a cycle (10 R251): its word and, of a write, the data. -/
structure BramAccess where
  word : Fin 32768
  data : Option (BitVec 72)
  deriving DecidableEq, Repr

/-- A fault of the hardware in one tree output, for one vector: the output and the bits that flip in it (09 R218). -/
structure Upset where
  out : Fin 64
  flip : BitVec 128
  deriving DecidableEq, Repr

/-- A register access of a requester (17 R425): 0 and 1 the host on its links, 2 an on-module processor; BAR0 offset, size in bytes,
byte enables, whether it writes, the value written. -/
structure BusAccess where
  req : Fin 3
  off : Fin 67108864
  size : Nat
  be : BitVec 64
  write : Bool
  val : BitVec 64
  deriving DecidableEq, Repr

end Sys2Proof
end

