-- ==== Sys2Proof/Syntax.lean ====
section
/-! DEFINITION. The commands of the block: one constructor per row of the table, with its operands. -/

namespace Sys2Proof

/-- A command (a row of the table): what it is and the rule its effect stands in. The words of the tile sequencer carry the 56 bits below
the opcode; `ctx`, `express` and `opseq` name an operation of a context; `req` is a requester (17 R433). -/
inductive Instr where
  /-- NOP: Sequencer no-operation instruction issues and does nothing (R117). -/
  | nop (die : Die) (pt : PT) (w : BitVec 56)
  /-- ADD: Scalar add of A and B, or IMM, modulo 2^32 into D (R117). -/
  | add (die : Die) (pt : PT) (w : BitVec 56)
  /-- SUB: Scalar subtract modulo 2^32 into D (R117). -/
  | sub (die : Die) (pt : PT) (w : BitVec 56)
  /-- AND: Scalar bitwise AND into D (R117). -/
  | and (die : Die) (pt : PT) (w : BitVec 56)
  /-- OR: Scalar bitwise OR into D (R117). -/
  | or (die : Die) (pt : PT) (w : BitVec 56)
  /-- XOR: Scalar bitwise XOR into D (R117). -/
  | xor (die : Die) (pt : PT) (w : BitVec 56)
  /-- SHL: Scalar shift left by B mod 32 into D (R117). -/
  | shl (die : Die) (pt : PT) (w : BitVec 56)
  /-- SHR: Scalar logical shift right by B mod 32 into D (R117). -/
  | shr (die : Die) (pt : PT) (w : BitVec 56)
  /-- SRA: Scalar arithmetic shift right by B mod 32 into D (R117). -/
  | sra (die : Die) (pt : PT) (w : BitVec 56)
  /-- MUL: Scalar multiply; the low 32 bits land in D after 3 slots (R117). -/
  | mul (die : Die) (pt : PT) (w : BitVec 56)
  /-- SLT: Signed set-less-than into D (R117). -/
  | slt (die : Die) (pt : PT) (w : BitVec 56)
  /-- LI: Loads the immediate into a scalar register (R117). -/
  | li (die : Die) (pt : PT) (w : BitVec 56)
  /-- MFV: Moves one lane of a vector register into a scalar register (R117). -/
  | mfv (die : Die) (pt : PT) (w : BitVec 56)
  /-- BR: Conditional branch with two delay slots to an absolute IMEM target (R122). -/
  | br (die : Die) (pt : PT) (w : BitVec 56)
  /-- REP: Zero-overhead repeat of a body of words, with a budget check at issue (R124). -/
  | rep (die : Die) (pt : PT) (w : BitVec 56)
  /-- WLCH: Holds issue until a launch arrives or a pending launch time is reached (R131). -/
  | wlch (die : Die) (pt : PT) (w : BitVec 56)
  /-- END: Ends the kernel once array writes have landed, WBs are acknowledged and results are in flight no more, then reports done and ORs in the flags (R147). -/
  | endKernel (die : Die) (pt : PT) (w : BitVec 56)
  /-- ALLOC: Requests a Cistern allocation, which is granted or left pending (R104). -/
  | alloc (die : Die) (pt : PT) (w : BitVec 56)
  /-- FREE: Frees a Cistern allocation once earlier writes to it have landed (R104). -/
  | free (die : Die) (pt : PT) (w : BitVec 56)
  /-- WB: Writes back a Cistern region with conversion, or copies operand-buffer lines, to a logical address (R116). -/
  | wb (die : Die) (pt : PT) (w : BitVec 56)
  /-- CRD: Reads a Cistern row of 64 accumulators, converted to FP32 or INT32, into a vector register (R142). -/
  | crd (die : Die) (pt : PT) (w : BitVec 56)
  /-- CWR: Writes vector lanes into a Cistern row on the exact or binary64 path (R143). -/
  | cwr (die : Die) (pt : PT) (w : BitVec 56)
  /-- MX: Matrix instruction: broadcasts input vectors through the active weight block and accumulates into a Cistern region (R81). -/
  | mx (die : Die) (pt : PT) (w : BitVec 56)
  /-- WLD: Loads and expands a weight block into the shadow block (R64). -/
  | wld (die : Die) (pt : PT) (w : BitVec 56)
  /-- EW: Element-wise array instruction (MUL, MAC, ADD, SQ) into a Cistern region (R84). -/
  | ew (die : Die) (pt : PT) (w : BitVec 56)
  /-- VADD: Vector binary32 add (R135). -/
  | vadd (die : Die) (pt : PT) (w : BitVec 56)
  /-- VSUB: Vector binary32 subtract (R135). -/
  | vsub (die : Die) (pt : PT) (w : BitVec 56)
  /-- VMUL: Vector binary32 multiply (R135). -/
  | vmul (die : Die) (pt : PT) (w : BitVec 56)
  /-- VFMA: Vector fused multiply-add with one rounding (R117). -/
  | vfma (die : Die) (pt : PT) (w : BitVec 56)
  /-- VMIN: Vector minimum in the defined order (R137). -/
  | vmin (die : Die) (pt : PT) (w : BitVec 56)
  /-- VMAX: Vector maximum in the defined order (R137). -/
  | vmax (die : Die) (pt : PT) (w : BitVec 56)
  /-- VCMP: Per-lane comparison written into a lane mask (R137). -/
  | vcmp (die : Die) (pt : PT) (w : BitVec 56)
  /-- VSEL: Per-lane selection between two vectors by mask (R117). -/
  | vsel (die : Die) (pt : PT) (w : BitVec 56)
  /-- CMUL: Complex multiply on register pairs with one rounding per part (R136). -/
  | cmul (die : Die) (pt : PT) (w : BitVec 56)
  /-- VMAXI: Updates a running per-lane best value and index for maximum (R138). -/
  | vmaxi (die : Die) (pt : PT) (w : BitVec 56)
  /-- VMINI: Updates a running per-lane best value and index for minimum (R138). -/
  | vmini (die : Die) (pt : PT) (w : BitVec 56)
  /-- RMAXI: Reduces 64 lane pairs to the best maximum value and index in scalar registers (R138). -/
  | rmaxi (die : Die) (pt : PT) (w : BitVec 56)
  /-- RMINI: Reduces 64 lane pairs to the best minimum value and index in scalar registers (R138). -/
  | rmini (die : Die) (pt : PT) (w : BitVec 56)
  /-- VRSUM: Sums the 64 lanes in a fixed tree and broadcasts the result (R139). -/
  | vrsum (die : Die) (pt : PT) (w : BitVec 56)
  /-- VFN: Correctly rounded EXP2, LOG2, RCP or RSQ per lane (R140). -/
  | vfn (die : Die) (pt : PT) (w : BitVec 56)
  /-- VCVT: Rounds a vector to an output format and re-expands it (R141). -/
  | vcvt (die : Die) (pt : PT) (w : BitVec 56)
  /-- VIADD: Vector INT32 add modulo 2^32 (R117). -/
  | viadd (die : Die) (pt : PT) (w : BitVec 56)
  /-- VISUB: Vector INT32 subtract modulo 2^32 (R117). -/
  | visub (die : Die) (pt : PT) (w : BitVec 56)
  /-- VIMUL: Vector INT32 multiply, low 32 bits (R117). -/
  | vimul (die : Die) (pt : PT) (w : BitVec 56)
  /-- VLOGIC: Vector AND, OR or XOR selected by MOD (R117). -/
  | vlogic (die : Die) (pt : PT) (w : BitVec 56)
  /-- VSHIFT: Vector shift selected by MOD (R117). -/
  | vshift (die : Die) (pt : PT) (w : BitVec 56)
  /-- VPERM: Vector permutation DEVEN, DODD, ILO, IHI or ROT (R117). -/
  | vperm (die : Die) (pt : PT) (w : BitVec 56)
  /-- VBCAST: Broadcasts a scalar register into every lane (R117). -/
  | vbcast (die : Die) (pt : PT) (w : BitVec 56)
  /-- VLD: Loads 64 elements from the operand buffer into a vector register (R141). -/
  | vld (die : Die) (pt : PT) (w : BitVec 56)
  /-- VST: Converts a vector and stores it into operand-buffer lines (R141). -/
  | vst (die : Die) (pt : PT) (w : BitVec 56)
  /-- REGISTER_RESULT_LAND: A scalar or vector result becomes visible L slots after its instruction issued (R119). -/
  | registerResultLand (die : Die) (pt : PT) (err : TileErr)
  /-- ARRAY_WRITE_LAND: The sums of an MX or EW vector are written into the Cistern after the pipeline latency (R71). -/
  | arrayWriteLand (die : Die) (pt : PT) (upset : Option Upset) (err : TileErr := .clean)
  /-- SHADOW_COMPLETE: The shadow weight block written by a WLD becomes complete (R65). -/
  | shadowComplete (die : Die) (pt : PT)
  /-- ALLOCATION_GRANT: A pending Cistern allocation is granted once its units are free, in request order (R104). -/
  | allocationGrant (die : Die) (pt : PT)
  /-- WB_READ_COMPLETE: A write-back finishes reading its region; a release mark frees the allocation (R145). -/
  | wbReadComplete (die : Die) (pt : PT) (err : TileErr := .clean)
  /-- WB_ACKNOWLEDGE: A write-back is acknowledged by its destination (R147). -/
  | wbAcknowledge (die : Die) (pt : PT)
  /-- SAVE: A SAVE request is accepted and the Cistern, the sequencer context and the scratch lines are streamed to the save area (R107). -/
  | save (die : Die) (pt : PT) (area : W32)
  /-- SAVE_COMPLETE: The save area acknowledges the last write and the save is reported complete (R107). -/
  | saveComplete (die : Die) (pt : PT)
  /-- RESTORE: A saved image is read back onto a physical tile and the weight blocks are rebuilt (R108). -/
  | restore (die : Die) (pt target : PT)
  /-- TEST: A TEST request hands the tile to the Tap test engine, after a save if it is running (R127). -/
  | test (die : Die) (pt : PT)
  /-- LAUNCH: A LAUNCH request releases a waiting WLCH or sets EVP (R130). -/
  | launch (die : Die) (pt : PT) (time : W64)
  /-- STOP: A STOP request ends the tile's part of an operation and the tile becomes idle (R127). -/
  | stop (die : Die) (pt : PT)
  /-- REPEAT_BUDGET_EXPIRY: After 8,192 cycles of a repeat with a request pending, the next body cycle becomes an acceptance point (R128). -/
  | repeatBudgetExpiry (die : Die) (pt : PT)
  /-- TILE_MOVE: A logical tile moves to another physical tile: save, refetch, weight rebuild and map change (R89). -/
  | tileMove (die : Die) (lt : Fin 128) (target : PT)
  /-- FETCH_LIST_LINE_ARRIVAL: A 64-byte line of fetch-list entries arrives at the fetch engine (R153). -/
  | fetchListLineArrival (die : Die) (pt : PT)
  /-- SETUP: Fetch-list SETUP entry defines a ring and invalidates its lines (R155). -/
  | setup (die : Die) (pt : PT)
  /-- FETCH: Fetch-list FETCH entry issues into its slot when the slot is free and the lead allows, unicast or multicast (R155). -/
  | fetch (die : Die) (pt : PT)
  /-- FETCH_DATA_ARRIVAL: A fetched line is written into the operand buffer and becomes valid (R155). -/
  | fetchDataArrival (die : Die) (pt : PT)
  /-- MARK: Fetch-list MARK entry stops the fetch engine until its write-back and slot conditions hold (R158). -/
  | mark (die : Die) (pt : PT)
  /-- MARK_RELEASE: The conditions of a MARK are met and fetch continues (R158). -/
  | markRelease (die : Die) (pt : PT)
  /-- FETCH_LIST_END: Fetch-list END entry stops the fetch engine until the next dispatch (R153). -/
  | fetchListEnd (die : Die) (pt : PT)
  /-- STAGING_PIECE_SEND: A die sends or forwards a weight slice piece to its chain predecessor once a free piece is granted (R167). -/
  | stagingPieceSend (die : Die) (part : Fin 64) (layer : W32) (slice : Fin 16) (src : Option W32)
  /-- STAGING_PIECE_ARRIVAL: A weight slice piece fully arrives in the staging ring (R168). -/
  | stagingPieceArrival (die : Die) (part : Fin 64)
  /-- KERNEL: KERNEL operation: reads the dispatch record and runs its kernels on their tiles in index order (R410). -/
  | kernel (ctx : Fin 4096) (express : Bool) (opseq : W32)
  /-- KERNEL_DISPATCH: A kernel is dispatched to its tiles once every tile of the previous kernel has passed END (R114). -/
  | kernelDispatch (ctx : Fin 4096) (express : Bool) (opseq : W32)
  /-- CASCADE: CASCADE operation: a scheduled chained reduction and distribution starting at LAUNCH (R200). -/
  | cascade (ctx : Fin 4096) (express : Bool) (opseq : W32)
  /-- GENERATE: GENERATE operation: the Fountain unit writes a random tensor (R177). -/
  | generate (ctx : Fin 4096) (express : Bool) (opseq : W32) (ecc : Bool := false)
  /-- SAMPLE: SAMPLE operation: the Fountain sampler draws one token per row of logits (R180). -/
  | sample (ctx : Fin 4096) (express : Bool) (opseq : W32) (rows : Nat) (ecc : Bool := false)
  /-- COPY: COPY operation moves lines between host, local and remote logical addresses (R407). -/
  | copy (ctx : Fin 4096) (express : Bool) (opseq : W32) (lines : Nat)
  /-- MESSAGE: MESSAGE operation writes lines to a remote partition and posts a record on its message context (R411). -/
  | message (ctx : Fin 4096) (express : Bool) (opseq : W32)
  /-- REGION_LOAD: REGION_LOAD operation submits a region image for one Mortar region (R278). -/
  | regionLoad (ctx : Fin 4096) (express : Bool) (opseq : W32)
  /-- DIGEST: DIGEST operation starts a weight digest epoch at the next step boundary (R228). -/
  | digest (ctx : Fin 4096) (express : Bool) (opseq : W32)
  /-- SURVEY: SURVEY operation floods a survey and collects Plumb reports for 1 s (R362). -/
  | survey (ctx : Fin 4096) (express : Bool) (opseq : W32)
  /-- CANCEL: CANCEL operation cancels a range of operations of one ring (R415). -/
  | cancel (ctx : Fin 4096) (express : Bool) (opseq : W32)
  /-- NOP_DESCRIPTOR: NOP descriptor completes OK once admitted and its dependences are resolved (R407). -/
  | nopDescriptor (ctx : Fin 4096) (express : Bool) (opseq : W32)
  /-- CRITICAL: A CRITICAL descriptor or mailbox command enters Keystone's queue and is checked in order (R453). -/
  | critical (ctx : Fin 4096) (express : Bool) (opseq : W32)
  /-- FW_UPDATE: Critical command that writes a new firmware image into the inactive bank and optionally activates it (R469). -/
  | fwUpdate (finish ok : Bool)
  /-- SVN_COMMIT: Critical command that fuses a new security version for an image type (R451). -/
  | svnCommit
  /-- KEY_INSTALL: Critical command that installs a wrapped HMAC key into a key slot (R446). -/
  | keyInstall
  /-- KEY_REVOKE: Critical command that revokes a key slot from 1 to 7 (R451). -/
  | keyRevoke
  /-- OWNER_PROVISION: Installs the slot 0 key in plaintext and blows OWNED (R448). -/
  | ownerProvision
  /-- IMGKEY_VBAT: Critical command that installs the image key in battery-backed memory (R446). -/
  | imgkeyVbat
  /-- IMGKEY_FUSE: Critical command that writes the eFuse image key once (R447). -/
  | imgkeyFuse
  /-- KEYSRC_FUSE: Critical command that sets the KEYSRC fuse for the next power-up (R451). -/
  | keysrcFuse
  /-- ROOT_REVOKE: Critical command that revokes a root-key digest (R451). -/
  | rootRevoke
  /-- PART_CREATE: Critical command that creates a partition from a partition block (R452). -/
  | partCreate
  /-- PART_CHANGE: Critical command that changes a partition's tiles, bank sets, regions and peers (R36). -/
  | partChange
  /-- PART_DELETE: Critical command that releases a partition's resources and unbinds its contexts (R511). -/
  | partDelete
  /-- GRADE_SET: Critical command that changes the operating grade at the next step boundaries (R5). -/
  | gradeSet
  /-- LOCKSTEP_SET: Critical command that sets or clears a lock-step pair (R235). -/
  | lockstepSet
  /-- TAP_FORCE: Critical command that forces a Tap test of one physical tile (R464). -/
  | tapForce
  /-- DIE_FENCE: Critical command that fences a compute die (R465). -/
  | dieFence
  /-- DIE_UNFENCE: Critical command that powers a fenced die and brings it back up (R467). -/
  | dieUnfence (fails : List PT)
  /-- DEBUG_ENABLE: Critical command that opens or closes JTAG debug (R451). -/
  | debugEnable
  /-- ATTEST: Unauthenticated command that writes a signed attestation report (R457). -/
  | attest
  /-- DESCRIPTOR_FETCH: The queue processor fetches a descriptor, takes an operation tag and assigns OPSEQ (R404). -/
  | descriptorFetch (ctx : Fin 4096) (express ok : Bool)
  /-- WEIR_ADMISSION: An operation is admitted against its token buckets (R413). -/
  | weirAdmission (ctx : Fin 4096) (express : Bool) (opseq : W32)
  /-- OPERATION_READY: An admitted operation's dependences have completed, so it runs or completes with E_DEP_CANCELLED (R414). -/
  | operationReady (ctx : Fin 4096) (express : Bool) (opseq : W32)
  /-- CAPABILITY_RELEASE: An operation held for a capability is dispatched when the capability is set (R275). -/
  | capabilityRelease (ctx : Fin 4096) (express : Bool) (opseq : W32)
  /-- ENTROPY_SEED_DRAW: The queue processor draws an entropy seed for an ENT = 1 operation (R175). -/
  | entropySeedDraw (ctx : Fin 4096) (express : Bool) (opseq : W32)
  /-- OPERATION_TIMEOUT: An operation's timeout expires and it ends as a running cancel with E_TIMEOUT (R416). -/
  | operationTimeout (ctx : Fin 4096) (express : Bool) (opseq : W32)
  /-- COMMIT_DECISION: Every tile of the last kernel has passed END; the operation commits or is held (R220). -/
  | commitDecision (ctx : Fin 4096) (express : Bool) (opseq : W32)
  /-- COMPLETION_RECORD_WRITE: A completion record is written into a free completion slot and the tag is freed (R405). -/
  | completionRecordWrite (ctx : Fin 4096) (target : Option (Bool × W32)) (ok : Bool)
  /-- COALESCING_TIMER_EXPIRY: The coalescing timer expires and the held interrupt is signalled (R423). -/
  | coalescingTimerExpiry (ctx : Fin 4096)
  /-- STEP_BOUNDARY: A partition reaches a step boundary, where grade, partition and digest changes take effect (R417). -/
  | stepBoundary (part : Fin 64)
  /-- CONTEXT_DRAIN_DONE: A draining context has completed every operation and becomes DISABLED (R397). -/
  | contextDrainDone (ctx : Fin 4096)
  /-- NORMAL_RING_TAIL: Doorbell write of the normal submission ring tail (R403). -/
  | normalRingTail (link : Fin 2) (page : Fin 4096) (val : W32) (whole : Bool)
  /-- EXPRESS_RING_TAIL: Doorbell write of the express submission ring tail (R403). -/
  | expressRingTail (link : Fin 2) (page : Fin 4096) (val : W32) (whole : Bool)
  /-- COMPLETION_RING_HEAD: Doorbell write of the completion ring head (R403). -/
  | completionRingHead (link : Fin 2) (page : Fin 4096) (val : W32) (whole : Bool)
  /-- TC_EN_SET: Setting TC_CTRL.EN activates a context after ABI negotiation (R398). -/
  | tcEnSet (req : Fin 3) (ctx : Fin 4096)
  /-- TC_EN_CLEAR: Clearing TC_CTRL.EN moves the context to DRAINING and cancels undispatched operations (R397). -/
  | tcEnClear (req : Fin 3) (ctx : Fin 4096)
  /-- TC_RESET: TC_CTRL.RESET moves a context out of ERROR to DRAINING (R397). -/
  | tcReset (req : Fin 3) (ctx : Fin 4096)
  /-- INTERRUPT_UNMASK: Clearing MASK sends a held interrupt (R423). -/
  | interruptUnmask (req : Fin 3) (ctx : Fin 4096)
  /-- ABI_NEGOTIATION: HUB_ABI_CTRL.GO compares the offered ABI versions with the signed list and selects one (R395). -/
  | abiNegotiation (link : Fin 2)
  /-- BAR4_READ: Host read through the BAR4 window onto a bank set (R393). -/
  | bar4Read (link : Fin 2) (off : Fin 68719476736) (n : Fin 4097)
  /-- BAR4_WRITE: Host write through the BAR4 window onto a bank set (R393). -/
  | bar4Write (link : Fin 2) (off : Fin 68719476736) (bytes : List Byte)
  /-- PERST_ASSERT: PERST# resets the host interface of a link without stopping the module (R394). -/
  | perstAssert (link : Fin 2)
  /-- FUNCTION_LEVEL_RESET: A Function Level Reset resets the host interface of the link (R394). -/
  | functionLevelReset (link : Fin 2)
  /-- HOT_RESET: A PCIe hot reset resets the host interface of the link (R394). -/
  | hotReset (link : Fin 2)
  /-- LINK_DOWN: A PCIe link-down, including surprise removal, resets the host interface of the link (R394). -/
  | linkDown (link : Fin 2)
  /-- REGISTER_WRITE: Write to a register that has no row of its own, acting by the field types and lock bits (R14). -/
  | registerWrite (req : Fin 3) (off : Fin 67108864) (size : Nat) (be val : BitVec 64)
  /-- IND_ADDR_WRITE: Writes the indirect target, block and offset (R434). -/
  | indAddrWrite (req : Fin 3) (val : W32)
  /-- IND_DATA_ACCESS: Reads or writes the register named by IND_ADDR, with auto-increment (R434). -/
  | indDataAccess (req : Fin 3) (val : Option W32)
  /-- WIDE_REQ: WIDE_CTRL.REQ captures a wide value into the mailbox (R436). -/
  | wideReq (req : Fin 3)
  /-- SMBUS_OFFSET_WRITE: SMBus command 0x01 sets the BAR0 offset for reads (R495). -/
  | smbusOffsetWrite (off : W32)
  /-- SMBUS_REGISTER_READ: SMBus command 0x02 returns a CFG_, HLT_ or PWR_ register without clearing it (R495). -/
  | smbusRegisterRead
  /-- RUNNEL_SNAPSHOT: RUN_STAT_SEL.SNAP copies and clears the statistics of an initiator and plane (R301). -/
  | runnelSnapshot (req : Fin 3) (die : Die) (init : Fin 151) (plane : Fin 4)
  /-- KS_CMD_GO: Queues the mailbox descriptor for Keystone (R459). -/
  | ksCmdGo (req : Fin 3)
  /-- CLP_SET_GO: Starts a staged write of device time (R381). -/
  | clpSetGo (req : Fin 3) (mode : Fin 4)
  /-- TIME_WRITE_APPLY: A staged time write applies at the named MLT as a step or slew (R381). -/
  | timeWriteApply
  /-- MOR_CLKDIV_WRITE: Changes a fabric clock divisor, or is ignored and sets DIVERR (R249). -/
  | morClkdivWrite (req : Fin 3) (die : Die) (val : W32)
  /-- RETIRE: VL_CTRL.RETIRE starts the planned removal of a port peer (R356). -/
  | retire (req : Fin 3) (die : Die)
  /-- RETRAIN: VL_CTRL.RETRAIN starts a full training of the port (R346). -/
  | retrain (req : Fin 3) (die : Die)
  /-- PORT_DISABLE: Clearing VL_CTRL.EN disables the port (R364). -/
  | portDisable (req : Fin 3) (die : Die)
  /-- MODID_WRITE: Writing VL_CTRL.MODID changes the module ID and sends IDUPD to the peer (R337). -/
  | modidWrite (req : Fin 3) (die : Die) (id : Byte)
  /-- BITSLIP: VL_BITSLIP.GO moves the codeword boundary during manual alignment (R348). -/
  | bitslip (req : Fin 3) (die : Die) (lane : Fin 9) (ui : Fin 512)
  /-- LP2REQ: VL_PWR.LP2REQ requests the LP2 power state (R355). -/
  | lp2req (req : Fin 3) (die : Die)
  /-- PLUMB_GO: VL_PLUMB_CTRL.GO starts one Plumb measurement of 1,024 samples (R360). -/
  | plumbGo (req : Fin 3) (die : Die)
  /-- RUNNEL_REQUEST: An initiator sends a request on a plane with an end-to-end credit (R289). -/
  | runnelRequest (die : Die) (init : Fin 151) (target : Fin 170) (plane cls : Fin 4) (part : Option (Fin 64)) (write : Bool) (addr lines : Nat) (data : List Line) (lt : Option (Fin 128))
  /-- RUNNEL_REQUEST_ARRIVAL: A request reaches its target buffer, or its Sluice, and its credit is later returned (R289). -/
  | runnelRequestArrival (die : Die) (id : Nat)
  /-- RUNNEL_RESPONSE: A response or write acknowledgement reaches its initiator (R290). -/
  | runnelResponse (die : Die) (id : Nat)
  /-- SLUICE_RAISE: The module manager raises the Sluices of a domain into DRAIN (R295). -/
  | sluiceRaise (die : Die) (ports : List Nat)
  /-- SLUICE_DRAIN_EXPIRY: After 20 µs of drain the Sluices answer what remains and enter CLOSED (R295). -/
  | sluiceDrainExpiry (die : Die)
  /-- SLUICE_SAFE: The domain's credits count back to zero and SAFE is set (R295). -/
  | sluiceSafe (die : Die)
  /-- SLUICE_OPEN: A Sluice returns to OPEN with fresh credits (R296). -/
  | sluiceOpen (die : Die) (port : Fin 170)
  /-- REDIRECT_END: After 256 cycles a REDIRECT Sluice enters CLOSED (R297). -/
  | redirectEnd (die : Die) (pt : PT)
  /-- HBM_READ: A line read enters its class read queue (R313). -/
  | hbmRead (die : Die) (pc bank : Fin 64) (row : Fin 16384) (col : Fin 16) (training : Bool)
  /-- HBM_WRITE: A line write enters its class write queue and is acknowledged (R309). -/
  | hbmWrite (die : Die) (pc bank : Fin 64) (row : Fin 16384) (col : Fin 16) (training : Bool) (mask : BitVec 64) (data : Line)
  /-- HBM_COMMAND_ISSUE: The controller picks and issues a command in a slot of its class (R311). -/
  | hbmCommandIssue (die : Die) (pc : Fin 64) (training : Bool) (err : ReadErr)
  /-- PER_BANK_REFRESH: The refresh interval expires and a bank is refreshed (R314). -/
  | perBankRefresh (die : Die) (pc bank : Fin 64)
  /-- REFRESH_WINDOW_START: A new refresh window frees every row-disturbance table entry (R314). -/
  | refreshWindowStart (die : Die)
  /-- STACK_TEMPERATURE_READ: The stack temperature is read every 1 ms and the refresh rate set (R314). -/
  | stackTemperatureRead (die : Die) (celsius : Int)
  /-- POWER_DOWN_ENTRY: PD_TIMER expires on an idle pseudo-channel, which enters power-down (R315). -/
  | powerDownEntry (die : Die) (pc : Fin 64)
  /-- PATROL_SCRUB: The patrol scrub reads a line in a spare slot (R317). -/
  | patrolScrub (die : Die) (pc bank : Fin 64) (row : Fin 16384) (col : Fin 16) (err : ReadErr)
  /-- ROW_REPAIR: The module manager repairs a failing HBM row by soft repair (R318). -/
  | rowRepair (die : Die) (done : Option (BitVec 16))
  /-- CHANNEL_TRAINING: An HBM channel is trained to 7.68 Gb/s at stage C (R319). -/
  | channelTraining (die : Die) (done : Option Bool)
  /-- BANK_SET_CLEAR_COMPLETE: Clearing of a bank set ends and it is granted to its partition (R308). -/
  | bankSetClearComplete (part : Fin 64) (die : Die)
  /-- WEIGHT_COPY_COMPLETE: The copy of a partition's weights into a new bank set is complete (R36). -/
  | weightCopyComplete (part : Fin 64) (die : Die)
  /-- PIECE_FORWARD: A station forwards a Cascade piece at its scheduled time or when ready (R201). -/
  | pieceForward (group : Fin 65536) (step : W32) (pos : Fin 4096) (piece : Fin 16777216) (final : Bool)
  /-- PIECE_RECEIVE: A station receives a Cascade piece, checks its CRC and epoch, and adds it (R198). -/
  | pieceReceive (src : PieceSource)
  /-- PIECE_RESEND: The upstream station resends a piece that failed its CRC check (R198). -/
  | pieceResend (group : Fin 65536) (step : W32) (pos : Fin 4096) (piece : Fin 16777216) (final : Bool)
  /-- CASCADE_COMMIT: The last final piece returns and the commit decision is taken (R200). -/
  | cascadeCommit (group : Fin 65536) (step : W32)
  /-- COMMIT_MARKER: The commit marker reaches a station, which writes the result and releases its regions (R203). -/
  | commitMarker (group : Fin 65536) (epoch step : W32) (pos : Fin 4096)
  /-- CASCADE_PROGRESS_MESSAGE: A running station sends a progress message downstream every 1 ms (R209). -/
  | cascadeProgressMessage (group : Fin 65536) (step : W32)
  /-- UPSTREAM_LOST: No piece or progress message arrives within the transaction timeout and the upstream station is reported lost (R209). -/
  | upstreamLost (group : Fin 65536) (step : W32) (pos : Fin 4096)
  /-- EPOCH_HOLD_EXPIRY: A piece of a higher epoch held for 3 s is discarded (R207). -/
  | epochHoldExpiry (group : Fin 65536)
  /-- MEMBERSHIP_CHANGE: A change of membership fails the step's epoch; the list is rebuilt and the step may be replayed (R208). -/
  | membershipChange (group : Fin 65536) (lost : List (Fin 4096))
  /-- MEMBERSHIP_REBUILD: The module manager builds the new membership list from the survivors within 3 s (R25). -/
  | membershipRebuild (group : Fin 65536) (list : List Byte) (map : List (Fin 128 × Fin 512)) (rank : Fin 256) (parts : List (Fin 64))
    (known : List W32 := [])
  /-- REPLAY_DISPATCH: A held operation is replayed on the chosen die or span (R223). -/
  | replayDispatch (ctx : Fin 4096) (express : Bool) (opseq : W32) (launch : W64)
  /-- LOCKSTEP_RECORD: A kernel CRC record reaches the queue processor and is compared with the partner's (R237). -/
  | lockstepRecord (part : Fin 64)
  /-- DIGEST_COMPARE: Every die has finished hashing and the replica digests are compared (R229). -/
  | digestCompare (part : Fin 64) (shardsAgree : Bool)
  /-- REPLICA_RELOAD_COMPLETE: The copy to an odd replica ends and it rejoins at the next step boundary (R229). -/
  | replicaReloadComplete (part : Fin 64) (die : Die)
  /-- FOUNTAIN_QUEUE_RELEASE: A held Fountain operation enters the unit once it holds fewer than 8 (R190). -/
  | fountainQueueRelease (die : Die)
  /-- REGION_LOAD_ACCEPTANCE: A region load reaches the head of its die's queue and isolates the region (R280). -/
  | regionLoadAcceptance (die : Die)
  /-- REGION_IMAGE_VERIFIED: The signature, version pairs and GCM tag of a region image pass (R280). -/
  | regionImageVerified (die : Die)
  /-- REGION_RELEASE: The region is released in order: clocks, set-reset, write ports and isolation (R247). -/
  | regionRelease (die : Die)
  /-- REGION_DEADLINE_EXPIRY: The load deadline expires before release and the region is left empty (R281). -/
  | regionDeadlineExpiry (die : Die)
  /-- CONFIG_SCRUB: A configuration frame is scrubbed every 10 ms (R259). -/
  | configScrub (die : Die) (region : Option (Fin 8)) (frame : W32) (upset : ReadErr)
  /-- FRAME_RECEIVE: A Vidonlink frame is received, decoded and checked, and its ACK, NAK and credits are applied (R350). -/
  | frameReceive (die : Die) (group : Fin 2) (lanes : List (Nat × BitVec 680))
  /-- FRAME_SEND: A frame is built from the flit slot schedule and sent each codeword period (R334). -/
  | frameSend (die : Die)
  /-- ACK_INTERVAL_EXPIRY: An ACK is sent every 32 frames or every 100 ns (R333). -/
  | ackIntervalExpiry (die : Die)
  /-- ACK_TIMEOUT: No ACK arrives for 2 µs and the transmitter resends from the oldest frame (R350). -/
  | ackTimeout (die : Die)
  /-- LANE_SPARE_TRIGGER: A lane exceeds its error threshold or loses lock, and the receiver sends SWAPREQ (R351). -/
  | laneSpareTrigger (die : Die) (lane : Fin 9) (lsClean : Bool)
  /-- SWAPREQ: Link control flit asking the transmitter to mirror a lane onto LS (R351). -/
  | swapreq (die : Die)
  /-- SWAPACK: Link control flit confirming the mirror and naming the switch period (R351). -/
  | swapack (die : Die)
  /-- SWAP_SWITCH: At the switch period the receiver takes the lane from LS (R351). -/
  | swapSwitch (die : Die)
  /-- RECOVERY: Port recovery tries a lane swap, a fast retrain, then one full retrain (R352). -/
  | recovery (die : Die) (blame : Option (Fin 9)) (lsClean : Bool)
  /-- PORT_LOST: A port not up 12 ms after recovery starts is declared lost (R353). -/
  | portLost (die : Die)
  /-- SIGNAL_DETECT: Signal detect on eight lanes starts full training of a direction (R346). -/
  | signalDetect (die : Die) (lanes : Fin 10)
  /-- TRAINING_BURST: A down or lost port sends training blocks for 100 µs every 10 ms (R357). -/
  | trainingBurst (die : Die)
  /-- TRAINING_BLOCK: A training block with its control word arrives on a lane (R344). -/
  | trainingBlock (die : Die) (lane : Fin 9) (ctl : BitVec 64) (margin : BitVec 8)
  /-- LINK_UP: Training reaches step 6; credits and sequence numbers reset and the port is up (R346). -/
  | linkUp (die : Die)
  /-- LPREQ: Link control flit requesting LP1 or LP2 (R355). -/
  | lpreq (die : Die)
  /-- LPACK: Link control flit accepting a low-power state (R355). -/
  | lpack (die : Die)
  /-- LPNAK: Link control flit refusing a low-power state (R355). -/
  | lpnak (die : Die)
  /-- LP1_IDLE_EXPIRY: An idle port reaches LP1IDLE and requests LP1 (R355). -/
  | lp1IdleExpiry (die : Die)
  /-- PORT_WAKE: A queued flit wakes a port in LP1 or LP2 (R355). -/
  | portWake (die : Die)
  /-- WAKE_TIMEOUT: The peer does not wake within 2 ms and recovery starts (R355). -/
  | wakeTimeout (die : Die)
  /-- REMOVE: Link control flit announcing a planned removal; both ends drain and go down (R356). -/
  | remove (die : Die)
  /-- SURPRISE_REMOVAL: Loss of signal on all lanes for 1 µs, or of cable presence, starts recovery (R356). -/
  | surpriseRemoval (die : Die) (cable : Bool)
  /-- IDUPD: Link control flit carrying the peer's new module ID (R337). -/
  | idupd (die : Die)
  /-- PLUMB_TS: Link control flit carrying the transmit time stamp of a period (R359). -/
  | plumbTs (die : Die) (stamps : List Int)
  /-- PLUMB_RPT: Link control flit returning the nine receive stamps of a period (R359). -/
  | plumbRpt (die : Die)
  /-- PLUMB_SAMPLE: A Plumb sample is taken every 10 × 2^RATE µs (R360). -/
  | plumbSample (die : Die)
  /-- PLUMB_LOG: Every LOGH hours a measurement is logged and checked for drift (R361). -/
  | plumbLog (die : Die)
  /-- EXPRESS_MESSAGE_ARRIVAL: An express flit reaches its destination and is written into an operand-buffer line, or is discarded (R339). -/
  | expressMessageArrival (die : Die)
  /-- READ_REQUEST: A remote read request packet arrives and is served, forwarded or refused (R338). -/
  | readRequest (die : Die) (fromModule : Bool)
  /-- WRITE_REQUEST: A remote write request packet arrives and is written, forwarded or refused (R338). -/
  | writeRequest (die : Die) (fromModule : Bool)
  /-- MESSAGE_PACKET: A message packet arrives, its lines are written and a record is posted (R411). -/
  | messagePacket (die : Die) (fromModule : Bool)
  /-- READ_RESPONSE: A read response arrives and completes its tag, or is discarded as late (R343). -/
  | readResponse (die : Die) (fromModule : Bool)
  /-- WRITE_ACKNOWLEDGEMENT: A write or message acknowledgement arrives and completes its tag (R343). -/
  | writeAcknowledgement (die : Die) (fromModule : Bool)
  /-- MANAGEMENT_PACKET: A management packet arrives on MG (R338). -/
  | managementPacket (die : Die) (fromModule : Bool)
  /-- SURVEY_PACKET: A survey packet arrives; it is forwarded once and a measurement is reported (R362). -/
  | surveyPacket (die : Die) (fromModule : Bool)
  /-- TRANSACTION_TIMEOUT: A remote request times out with E_TIMEOUT or E_LINK_LOST (R343). -/
  | transactionTimeout (die : Die) (tag : Fin 4096)
  /-- PTM_DIALOGUE: A PTM dialogue runs every PTM_MS and yields θ against device time (R370). -/
  | ptmDialogue (answer : Option (Nat × Nat))
  /-- SYNC: A PTP Sync message is sent or received (R371). -/
  | sync (die : Die) (sent oneStep : Bool) (domain seq : Nat)
  /-- FOLLOW_UP: A PTP Follow_Up with the epoch TLV is received and yields θ and epoch data (R372). -/
  | followUp (die : Die) (sent : Bool) (domain seq : Nat) (origin : Nat) (tlv : List Byte)
  /-- PDELAY_REQ: A PTP peer-delay exchange measures link delay (R371). -/
  | pdelayReq (die : Die) (t1 t2 t3 t4 : Int)
  /-- ANNOUNCE: A PTP Announce message feeds the best master algorithm (R371). -/
  | announce (die : Die) (sent : Bool) (domain prio1 cls acc var prio2 ident steps : Nat)
  /-- ANNOUNCE_RECEIPT_TIMEOUT: The announce receipt timeout expires and the source may be lost (R369). -/
  | announceReceiptTimeout (die : Die)
  /-- SLEW_END: A slew ends once θ is below 1 µs (R374). -/
  | slewEnd
  /-- COUNTER_CHANGE_APPLY: A broadcast counter change applies on every counter pair at its named MLT (R368). -/
  | counterChangeApply
  /-- EPOCH_APPLY: A pending time epoch applies at APPLY (R375). -/
  | epochApply
  /-- ADOPTION: A slave adopts the root's MLT, device time and epoch, moving forward (R376). -/
  | adoption
  /-- CLOCK_DOMAIN_STOPPED: A domain with no edge for 1 µs is stopped and handled as a PLL unlock (R387). -/
  | clockDomainStopped (die : Fin 17) (domain : Fin 18) (rootPll : Bool)
  /-- CROSSING_TIMEOUT: A crossing toward a domain slow to drain times out after 10 µs (R387). -/
  | crossingTimeout (die : Fin 17) (domain : Fin 18) (waited : Option BusAccess)
  /-- TAP_TEST_DUE: A tile's Tap test falls due, and its role moves to a spare (R461). -/
  | tapTestDue (die : Die) (pt : PT)
  /-- TAP_TEST_RESULT: A Tap test ends; the tile returns as a spare or is retired (R463). -/
  | tapTestResult (die : Die) (signature : W64)
  /-- TAP_GRACE_EXPIRY: The grace period ends with no kernel boundary and SAVE is delivered (R462). -/
  | tapGraceExpiry (die : Die) (area : W32)
  /-- FENCE_DECISION: The module manager fences a die on a trigger (R465). -/
  | fenceDecision (die : Die) (lt : Option (Fin 128))
  /-- LIVE_ACTIVATION: A new firmware image is activated live, per type (R470). -/
  | liveActivation (fails : List PT)
  /-- CALIBRATION_WRITE: Calibration is written to the older slot, with VALID programmed last (R473). -/
  | calibrationWrite (data : List Byte) (whole : Bool)
  /-- FAULT_RECORD_DELIVERY: A fault record is written into the host log ring once there is space (R476). -/
  | faultRecordDelivery
  /-- POWER_GOOD: Every rail is in regulation and power good is asserted, starting bring-up (R481). -/
  | powerGood (split : Bool) (addr : BitVec 2) (vbat : Bool)
  /-- POWER_GOOD_WITHDRAWN: Undervoltage, overvoltage or overcurrent withdraws power good and the rails fall (R479). -/
  | powerGoodWithdrawn
  /-- ENLOOP_CLOSE: The hot-swap loop closes; after debounce the controller is enabled and the rails come up (R483). -/
  | enloopClose (volts : Nat)
  /-- ENLOOP_OPEN: The hot-swap loop opens and the input is turned off within 100 µs (R484). -/
  | enloopOpen
  /-- PWRRED_ASSERT: PWRRED# asserted lowers the limit and triggers the fast clamp (R487). -/
  | pwrredAssert
  /-- PWRRED_RELEASE: PWRRED# released returns the limit to LIMIT (R499). -/
  | pwrredRelease
  /-- GOVERNOR_INTERVAL: Every 50 µs the governor samples its inputs and lowers or raises N (R486). -/
  | governorInterval (x : PwrSample)
  /-- FAST_CLAMP: Overpower, PWRRED# or input below 46 V clamps N to 24 within 2 µs (R487). -/
  | fastClamp (cause : Fin 3)
  /-- CLAMP_RELEASE: The clamp releases 1 ms after its cause ends (R487). -/
  | clampRelease
  /-- SUPPLY_DROOP: A die rail below 95 % for 1 µs raises a suspect event (R480). -/
  | supplyDroop (die : Die)
  /-- SHUTDOWN_LIMIT: A junction held at 110 °C for 1 s fences the die, or on the hub withdraws power good (R491). -/
  | shutdownLimit (die : Fin 17)
  /-- THERMAL_TRIP: A temperature of 125 °C turns every rail off and latches THERMTRIP# (R491). -/
  | thermalTrip
  /-- STAGE_A_ENTRY: The management firmware is verified and the module enters stage A (R274). -/
  | stageAEntry (octal : Bool)
  /-- RECOVERY_STAGE_A: No Keystone firmware passes and the ROM serves recovery stage A (R440). -/
  | recoveryStageA (usable octal : Bool)
  /-- INTERNAL_DONE: Every unmasked die releases internal DONE (R270). -/
  | internalDone (bad : List Die) (fails : List (Die × PT)) (shells : List Die := [])
  /-- EXTERNAL_DONE_HIGH: The external DONE pin is sampled high for 1 µs and stage B is entered (R271). -/
  | externalDoneHigh
  /-- XDONE_TIMEOUT: External DONE does not rise within XDONE_TO and the module enters stage B alone (R271). -/
  | xdoneTimeout
  /-- STAGE_B_ENTRY: The module enters stage B and sets QUEUES and REGIONS (R274). -/
  | stageBEntry
  /-- TILES_FULL: The remaining tiles are tested and mapped (R276). -/
  | tilesFull (fails : List (Die × PT))
  /-- CLK_FULL: CK_TILE reaches 1.2 GHz (R276). -/
  | clkFull
  /-- FMT_WIDE: The 16-bit and FP32 datapaths are enabled after their test (R276). -/
  | fmtWide
  /-- HBM_FULL: Every HBM channel is trained to 7.68 Gb/s (R276). -/
  | hbmFull
  /-- VIDON: The Vidonlink ports are trained or reported down (R276). -/
  | vidon
  /-- STAGE_C_ENTRY: Every item of stage C is complete (R274). -/
  | stageCEntry
  /-- REGISTER_READ: A host or on-module processor read of a BAR0 register returns its value, clears RC fields, or ends in a logged bus error (R426). -/
  | registerRead (req : Fin 3) (off : Fin 67108864) (size : Nat) (be : BitVec 64)
  /-- CONFIGURATION_REQUEST: A PCIe configuration request is answered with Request Retry Status before stage A, and by hard logic from stage A on (R273). -/
  | configurationRequest (link : Fin 2)
  /-- CPRS_ASSERT: A cable shorts CPRS# low and the port's CBL_3V3 supply is switched on (R497). -/
  | cprsAssert (port : Die)
  /-- WAKE_TONE: A port in LP2 detects the peer's wake tone on LS and leaves LP2 toward up (R355). -/
  | wakeTone (die : Die)
  /-- BLOCK_MEMORY_ACCESS: A region accesses a Mortar block memory port, with same-cycle conflicts resolved and SECDED errors corrected and counted (R252). -/
  | blockMemoryAccess (die : Die) (region : Fin 8) (mem : Fin 120) (a b : Option BramAccess) (flips : BitVec 72)
  /-- RING_OSCILLATOR_WINDOW: At the end of each 1 ms window timed by CK_REF, the oscillator count is latched into MOR_RO_n (R254). -/
  | ringOscillatorWindow (die : Die) (osc : Fin 4) (count : W32)
  /-- ENTROPY_HEALTH_TEST: The Keystone entropy source fails or passes its health test, clearing or setting KS_STAT.ENTOK and holding or freeing ENT = 1 dispatch (R175). -/
  | entropyHealthTest (passed : Bool)
  deriving DecidableEq, Repr

end Sys2Proof
end

