-- ==== Sys2Proof/Decode.lean ====
section
/-! DEFINITION. The command a table word spells: the table gives no row any bits, so no word spells one. -/

namespace Sys2Proof

/-- The command that a word of `nbits` bits spells by the bits of the table's rows; none, for no row has bits (note 3). -/
def decodeTableWord (_nbits _w : Nat) : Option Instr := none

end Sys2Proof
end

