-- ==== Sys2Proof/Machine/FabricState.lean ====
section
/-! DEFINITION. The parts of a Mortar fabric as plain data (10 R241 to R243, R251, R255): logic cells, block memories, serial blocks. -/

namespace Sys2Proof.Machine

/-- What an input of a logic cell is connected to: a constant, the table output of a cell, a flip-flop, the carry that reaches the cell,
a bit of what a port of a block memory reads, or a signal of the shell interface. -/
inductive Net where
  | const (b : Bool)
  | table (cell : Nat)
  | flop (cell : Nat)
  | carry
  | memory (mem : Nat) (portB : Bool) (bit : Nat)
  | shell (port : Nat)
  deriving DecidableEq, Repr, Inhabited

/-- A logic cell as an image configures it (R241): its 16-bit truth table and four inputs, and for its flip-flop the clock, the clock enable,
the net of its synchronous set or reset and which of the two it is, and its initial value. -/
structure Cell where
  truth : BitVec 16
  in0 : Net
  in1 : Net
  in2 : Net
  in3 : Net
  clock : Fin 3
  enable : Net
  ctrl : Net
  sets : Bool
  init : Bool
  deriving DecidableEq, Repr, Inhabited

/-- A shape of a block-memory port (R251). -/
inductive BramShape where
  | x1 | x2 | x4 | x9 | x18 | x36 | x72
  deriving DecidableEq, Repr, Inhabited
/-- Its width. -/
def BramShape.width : BramShape → Nat
  | .x1 => 1 | .x2 => 2 | .x4 => 4 | .x9 => 9 | .x18 => 18 | .x36 => 36 | .x72 => 72
/-- Its depth. -/
def BramShape.depth : BramShape → Nat
  | .x1 => 32768 | .x2 => 16384 | .x4 => 8192 | .x9 => 4096 | .x18 => 2048 | .x36 => 1024 | .x72 => 512

/-- A block memory's configuration (R251, R253): the shape of each port, the clock of both, the output register, and SECDED. -/
structure BramCfg where
  a : BramShape
  b : BramShape
  clock : Fin 3
  outReg : Bool
  secded : Bool
  deriving DecidableEq, Repr, Inhabited

/-- A fabric with no regions, the static shell of a die or the hub's fabric (R243, R245): whether it is configured, its payload, its set-reset
net, the flip-flops off their initial values, and its block memories by rows of 72 bits (key memory × 512 + row). -/
structure Fabric where
  configured : Bool := false
  payload : List (BitVec 8) := []
  setReset : Bool := true
  flipped : SMap Bool := []
  bramCfg : SMap BramCfg := []
  bram : SMap (BitVec 72) := []
  deriving DecidableEq, Repr

/-- What the pins of a die's serial blocks are driven to (R255): UART TX, the SPI chip selects, and whether each I2C line is released. -/
structure SerialPins where
  tx : Bool := true
  cs : BitVec 4 := 15
  scl : Bool := true
  sda : Bool := true
  deriving DecidableEq, Repr

/-- The serial blocks of a die or of the hub (R255): the FIFOs of the UART, one in each direction, and of the SPI controller, of 64 bytes each, and what
the owning region drives. -/
structure Serial where
  uartTx : List (BitVec 8) := []
  uartRx : List (BitVec 8) := []
  spi : List (BitVec 8) := []
  driven : SerialPins := {}
  deriving DecidableEq, Repr

end Sys2Proof.Machine
end

