-- ==== Sys2Proof/Config.lean ====
section
/-! DEFINITION. What the part fixes and the free values: constants with no body, so that nothing can be proved of them. -/

namespace Sys2Proof

/-- The correctly rounded result of function `fn` at operand bits `arg`, where the model's enclosure does not decide it
(05 R140, 07 R178): a free value. -/
opaque Config.undecidedRounding (fn arg : Nat) : W32
/-- A free 64-bit value: the n-th the machine draws (an entropy seed, 07 R175; a nonce) (DESIGN CHOICE, note 27). -/
opaque Config.freeValue (n : Nat) : W64
/-- The n-th free byte: data a rule calls unspecified (05 R133; 16 R415; 09 R226) (DESIGN CHOICE, note 129). -/
opaque Config.freeByte (n : Nat) : Byte
/-- The module serial number, 8 bytes (17 R436) (DESIGN CHOICE, note 28). -/
opaque Config.serial : W64
/-- The organizationId of CLP_ORGID (15 R389), fixed and not stated. -/
opaque Config.orgId : BitVec 24
/-- The frequency correction the servo of 15 R374 sets for an offset below 1 µs (its law is not stated), before its limit (DESIGN CHOICE, note 32). -/
opaque Config.servo (theta freq : Int) : Int
/-- The clockIdentity derived from a serial number (15 R371). -/
opaque Config.clockIdentity (serial : W64) : W64
/-- The digests of root keys ROOT0 to ROOT3 (18 R439), fused at manufacture. -/
opaque Config.rootDigest (i : Nat) : BitVec 256
/-- The fused 64-bit reference signature of a physical tile's Tap test (19 R460). -/
opaque Config.tapSignature (die pt : Nat) : W64
/-- AES-256-GCM decryption (18 R446, 11 R264; SP 800-38D, not restated by the spec): the plaintext of a ciphertext under a
key, an initialisation vector and additional data, none where the tag fails. -/
opaque Config.gcmOpen (key iv aad cipher tag : List Byte) : Option (List Byte)
/-- Whether an ECDSA P-384 signature of a SHA-256 digest verifies under a public key (18 R442; FIPS 186-5). -/
opaque Config.ecdsaOk (pub digest sig : List Byte) : Bool
/-- The signature Keystone's attestation key makes of a digest (18 R458): n counts the signatures made. -/
opaque Config.attestSign (n : Nat) (digest : List Byte) : BitVec 768
/-- The completion code of a critical command that its rule refuses without naming a code (18 R444, R446, R440): a free value, by
CCODE (DESIGN CHOICE, note 95). -/
opaque Config.refusalCode (ccode : Nat) : BitVec 8
/-- The attestation certificate (18 R458), 0-padded to 1,024 bytes. -/
opaque Config.attestCert : BitVec 8192
/-- Whether every frame a decrypted payload addresses lies inside its target, by image type (11 R265; 10 R244: the regions are alike, so that the answer is
one for all of them). -/
opaque Config.framesInside (payload : List Byte) (typ : Nat) : Bool
/-- Whether a bit map of shell ports connects a ring-oscillator port, or CK_AON without the shell's synchroniser (10 R250, 11 R262;
the places of the ports in the map are not stated). -/
opaque Config.portsNondet (ports : W32) : Bool
/-- Whether a decrypted payload defines the contents of a block memory (10 R246; the frame format is the toolchain's, 11 R265). -/
opaque Config.preloads (payload : List Byte) (mem : Nat) : Bool
/-- The preloaded row of a block memory that it defines. -/
opaque Config.preload (payload : List Byte) (mem row : Nat) : BitVec 72
/-- The configuration of a block memory it holds (10 R251). -/
opaque Config.bramCfg (payload : List Byte) (mem : Nat) : Machine.BramCfg
/-- The configuration of a logic cell it holds (10 R241). -/
opaque Config.cell (payload : List Byte) (cell : Nat) : Machine.Cell
/-- Clusters of a column of a fabric (10 R242; not stated) (DESIGN CHOICE, note 144). -/
opaque Config.columnClusters : Nat
/-- The value of a net on a loop of look-up tables (not stated) (DESIGN CHOICE, note 144). -/
opaque Config.loopValue (cell : Nat) : Bool
/-- The 8 check bits of 64 data bits (10 R253; the code is not stated) (DESIGN CHOICE, note 63). -/
opaque Config.checkBits (data : W64) : BitVec 8
/-- The IFID and version of the handover block of a running module manager, queue or link processor (19 R470). -/
opaque Config.handover (typ : Nat) (image : List Byte) : Nat × Nat

/-- The Basin bank, B0 to B7, that holds a Basin line, by its key (12 R286; how lines spread over the banks is not stated) (DESIGN CHOICE,
note 136). -/
opaque Config.basinBank (key : Nat) : Fin 8
/-- The port by which a group's chain enters this module at a position, the other end of a cable (08 R205; the list of 08 R206 names only the outgoing
ports) (DESIGN CHOICE, note 157). -/
opaque Config.recvPort (group pos : Nat) : Fin 16
/-- The metres beyond 2 m of the cable by which the chain enters the module of a position (08 R205) (DESIGN CHOICE, note 157). -/
opaque Config.cableMetres (group pos : Nat) : Nat
/-- Whether a chain stream crosses the hop by which the chain enters a station of another module (08 R205) (DESIGN CHOICE, note 157). -/
opaque Config.remoteChain (group pos : Nat) : Bool
/-- By how much, in ps, the module manager gives a Cascade step a hop offset H above the smallest the model computes (08 R200
states a lower bound). -/
opaque Config.hopSlack (group step : Nat) : Nat
/-- The same for the period τ of a step. -/
opaque Config.periodSlack (group step : Nat) : Nat

end Sys2Proof
end

