-- ==== Sys2Proof/Machine/Maps.lean ====
section
/-! DEFINITION. Reading and writing the sparse tables, and the bit and byte helpers every layout uses. -/

namespace Sys2Proof.Machine

/-- The entry of key `i`, or `d` where the table lists none. -/
def mget {α : Type} (d : α) : SMap α → Nat → α
  | [], _ => d
  | (k, v) :: r, i => if i = k then v else mget d r i

/-- The table with the entry of key `k` set to `v`, keys kept rising. -/
def mput {α : Type} : SMap α → Nat → α → SMap α
  | [], k, v => [(k, v)]
  | (k', v') :: r, k, v =>
    if k = k' then (k, v) :: r
    else if k < k' then (k, v) :: (k', v') :: r
    else (k', v') :: mput r k v

/-- The table with key `k` unlisted. -/
def mdel {α : Type} (m : SMap α) (k : Nat) : SMap α := m.filter (fun p => p.1 != k)

/-- Whether the table lists key `k`. -/
def mhas {α : Type} (m : SMap α) (k : Nat) : Bool := m.any (fun p => p.1 == k)

/-- A memory write in canonical form: writing what an unlisted key reads as removes the entry. -/
def mset {α : Type} [DecidableEq α] (d : α) (m : SMap α) (k : Nat) (v : α) : SMap α :=
  if v = d then mdel m k else mput m k v

/-- The entry of key `k` changed by `f`. -/
def mmod {α : Type} (d : α) (m : SMap α) (k : Nat) (f : α → α) : SMap α := mput m k (f (mget d m k))

/-- Keys strictly rising. -/
def keysRise {α : Type} : SMap α → Bool
  | [] => true
  | [_] => true
  | (k, _) :: (k', v') :: r => decide (k < k') && keysRise ((k', v') :: r)

/-- The canonical form of a memory: keys strictly rising, no entry equal to what an unlisted key reads as. -/
def memWf {α : Type} [DecidableEq α] (d : α) (m : SMap α) : Bool :=
  keysRise m && m.all (fun p => decide (p.2 ≠ d))

/-- Bits [lo + len - 1 : lo] of a number. -/
def bitsOf (x lo len : Nat) : Nat := (x >>> lo) % 2 ^ len

/-- Bit `i` of a number. -/
def bitAt (x i : Nat) : Bool := x.testBit i

/-- 1 for true, 0 for false. -/
def b2n (b : Bool) : Nat := if b then 1 else 0

/-- The two's-complement value of the low `w` bits of `x`. -/
def signedOf (w x : Nat) : Int :=
  let y := x % 2 ^ w
  if 2 * y < 2 ^ w then (y : Int) else (y : Int) - (2 ^ w : Nat)

/-- The low `w` bits of the two's-complement encoding of an integer. -/
def encodeInt (w : Nat) (i : Int) : Nat := (i % (2 ^ w : Nat)).toNat

/-- Smallest whole number of `b`-sized pieces that hold `a`. -/
def ceilDiv (a b : Nat) : Nat := (a + b - 1) / b

/-- The number whose little-endian bytes are given (00 R12). -/
def leNat : List Byte → Nat
  | [] => 0
  | b :: r => b.toNat + 256 * leNat r

/-- The `n` little-endian bytes of a number (00 R12). -/
def leBytes : Nat → Nat → List Byte
  | 0, _ => []
  | n + 1, x => BitVec.ofNat 8 x :: leBytes n (x / 256)

/-- The number whose big-endian bytes are given. -/
def beNat (l : List Byte) : Nat := leNat l.reverse

/-- The `n` big-endian bytes of a number. -/
def beBytes (n x : Nat) : List Byte := (leBytes n x).reverse

/-- The 64 bytes of a line, lowest address first. -/
def lineBytes (l : Line) : List Byte := leBytes 64 l.toNat

/-- The line whose bytes are given, missing bytes 0. -/
def lineOf (b : List Byte) : Line := BitVec.ofNat 512 (leNat b)

/-- A list cut into lines of 64 bytes, the last one filled with zeros. -/
def toLinesFuel : Nat → List Byte → List Line
  | 0, _ => []
  | n + 1, b => if b.isEmpty then [] else lineOf (b.take 64) :: toLinesFuel n (b.drop 64)

/-- A list cut into lines of 64 bytes, the last one filled with zeros. -/
def toLines (b : List Byte) : List Line := toLinesFuel (b.length / 64 + 1) b

/-- The first element a test accepts, with the list changed there. -/
def updFirst {α : Type} (p : α → Bool) (f : α → α) : List α → List α
  | [] => []
  | x :: r => if p x then f x :: r else x :: updFirst p f r

/-- The list with its first accepted element removed. -/
def delFirst {α : Type} (p : α → Bool) : List α → List α
  | [] => []
  | x :: r => if p x then r else x :: delFirst p r

end Sys2Proof.Machine
end

