-- ==== Sys2Proof/Machine/Crypto.lean ====
section
/-! DEFINITION. The digests the spec names: SHA-256 (FIPS 180-4), HMAC-SHA-256 (FIPS 198-1) and the CRCs of 11 R268 and 14. -/

namespace Sys2Proof.Machine

/-- Word `i` of a number of 32-bit words, word 0 the lowest. -/
def shaWord (x i : Nat) : Nat := x / 2 ^ (32 * i) % 2 ^ 32
/-- The four words of a number moved up by one place, a sum entering below them. -/
def pushWord (x v : Nat) : Nat := x % 2 ^ 96 * 2 ^ 32 + v % 2 ^ 32
/-- A word rotated right. -/
def rotateR (x n : Nat) : Nat := (x ||| x <<< 32) >>> n % 2 ^ 32
/-- The sum modulo 2 of the rotations of a word by the places of a list, from `z` on. -/
def rotations (z x : Nat) (l : List Nat) : Nat := l.foldl (fun a n => a ^^^ rotateR x n) z

/-- The 64 round constants of SHA-256 (FIPS 180-4), the first in the highest word. -/
def shaConstants : Nat :=
  0x428a2f9871374491b5c0fbcfe9b5dba53956c25b59f111f1923f82a4ab1c5ed5d807aa9812835b01243185be550c7dc372be5d7480deb1fe9bdc06a7c19bf174e49b69c1efbe47860fc19dc6240ca1cc2de92c6f4a7484aa5cb0a9dc76f988da983e5152a831c66db00327c8bf597fc7c6e00bf3d5a7914706ca63511429296727b70a852e1b21384d2c6dfc53380d13650a7354766a0abb81c2c92e92722c85a2bfe8a1a81a664bc24b8b70c76c51a3d192e819d6990624f40e3585106aa07019a4c1161e376c082748774c34b0bcb5391c0cb34ed8aa4a5b9cca4f682e6ff3748f82ee78a5636f84c878148cc7020890befffaa4506cebbef9a3f7c67178f2

/-- The message schedule, latest word first, extended by `n` words. -/
def schedule : Nat → List Nat → List Nat
  | 0, w => w
  | n + 1, w =>
    let near := w.getD 1 0
    let far := w.getD 14 0
    schedule n ((rotations (near >>> 10) near [17, 19] + w.getD 6 0 + rotations (far >>> 3) far [7, 18] + w.getD 15 0) % 2 ^ 32 :: w)

/-- The chaining value of SHA-256 as two numbers of four words: words A to D with A the lowest, and E to H with E the lowest. -/
structure Chain where
  lo : Nat
  hi : Nat
  deriving DecidableEq, Repr
/-- The initial chaining value. -/
def Chain.start : Chain := ⟨0xa54ff53a3c6ef372bb67ae856a09e667, 0x5be0cd191f83d9ab9b05688c510e527f⟩
/-- One round: the new A and E enter, the others move up one place. -/
def Chain.round (c : Chain) (k w : Nat) : Chain :=
  let e := shaWord c.hi 0
  let a := shaWord c.lo 0
  let pick := shaWord c.hi 2 ^^^ e &&& (shaWord c.hi 1 ^^^ shaWord c.hi 2)
  let most := a &&& (shaWord c.lo 1 ||| shaWord c.lo 2) ||| shaWord c.lo 1 &&& shaWord c.lo 2
  let t := shaWord c.hi 3 + pick + rotations 0 e [6, 11, 25] + k + w
  ⟨pushWord c.lo (t + most + rotations 0 a [2, 13, 22]), pushWord c.hi (shaWord c.lo 3 + t)⟩
/-- The rounds over the words of a schedule, oldest first, `n` of them still to come. -/
def Chain.rounds (c : Chain) : Nat → List Nat → Chain
  | n + 1, w :: r => (c.round (shaWord shaConstants n) w).rounds n r
  | _, _ => c
/-- Two numbers of four words added word by word. -/
def addWords (x y : Nat) : Nat := [3, 2, 1, 0].foldl (fun z i => pushWord z (shaWord x i + shaWord y i)) 0
/-- One block of 64 bytes absorbed. -/
def Chain.absorb (c : Chain) (b : List Byte) : Chain :=
  let r := c.rounds 64 (schedule 48 ((List.range 16).map (fun i => beNat ((b.drop (4 * i)).take 4))).reverse).reverse
  ⟨addWords c.lo r.lo, addWords c.hi r.hi⟩
/-- The first `n` blocks of a message absorbed in order. -/
def Chain.absorbAll (c : Chain) (b : List Byte) : Nat → Chain
  | 0 => c
  | n + 1 => (c.absorb (b.take 64)).absorbAll (b.drop 64) n

/-- SHA-256 of a byte string, 32 bytes. -/
def sha256 (b : List Byte) : List Byte :=
  let len := b.length
  let zeros := (119 - len % 64) % 64
  let c := Chain.start.absorbAll (b ++ [0x80#8] ++ List.replicate zeros 0 ++ beBytes 8 (8 * len)) ((len + zeros + 9) / 64)
  [c.lo, c.hi].flatMap (fun x => (List.range 4).flatMap (fun i => beBytes 4 (shaWord x i)))

/-- HMAC-SHA-256 of a message under a key of at most 64 bytes. -/
def hmac256 (key msg : List Byte) : List Byte :=
  let k := key ++ List.replicate (64 - key.length) 0
  sha256 (k.map (fun x => x ^^^ 0x5C#8) ++ sha256 (k.map (fun x => x ^^^ 0x36#8) ++ msg))

/-- One bit of a reflected CRC-32. -/
def crc32Bit : Nat → Nat → Nat
  | 0, c => c
  | n + 1, c => crc32Bit n (if c % 2 = 1 then (c / 2) ^^^ 0xEDB88320 else c / 2)

/-- CRC-32 as in 11 R268: the IEEE 802.3 polynomial, reflected, initial and final value 0xFFFF_FFFF. -/
def crc32 (b : List Byte) : Nat := (b.foldl (fun c x => crc32Bit 8 (c ^^^ x.toNat)) 0xFFFFFFFF) ^^^ 0xFFFFFFFF

end Sys2Proof.Machine
end

