-- ==== Sys2Proof/Machine/DieState.lean ====
section
/-! DEFINITION. The state of one compute die beside its tiles (07, 10, 11, 12, 13): Fountain unit, Mortar fabric, Runnel,
HBM stack and Basin, as plain data. -/

namespace Sys2Proof.Machine

/-- A Fountain unit (07 R190): the operations it holds, the running one first, the row of a running SAMPLE, and the operations
held for it by the queue processor. -/
structure Fountain where
  queue : List Nat := []
  heldOps : List Nat := []
  row : Nat := 0
  deriving DecidableEq, Repr

/-- The state of a Mortar region (10 R260). -/
inductive RegionPhase where
  | empty | loading | released | fault
  deriving DecidableEq, Repr

/-- A Mortar region (10 R241 to R250, R257; 11 R280): its state, the image's marks and clocks, the nets of R245 to R247,
its binding, the payload that configures its cells, the flip-flops off their initial values, its block memories by rows of 72 bits
(key memory × 512 + row) and their configuration, what each port last read (key memory × 2 + port)
with the flag of R253, what waits in the latch before an output register, and the status of the last response its logic received (R258). -/
structure Region where
  phase : RegionPhase := .empty
  nondet : Bool := false
  boundTo : Option Nat := none
  clks : Nat := 0
  setReset : Bool := true
  clocksOn : Bool := false
  writePorts : Bool := false
  isolated : Bool := true
  image : List Byte := []
  payload : List Byte := []
  flipped : SMap Bool := []
  bramCfg : SMap BramCfg := []
  bram : SMap (BitVec 72) := []
  bramOut : SMap (BitVec 72 × Bool) := []
  bramLatch : SMap (BitVec 72 × Bool) := []
  lastResp : BitVec 2 := 0
  scrubPaused : Bool := false
  deriving DecidableEq, Repr

/-- A region load in a die's queue (11 R279 to R281): its operation, region and, once accepted, its phase: draining (step
3), reading and verifying (steps 5 to 8), verified (step 9). -/
structure RegionLoad where
  op : Nat
  region : Nat
  accepted : Bool := false
  deadline : Nat := 0
  det : Bool := false
  verified : Bool := false
  deriving DecidableEq, Repr

/-- The Mortar of a die (10): its static shell, its regions, the loads of its configuration port, its serial blocks. -/
structure Mortar where
  shellOk : Bool := false
  shell : Fabric := {}
  regions : SMap Region := []
  loads : List RegionLoad := []
  serial : Serial := {}
  deriving DecidableEq, Repr

/-- The state of a Sluice (12 R293). -/
inductive SluicePhase where
  | opened | drain | closed | redirect
  deriving DecidableEq, Repr

/-- A Sluice: its state, when it was raised, the new physical tile of a redirection (12 R297). -/
structure Sluice where
  phase : SluicePhase := .opened
  raisedAt : Nat := 0
  newPt : Nat := 0
  deriving DecidableEq, Repr

/-- Where a Runnel request is: waiting for a credit, in transit, inside the target, answered and its response in transit. -/
inductive ReqPlace where
  | waiting | transit | inside | response
  deriving DecidableEq, Repr

/-- A hop of a route (12 R287): the router it reaches and the virtual channel it takes there. -/
structure Hop where
  row : Nat
  col : Nat
  vc : Nat
  deriving DecidableEq, Repr

/-- A Runnel request (12 R287 to R292): initiator, target port (tiles 0 to 135, edge slots 136 to 169), plane, class,
partition, read or write, address and data, GEN of a tile target, when it was issued and when sent, in ns, status of the response, the receive space the initiator
has reserved for the response (R290) and the route it takes. -/
structure RunReq where
  id : Nat
  init : Nat
  target : Nat
  plane : Nat
  cls : Nat
  part : Option Nat
  write : Bool
  addr : Nat
  lines : Nat
  data : List Line
  lt : Option Nat
  gen : BitVec 8
  issued : Nat
  sentAt : Nat := 0
  place : ReqPlace := .transit
  status : BitVec 8 := 0
  credited : Bool := true
  space : Nat := 0
  path : List Hop := []
  deriving DecidableEq, Repr

/-- Statistics of one initiator on one plane (12 R300). -/
structure RunStat where
  min : Nat := 0xFFFFFFFF
  max : Nat := 0
  sum : Nat := 0
  count : Nat := 0
  hist : SMap Nat := []
  sent : Nat := 0
  received : Nat := 0
  deriving DecidableEq, Repr

/-- The Runnel of a die (12): its Sluices; the domains under isolation, the latest first, each with its ports (R295); the requests; the
partition last granted a credit of a pool, by (port × 4 + plane) × 4 + class (R289); the class last granted an output, by port × 4 + plane
(R291). -/
structure Runnel where
  sluices : SMap Sluice := []
  domains : List (List Nat) := []
  reqs : List RunReq := []
  nextId : Nat := 0
  granted : SMap Nat := []
  lastCls : SMap Nat := []
  stats : SMap RunStat := []
  snap : RunStat := {}
  deriving DecidableEq, Repr

/-- A request in a queue of the HBM controller (13 R309): its number in order of entry, where it lies, whether its class is
training, what it writes (a byte whose mask bit is 0 is not written), when it entered in ns. -/
structure HbmReq where
  id : Nat
  pc : Nat
  bank : Nat
  row : Nat
  col : Nat
  training : Bool
  write : Bool
  data : Line
  mask : BitVec 64
  arrived : Nat
  deriving DecidableEq, Repr

/-- An entry of the row-disturbance table (13 R314). -/
structure RhEntry where
  bank : Nat
  row : Nat
  count : Nat
  deriving DecidableEq, Repr

/-- The HBM stack and controller of a die (13). Lines are keyed by ((bank × 64 + pc) × 16384 + row) × 16 + col; `answers` are
the responses handed to the group port, latest first: request, status, data; `repair` is the repair under way and `repairDue`
the rows that wait for one; the spare table is keyed by bank group (pc × 16 + bank div 4); `pdSince` is when a pseudo-channel last had an entry,
a refresh or an open row, in ns (R315). -/
structure Hbm where
  lines : SMap Line := []
  poison : SMap Bool := []
  queue : List HbmReq := []
  nextId : Nat := 0
  answers : List (Nat × BitVec 8 × Line) := []
  openRow : SMap Nat := []
  inOrder : SMap Bool := []
  draining : SMap Bool := []
  rh : SMap (List RhEntry) := []
  powerDown : SMap Bool := []
  pdSince : SMap Nat := []
  fast : SMap Bool := []
  trained : Nat := 0
  repair : Option (Nat × Nat × Nat) := none
  repairDue : List (Nat × Nat × Nat) := []
  softUsed : SMap Nat := []
  ceRow : SMap (List Nat) := []
  cePc : SMap (List Nat) := []
  deriving DecidableEq, Repr

/-- A piece of a staging ring (06 R168): the layer, its place in the layer's stream, its slice, its lines, whether it needs no
more forwarding, the die that sent it and when, in ns. -/
structure StagePiece where
  layer : Nat
  idx : Nat
  slice : Nat
  lines : List Line
  forwarded : Bool
  sender : Nat := 0
  sentAt : Nat := 0
  deriving DecidableEq, Repr

/-- The staging ring of a partition on a die (06 R167, R168): the pieces it holds, those on their way to it, how many of
each layer have arrived, and what the die sent last: the layer, the place of the slice in its order of sending, and the end of its source
(0 for a forwarded piece). -/
structure Staging where
  pieces : List StagePiece := []
  incoming : List StagePiece := []
  counts : SMap Nat := []
  lastSent : Option (Nat × Nat × Nat) := none
  deriving DecidableEq, Repr

/-- One die of the module: its units, its fence state (19 R465), its logical-to-physical map (03 R90), the
place and generation a logical tile had when it was last unmapped, and the Sluice of the hub's port toward it (12 R295). -/
structure DieSt where
  fountain : Fountain := {}
  mortar : Mortar := {}
  runnel : Runnel := {}
  hbm : Hbm := {}
  basin : SMap Line := []
  ltMap : SMap (Option (Nat × BitVec 8)) := []
  lastMap : SMap (Nat × BitVec 8) := []
  fenced : Bool := false
  powered : Bool := false
  released : Bool := false
  masked : Bool := false
  mcGroups : SMap (List Nat) := []
  staging : SMap Staging := []
  hubSluice : Sluice := {}
  ceUnit : SMap (List Nat) := []
  deriving DecidableEq, Repr

end Sys2Proof.Machine
end

