-- ==== Sys2Proof/Machine/HubState.lean ====
section
/-! DEFINITION. The state of the hub (11, 15, 19, 20): time, flash, bring-up, health, power, as plain data beside the
registers. -/

namespace Sys2Proof.Machine

/-- A counter change named for an MLT (15 R368): a new FREQ, the start or end of a slew, or a host write (R381). -/
inductive CounterChange where
  | freq (f : Int)
  | slew (theta : Int)
  | slewEnd
  deriving DecidableEq, Repr

/-- A time epoch with its offset in 1/65,536 ns (R366). -/
structure Epoch where
  num : BitVec 16
  eoff : Int
  deriving DecidableEq, Repr

/-- An epoch announced and not yet applied (R374, R375): its offset and the MLT, in ns, at which it begins. -/
structure PendEpoch where
  num : BitVec 16
  eoff : Int
  apply : Nat
  deriving DecidableEq, Repr

/-- A staged host write (R381): mode, value in 1/65,536 ns, and the MLT, in ns, at which it applies. -/
structure SetWrite where
  relative : Bool
  value : Int
  at_ : Nat
  deriving DecidableEq, Repr

/-- What an Announce message says of a master (R371): the data the best master algorithm compares, and when it came. -/
structure Master where
  prio1 : Nat
  cls : Nat
  acc : Nat
  var : Nat
  prio2 : Nat
  ident : Nat
  steps : Nat
  at_ : Nat
  deriving DecidableEq, Repr

/-- PTP data of one port: the link delay in 1/65,536 ns, the Sync that waits for its Follow_Up and its arrival stamp (MLT),
the stamps of a peer-delay exchange. -/
structure PtpPort where
  delay : Int := 0
  syncSeq : Option (Nat × Int) := none
  txSeq : Nat := 0
  deriving DecidableEq, Repr

/-- Clepsydra (15): device time and MLT in units of 2^-40 ns (24 bits below FRAC, R367), the correction of the counters,
epochs, pending changes, sources. FREQ and the slew are in units of 2^-40 (DEDUCED, note 122). -/
structure Clep where
  dev : Nat := 0
  mlt : Nat := 0
  freq : Int := 0
  slew : Int := 0
  slewEnds : Nat := 0
  epochs : List Epoch := [⟨0, 0⟩]
  pending : List PendEpoch := []
  changes : List (Nat × CounterChange) := []
  set : Option SetWrite := none
  misses : Nat := 0
  hostOffset : Int := 0
  masters : SMap Master := []
  ptp : SMap PtpPort := []
  rootPort : Option Nat := none
  rootIdent : Nat := 0
  everLocked : Bool := false
  announceSeq : Nat := 0
  adopt : Option (Int × Epoch) := none
  deriving DecidableEq, Repr

/-- A role move of a tile or a test (19 R461 to R464): the physical tile, its logical tile and the spare where one moves, the step of R462
reached, when the test fell due, and the number of the TAP_FORCE that waits for the result. -/
structure TapJob where
  pt : Nat
  lt : Option Nat := none
  spare : Option Nat := none
  step : Nat := 1
  due : Nat
  cmd : Option Nat := none
  deriving DecidableEq, Repr

/-- A firmware update (19 R469, R470): type, flags, step, image, the die of a roll and the die it has out, its command. -/
structure FwJob where
  typ : Nat
  activate : Bool
  roll : Bool
  step : Nat
  image : List Byte
  die : Nat := 0
  rolling : Bool := false
  cmd : Nat
  deriving DecidableEq, Repr

/-- A fault signature stored in a slot of the fault log and its identity for merging (19 R475): FSID, unit kind, die, unit,
time in ns, slot, occurrences, whether it has been
delivered, whether a full ring has delayed it. -/
structure FaultRec where
  fsid : Nat
  kind : Nat
  die : Nat
  unit : Nat
  at_ : Nat
  slot : Nat
  count : Nat
  delivered : Bool
  delayed : Bool := false
  deriving DecidableEq, Repr

/-- What a wide-value mailbox has captured (17 R436): the CK_CLP cycle of the request, whether the selection was invalid, its words. -/
structure WideBox where
  at_ : Nat
  err : Bool
  data : List (BitVec 32)
  deriving DecidableEq, Repr

/-- Why a die is fenced, in the order of 19 R465 (DESIGN CHOICE for its code, note 72). -/
inductive FenceCause where
  | command | bringUp | unmappable | rootPll | suspects | temperature
  deriving DecidableEq, Repr

/-- The hub: flash memories (bytes; an unlisted byte is erased, 0xFF), running images by type, bring-up, fault log, service
records, health jobs, the fences that wait for a save (04 R109), its own fabric and serial blocks (10 R243, R255) and the die whose serial pins
its multiplexer passes to the debug header, the CK_CLP cycles since power good (DESIGN CHOICE, note 103). -/
structure Hub where
  bootFlash : SMap Byte := []
  hubFlash : SMap Byte := []
  running : SMap (List Byte) := []
  cycles : Nat := 0
  verHold : Bool := false
  xdoneDriven : Bool := false
  xdoneTo : Nat := 0
  idoneAt : Option Nat := none
  romServes : Bool := false
  entered : Bool := false
  started : Bool := false
  faults : List FaultRec := []
  faultSlot : Nat := 0
  recordId : Nat := 0
  retired : List Nat := []
  passed : List Nat := []
  lastTest : SMap Nat := []
  taps : SMap TapJob := []
  tapQueue : List (Nat × TapJob) := []
  suspects : SMap (List Nat) := []
  fw : Option FwJob := none
  repairs : List (Nat × Nat × Nat × Nat) := []
  hardRepairs : List (Nat × Nat × Nat × Nat) := []
  journal : List (Nat × Nat) := []
  calLast : Option Nat := none
  stopped : List (Nat × Nat) := []
  wides : SMap WideBox := []
  surveys : SMap Nat := []
  surveyOps : SMap Nat := []
  surveyNext : Nat := 0
  fenceDue : SMap FenceCause := []
  fabric : Fabric := {}
  serial : Serial := {}
  serialDie : Option Nat := none
  deriving DecidableEq, Repr

/-- Power, cooling and pins (20). The straps and the measured inputs of the last sample that no register holds; whether CK_TILE is being raised
to 1.2 GHz between stages B and C (11 R276). -/
structure Power where
  loop : Bool := false
  enabled : Bool := false
  good : Bool := false
  pwrred : Bool := false
  tripped : Bool := false
  split8 : Bool := false
  addr : BitVec 2 := 0
  vbat : Bool := true
  quiet : Nat := 0
  clamp : Option Nat := none
  clampCause : Nat := 0
  episode : Bool := false
  cprs : BitVec 16 := 0
  cbl : BitVec 16 := 0
  hot : SMap Nat := []
  smbusOff : BitVec 32 := 0
  raising : Bool := false
  deriving DecidableEq, Repr

/-- What the module sends outward: read completions and bus errors to a requester, answers to configuration requests,
interrupt writes, SMBus blocks, line codewords, training blocks, wake tones, PTM requests. -/
inductive OutMsg where
  | readData (req : Nat) (bytes : List Byte)
  | abort (req : Nat) (write : Bool)
  | config (link : Nat) (retry : Bool)
  | irqWrite (addr : Nat) (data : BitVec 32)
  | msix (link vec : Nat)
  | smbus (block : List Byte)
  | codeword (die group : Nat) (lanes : List (Nat × BitVec 680))
  | training (die lane : Nat) (ctl : BitVec 64)
  | wakeTone (die : Nat)
  | ptm (link : Nat)
  | ptp (die kind domain seq : Nat) (stamp : Int) (body : List Byte)
  deriving DecidableEq, Repr

end Sys2Proof.Machine
end

