-- ==== Sys2Proof/Machine/LinkState.lean ====
section
/-! DEFINITION. The state of one Vidonlink port (14) beside its registers, as plain data. -/

namespace Sys2Proof.Machine

/-- The state field of VL_STAT (14 R364). -/
inductive PortPhase where
  | down | training | up | recovery | lp1 | lp2 | lost | disabled
  deriving DecidableEq, Repr

/-- A physical lane: the logical lane it carries (0 to 7, 8 the spare, 15 none) as received and as sent, whether it is out of service (R351), its
transmit taps and preset (R345), what training has found of it, and the two scrambler states (R325). -/
structure Lane where
  logical : Nat := 15
  txLogical : Nat := 15
  out : Bool := false
  preset : Nat := 0
  cm2 : Int := 0
  cm1 : Int := 0
  c1 : Int := 0
  locked : Bool := false
  done : Bool := false
  peerDone : Bool := false
  tried : Nat := 0
  bestMargin : Nat := 0
  bestPreset : Nat := 0
  margin : Nat := 0
  cstat : BitVec 8 := 0
  prbsTx : BitVec 31 := 0
  prbsRx : BitVec 31 := 0
  deriving DecidableEq, Repr

/-- A frame kept for replay (R331, R350): its sequence number, its flits with their virtual-lane codes, the credit return and
acknowledgement it carries, and how often it was resent. -/
structure Kept where
  fseq : Nat
  flits : List (Nat × Line)
  crvl : Nat
  crcnt : Nat
  ackt : Nat
  ackseq : Nat
  resends : Nat := 0
  deriving DecidableEq, Repr

/-- What a live tag of the requester is for (R343): generation, issue time in MLT ns, port it left by, the operation and the
first line it moves. -/
structure TagRec where
  gen : Nat
  issued : Nat
  port : Nat
  op : Option Nat
  line : Nat
  lines : Nat
  write : Bool
  message : Bool
  deriving DecidableEq, Repr

/-- A lane swap under way (R351): logical lane, whether this port is the receiver that asked for it, the switch period. -/
structure Swap where
  lane : Nat
  receiver : Bool
  period : Option Nat
  deriving DecidableEq, Repr

/-- A Plumb measurement (R359, R360): the count of samples each lane pair has, the sums of its raw delays in each direction
in 1/65,536 ns, the period of the sample under way, and when the next is due. -/
structure PlumbRun where
  counts : SMap Nat := []
  ab : SMap Int := []
  ba : SMap Int := []
  sentPeriod : Nat := 0
  waiting : Bool := false
  baPending : List Int := []
  nextAt : Nat := 0
  surveys : List Nat := []
  deriving DecidableEq, Repr

/-- Results of a measurement in units of 0.25 ps (R361, R436): RTT, local skews, peer skews of lanes 0 to 8. -/
structure PlumbRes where
  rtt : List Int
  local_ : List Int
  peer : List Int
  deriving DecidableEq, Repr

/-- A Vidonlink port. Packets that wait to be sent are keyed by virtual lane × 65,536 + class or Cascade group; `outst` holds, per
virtual lane, the class or group of each flit sent whose credit has not come back, oldest first; `inPkt` holds, per virtual
lane, one more than the class or group of the packet of which a part has been sent; `loop` holds the packets this die's requester
sends to its own module (R341), `relayed` the headers of requests forwarded over the port and not answered yet (R353); `quietAt` is when the port last
sent a flit (R355), `loggedAt` when it last logged a measurement (R361), in ns. -/
structure Port where
  phase : PortPhase := .down
  step : Nat := 0
  fast : Bool := false
  trainRef : Nat := 0
  attempts : Nat := 0
  lanes : SMap Lane := []
  cwGood : SMap Nat := []
  cwShift : SMap Nat := []
  spareUsed : Bool := false
  lsMap : Nat := 15
  nover : Bool := false
  pver : Nat := 0
  peerSeen : Option (Nat × Nat × Nat) := none
  peerValid : Bool := false
  peerMod : Nat := 0
  peerPort : Nat := 0
  peerVer : Nat := 0
  prevPeer : Option Nat := none
  period : Nat := 0
  fseq : Nat := 0
  kept : List Kept := []
  resendAt : Option Nat := none
  turn : Nat := 0
  expect : Nat := 0
  discarding : Bool := false
  ackWant : Nat := 0
  sinceAck : Nat := 0
  ackAt : Nat := 0
  heardAt : Nat := 0
  ackSeen : Nat := 1023
  outst : SMap (List Nat) := []
  owed : SMap Nat := []
  txq : SMap (List (List Line)) := []
  inPkt : SMap Nat := []
  rxq : SMap (List Line) := []
  genTurn : Nat := 0
  csTurn : Nat := 0
  tags : SMap TagRec := []
  gens : SMap Nat := []
  nextTag : Nat := 0
  lpAsked : Option Nat := none
  lpAt : Option (Nat × Nat) := none
  wakeAt : Option (Nat × Nat) := none
  refuse : Bool := false
  retireAt : Option Nat := none
  swap : Option Swap := none
  recoverAt : Option Nat := none
  recoverStep : Nat := 0
  plumb : Option PlumbRun := none
  plumbRes : Option PlumbRes := none
  plumbBase : Option PlumbRes := none
  plumbNext : Nat := 0
  loggedAt : Nat := 0
  quietAt : Nat := 0
  loop : List (List Line) := []
  relayed : List Line := []
  deriving DecidableEq, Repr

end Sys2Proof.Machine
end

