-- ==== Sys2Proof/Machine/OpState.lean ====
section
/-! DEFINITION. The state of operations, tenant contexts, partitions, Cascade groups and Keystone (01, 08, 09, 16, 18), as
plain data. -/

namespace Sys2Proof.Machine

/-- How far an operation has come (16 R412 to R421): fetched and waiting at the Weir; admitted and waiting for its
dependences; ready and waiting for dispatch; running; held (09 R221); past its commit decision; its record waiting. -/
inductive OpPhase where
  | fetched | admitted | ready | running | held | committed | recordDue
  deriving DecidableEq, Repr

/-- One run of an operation (09 R225): its die, whether it was clean, whether a checksum failed in it, its result CRC. -/
structure RunRec where
  die : Nat
  clean : Bool
  chk : Bool
  crc : W64
  deriving DecidableEq, Repr

/-- What a completion record says beside its code (16 R419). -/
structure RecInfo where
  xaddr : W32 := 0
  cause : BitVec 8 := 0
  lt : Nat := 0
  fdie : Nat := 0
  susp : Bool := false
  nv : Bool := false
  ovf : Bool := false
  unf : Bool := false
  runs : Nat := 1
  cdie : Nat := 0
  deriving DecidableEq, Repr

/-- Bytes an operation has written: partition, die, line address, the byte they start at and how many. -/
structure OutRange where
  part : Nat
  die : Nat
  addr : Nat
  off : Nat
  bytes : Nat
  deriving DecidableEq, Repr

/-- An operation of a queue processor (16 R404 to R421). `ctx` 4096 is the mailbox's own source (18 R449). `order` is its place
among the operations its partition has fetched (R417); `finished` says that the unit that runs it has reached its end; `tagged`
that it holds an operation tag of its home die (CANCEL takes none, R412); `launch` is its launch time as MLT (15 R377); `life` counts the
enables of its context before it was fetched; `discard` says that a link reset has taken its record (R394); `linesSent` and `linesDone`
count the lines a COPY has sent and has seen written;
`progDigest` the digest of its program as dispatched (09 R230); `own` the code a run that is not clean has ended with (09 R223), `strictAt` whether
the features of 09 R231 were refused at its dispatch, `heldData` what its destinations held when it was first held (09 R223, R233). -/
structure Op where
  life : Nat
  ctx : Nat
  express : Bool
  opseq : Nat
  home : Nat
  part : Nat
  desc : List Byte
  drec : List Byte := []
  phase : OpPhase := .fetched
  fetchedAt : Nat := 0
  seedE : W64 := 0
  seedDrawn : Bool := false
  kernel : Nat := 0
  started : Bool := false
  det : Bool := false
  dispatchedAt : Nat := 0
  startSteps : Nat := 0
  code : BitVec 8 := 0
  info : RecInfo := {}
  satSeen : Bool := false
  chkFail : Bool := false
  chkTiles : List Nat := []
  suspect : Bool := false
  badRun : Bool := false
  runs : List RunRec := []
  runDie : Nat := 0
  kcrc : SMap W64 := []
  linesSent : Nat := 0
  linesDone : Nat := 0
  count : Nat := 0
  seedSrcUsed : Bool := false
  order : Nat := 0
  finished : Bool := false
  tagged : Bool := true
  launch : Nat := 0
  discard : Bool := false
  progDigest : List Byte := []
  dests : List OutRange := []
  loose : Bool := false
  own : BitVec 8 := 0
  strictAt : Bool := false
  heldData : List (OutRange × List Byte) := []
  deriving DecidableEq, Repr

/-- A message record that waits for a completion slot (16 R405, R411), with what its acknowledgement needs (14 R337): address,
source module and die, lines, the die that wrote the lines, class, partition, tag and generation. -/
structure WaitRec where
  addr : Nat
  smod : Nat
  sdie : Nat
  lines : Nat
  die : Nat
  cls : Nat
  part : Nat
  tag : Nat
  gen : Nat
  deriving DecidableEq, Repr

/-- The state of a context (16 R397). -/
inductive TcPhase where
  | disabled | active | draining | error
  deriving DecidableEq, Repr

/-- What a tenant context holds beside its table registers (16 R397 to R405, R413, R423). `life` counts its enables; `codes` keeps the
codes of completed operations by (life × 2 + ring) × 2^32 + OPSEQ, for later dependences (R414). -/
structure Tc where
  phase : TcPhase := .disabled
  life : Nat := 0
  errc : Nat := 0
  pend : Bool := false
  nTail : Nat := 0
  xTail : Nat := 0
  cHead : Nat := 0
  nFetched : Nat := 0
  xFetched : Nat := 0
  records : Nat := 0
  opsTokens : Nat := 0
  bytesTokens : Int := 0
  weirAt : Nat := 0
  unsignalled : Nat := 0
  firstUnsig : Option Nat := none
  codes : SMap (BitVec 8) := []
  waiting : List WaitRec := []
  deriving DecidableEq, Repr

/-- A partition block (18 R452). -/
structure PartBlock where
  training : Bool := false
  chain : Bool := false
  replay : Nat := 0
  span : Nat := 0
  firstLt : Nat := 0
  ltCount : Nat := 0
  msgCtx : Option Nat := none
  banks : Nat := 0
  credit : Nat := 0
  regions : Nat := 0
  staging : Nat := 0
  basin : Nat := 0
  wFirst : Nat := 0
  wCount : Nat := 0
  peers : List Nat := []
  deriving DecidableEq, Repr

/-- The digest state of a partition (09 R227 to R230). `dirty` and `doneDirty` say that the weight range was written since the
latest epoch and since the last completed one began; `leave` and `rejoin` name the replicas that leave or rejoin at the next
step boundary. The table of page digests has no stated place in the bank set and is kept here (DESIGN CHOICE, note 155). -/
structure DigestState where
  busy : Bool := false
  agree : Bool := false
  nomaj : Bool := false
  reload : Bool := false
  odd : Nat := 0
  requested : List Nat := []
  runBy : List Nat := []
  startSteps : Nat := 0
  pages : SMap (List Byte) := []
  weights : SMap (List Byte) := []
  done : Bool := false
  doneSteps : Nat := 0
  doneWeights : SMap (List Byte) := []
  donePages : SMap (List Byte) := []
  dirty : Bool := false
  doneDirty : Bool := false
  leave : List Nat := []
  rejoin : List Nat := []
  deriving DecidableEq, Repr

/-- A partition (01 R35, R36; 18 R452): the block a command last named, the block in effect at its steps, the logical
tiles it runs on (die × 128 + LT), those released by an accepted change and those waiting to join, the dies whose bank set is
being cleared, those a replica is being reloaded on (09 R229), those the weight range is being copied to (R36), those whose bank set is in
use (`bankDies`), the dies whose chain numbers the stored slices follow (`shards`, 06 R166), the replay-enable bit, whether it is
being deleted and the dies not yet released (R295), the step count, and the dies on which a replay has left the contributions of the logical tiles of
others (`contribOn`, keyed by die × 128 + LT, 09 R224). -/
structure Partition where
  blk : PartBlock
  cur : PartBlock
  tiles : List Nat
  releasing : List Nat := []
  joining : List Nat := []
  clearing : List Nat := []
  copying : List Nat := []
  copyTo : List Nat := []
  bankDies : Nat := 0
  shards : Nat := 0
  replay : Bool := true
  steps : Nat := 0
  stepDue : List Nat := []
  boundaryWanted : Bool := false
  deleting : Bool := false
  delDies : List Nat := []
  digest : DigestState := {}
  outDies : Nat := 0
  aliases : SMap Nat := []
  fetched : Nat := 0
  contribOn : SMap Nat := []
  deriving DecidableEq, Repr

/-- A kernel-CRC record of lock-step comparison (09 R237). -/
structure LsRec where
  opseq : Nat
  kernel : Nat
  lt : Nat
  crc : W64
  pt : Nat
  die : Nat
  deriving DecidableEq, Repr

/-- A lock-step pair (09 R235 to R238); partner module 0xFF is this module. -/
structure LockPair where
  primary : Nat
  mirror : Nat
  module : Nat
  fromPrimary : List LsRec := []
  fromMirror : List LsRec := []
  deriving DecidableEq, Repr

/-- A station entry of a membership list (08 R206). -/
structure Station where
  rank : Nat
  die : Nat
  port : Nat
  first : Nat
  count : Nat
  deriving DecidableEq, Repr

/-- A contribution (08 R192, R194): its logical tile and the first Cistern unit of its region. -/
structure Contribution where
  lt : Nat
  unit : Nat
  deriving DecidableEq, Repr

/-- Accumulators of one piece as they travel (08 R195): value, STATE and SATD, by accumulator. -/
abbrev PieceData := List (Int × Nat × Bool)

/-- A wire piece or a commit marker (08 R195, R200): its group, epoch, step, number, the positions it goes between, whether it
is final, whether a station on its way asks for the step to be held or ended for a checksum (08 R212), its data, and of a held piece whether
its CRC agreed. -/
structure Piece where
  group : Nat
  epoch : Nat
  step : Nat
  num : Nat
  fromPos : Nat
  toPos : Nat
  final : Bool
  marker : Bool := false
  hold : Bool := false
  chk : Bool := false
  data : PieceData := []
  ok : Bool := true
  deriving DecidableEq, Repr

/-- A Cascade group as this module's dies hold it (08 R193, R206, R207): its current list, the contribution map, the partitions
of this module that reduce in it, the stations lost since the list was built, the pieces of a higher epoch that are held (with
the ns they came), and the highest step that has been committed (R202). -/
structure Group where
  epoch : Nat := 0
  version : W32 := 0x01000000
  contributions : Nat := 0
  myRank : Nat := 0
  stations : List Station := []
  map : List Contribution := []
  parts : List Nat := []
  lost : List Nat := []
  changed : Bool := false
  held : List (Nat × Piece) := []
  lastStep : Option Nat := none
  deriving DecidableEq, Repr

/-- The phase of a Cascade step (08 R200, R203, R208; 09 R221). -/
inductive CPhase where
  | waiting | running | held | decided | failed | done
  deriving DecidableEq, Repr

/-- A Cascade step in flight (08 R199 to R211). Running and final values are keyed by position × 2^24 + piece; pieces on their
way, failures, resends and what has been sent by (position × 2 + final) × 2^24 + piece; `late` is how far a station's schedule has shifted, in
ps, by position × 2 + final; `since` is when the attempt was set up, in ns; `holdAsked` and `chkAsked` are what stations have asked of the
decision. Final pieces are kept here and not in Basin lines (DESIGN CHOICE, note 153). -/
structure CStep where
  group : Nat
  epoch : Nat
  step : Nat
  exact : Bool
  fast : Bool
  autorpl : Bool
  launch : Nat
  pieces : Nat
  dst : Nat
  phase : CPhase := .waiting
  attempts : Nat := 0
  running : SMap PieceData := []
  final : SMap PieceData := []
  transit : SMap Piece := []
  crcFails : SMap Nat := []
  nacked : List Nat := []
  sent : List Nat := []
  returned : List Nat := []
  markers : List Nat := []
  heard : SMap Nat := []
  sat : Bool := false
  replayed : Bool := false
  late : SMap Nat := []
  since : Nat := 0
  holdAsked : Bool := false
  chkAsked : Bool := false
  deriving DecidableEq, Repr

/-- A key slot (18 R444). -/
structure KeySlot where
  state : Nat := 0
  key : List Byte := []
  rights : Nat := 0
  lastCtr : Nat := 0
  deriving DecidableEq, Repr

/-- A command in Keystone's queue (18 R453): its operation, or none for the mailbox; its descriptor; its parameters, read when it is
checked; whether steps 1 to 6 have passed. -/
structure KsCmd where
  op : Option Nat
  desc : List Byte
  params : List Byte := []
  accepted : Bool := false
  deriving DecidableEq, Repr

/-- A grade change that is pending (00 R5): whether to grade B, its command, the partitions whose step boundary it waits for. -/
structure GradeChange where
  toB : Bool
  cmd : Nat
  wait : List Nat
  deriving DecidableEq, Repr

/-- Keystone (18): fuses, the part's ordering code among them (made as grade B, memory option L48: 00 R3, R4), the KEYSRC in force since
power-up, slots, the counter records in the sector of its store that is in use (R455, oldest first), its
queue, the commands whose change is recorded but not complete (R511), whether the mailbox command is in progress, the grade changes
that are pending, oldest first. -/
structure Keystone where
  owned : Bool := false
  keysrc : Bool := false
  keysrcNow : Bool := false
  rootRevoked : Nat := 0
  svn : SMap Nat := []
  fuseKey : Option (List Byte) := none
  vbatKey : Option (List Byte) := none
  slots : SMap KeySlot := []
  store : List (List Byte) := []
  queue : List KsCmd := []
  running : List KsCmd := []
  mailBusy : Bool := false
  entropyOk : Bool := false
  debug : Bool := false
  madeB : Bool := false
  memL48 : Bool := false
  grades : List GradeChange := []
  deriving DecidableEq, Repr

end Sys2Proof.Machine
end

