-- ==== Sys2Proof/Machine/TileState.lean ====
section
/-! DEFINITION. The state of one physical tile (03, 04, 05, 06), as plain data. -/

namespace Sys2Proof.Machine

/-- The state field of SEQ_STAT (05 R150). -/
inductive TileStatus where
  | idle | run | held | wlch | saving | restoring | test | fault
  deriving DecidableEq, Repr

/-- What a landing result writes (05 R119, R120): a scalar, the enabled lanes of a vector, the enabled bits of a mask. -/
inductive Dest where
  | s (r : BitVec 5) (v : W32)
  | v (r : BitVec 4) (en : W64) (x : Lanes)
  | m (r : BitVec 2) (en : W64) (x : W64)
  deriving DecidableEq, Repr

/-- The result of one issued instruction, landing when the slot count reaches `due` (05 R119, R149). -/
structure InFlight where
  due : Nat
  dests : List Dest
  deriving DecidableEq, Repr

/-- A unit descriptor (04 R91). -/
structure UnitDesc where
  path : BitVec 2 := 0
  hwmv : Bool := false
  hwm : BitVec 17 := 0
  deriving DecidableEq, Repr

/-- An allocation of Cistern units (04 R104, R106). -/
structure Alloc where
  grant : Bool
  first : Nat
  count : Nat
  deriving DecidableEq, Repr

/-- A weight block of the array (03 R63): the WLD word that produced it, its stored elements as encodings in storage
order, whether its load is complete (R65), and the logical sources of the lines the WLD read where they lay in a ring (R66). -/
structure WBlock where
  word : BitVec 56
  elems : List Nat
  complete : Bool
  srcs : List Nat := []
  deriving DecidableEq, Repr

/-- A WLD that the sequencer has to issue again before the next matrix instruction (03 R66): its word, whether the block is
promoted once it is complete, the logical sources of its lines (none where they are scratch lines of the operand buffer), the
lines that have come from there, and the elements of a block whose sources lay in the staging ring. -/
structure Rebuild where
  word : BitVec 56
  promote : Bool
  srcs : List Nat
  lines : List Line := []
  kept : Option (List Nat) := none
  deriving DecidableEq, Repr

/-- The two array operations whose vectors land later (03 R71, R84). -/
inductive ArrayKind where
  | mx (blk : WBlock) (axis zero : Bool) (inputs : List (List Nat))
  | ew (eop : Nat) (as bs : List (List Nat))
  deriving DecidableEq, Repr

/-- An MX or EW that has issued and whose vectors have not all landed: the format, the region it writes, the vectors
landed so far, the number of vectors, the vectors that may still be landing once broadcasting has ended (03 R71), and
the operand-buffer lines it holds (R68). -/
structure ArrayOp where
  kind : ArrayKind
  fmt : Nat
  acc : Nat
  units : Nat
  rows : Nat
  done : Nat
  tail : Nat
  lines : List (Nat × Nat)
  deriving DecidableEq, Repr

/-- A write-back that has issued (05 R116, R145): its destination and bytes, the units or lines it is reading, the
allocation its release mark names, whether it is still reading, and when its request was accepted, in ns (12 R299). -/
structure WbOp where
  addr : Nat
  data : List Line
  cist : Bool
  first : Nat
  count : Nat
  rel : Bool
  reading : Bool
  issued : Nat := 0
  deriving DecidableEq, Repr

/-- One slot of a ring (06 R155 to R157): the index of the FETCH that filled it in its ring and in the list, its lines and their sources, uses left,
released. -/
structure RingSlot where
  fetchIdx : Nat
  entry : Nat
  lines : Nat
  srcs : List Nat
  uses : Nat
  released : Bool
  deriving DecidableEq, Repr

/-- A ring of the operand buffer as its SETUP entry defines it (06 R153, R155). -/
structure Ring where
  first : Nat
  slotLines : Nat
  slots : Nat
  fetches : Nat := 0
  live : SMap RingSlot := []
  deriving DecidableEq, Repr

/-- What a read of the fetch engine on plane 1 brings (06 R162): the lines of a FETCH, a line of the list, the source lines of a
weight block that is rebuilt (03 R66). -/
inductive FetchKind where
  | data | list | weights
  deriving DecidableEq, Repr

/-- A read of the fetch engine whose data has not all arrived: the first destination line, the source line of each
destination line in order, how many have arrived (06 R155), the layer it belongs to (R168), when it issued, in ns, whether it
holds credits of its own (a multicast is one read for all its members, R164), and whether it has been sent (one that a resume or a move asks for
again waits for its credits). -/
structure FetchReq where
  dst : Nat
  srcs : List Nat
  arrived : Nat
  kind : FetchKind := .data
  layer : Nat := 0
  issued : Nat := 0
  credited : Bool := true
  sent : Bool := true
  deriving DecidableEq, Repr

/-- What the fetch engine waits for at a MARK (06 R158). -/
structure MarkWait where
  scope : Bool
  markId : Nat
  wbn : Nat
  deriving DecidableEq, Repr

/-- The fetch engine of one tile (06): its list and position, the list lines it holds from the entry's own on, its rings, the
MARK it waits at, the address of its latest staging FETCH of the layer, the count of MARKs passed, the reads under way, oldest first, and how
often it has met and passed a MARK of each MARKID since its dispatch (R158). -/
structure Fetcher where
  running : Bool := false
  listAddr : Nat := 0
  entry : Nat := 0
  linesHeld : List Line := []
  rings : SMap Ring := []
  mode420 : Bool := false
  lead : Nat := 1
  mark : Option MarkWait := none
  lastStaging : Nat := 0
  layer : Nat := 0
  pending : List FetchReq := []
  marks : SMap Nat := []
  deriving DecidableEq, Repr

/-- The operation a tile is running a kernel of: the operation's key, the partition its addresses belong to (the mirror's in a
lock-step pair, 09 R235), its seed (07 R174), the kernel's index and the
logical tile the part runs as, and the die its addresses resolve on (09 R224). -/
structure PartCtx where
  op : Nat
  part : Nat
  seed : W64
  kernel : Nat
  lt : Nat
  homeDie : Nat
  deriving DecidableEq, Repr

/-- Requests waiting for an acceptance point (05 R127): SAVE, TEST, STOP, the times of LAUNCHes in the order they came, and the area
of a SAVE that waits for a save or restore under way (04 R109). -/
structure TileReqs where
  save : Bool := false
  test : Bool := false
  stop : Bool := false
  launches : List Nat := []
  saveAgain : Option Nat := none
  deriving DecidableEq, Repr

/-- The sequencer of a tile (05 R113, R149, R150). `before` is what it was doing when a save began; `awaits` says that its first
instruction waits for a LAUNCH (15 R378). -/
structure Seq where
  status : TileStatus := .idle
  before : TileStatus := .idle
  imem : SMap W64 := []
  pc : BitVec 12 := 0
  pcOver : Bool := false
  sreg : Vector W32 32 := Vector.replicate 32 0
  vreg : Vector Lanes 16 := Vector.replicate 16 (Vector.replicate 64 0)
  mreg : Vector W64 4 := Vector.replicate 4 (-1)
  lstart : BitVec 12 := 0
  lend : BitVec 12 := 0
  lcnt : Nat := 0
  lact : Bool := false
  repHeld : Bool := false
  delay : Nat := 0
  brTarget : Option (BitVec 12) := none
  evp : Bool := false
  launchTime : Nat := 0
  notBefore : Nat := 0
  lovr : Bool := false
  awaits : Bool := false
  inflight : List InFlight := []
  slot : Nat := 0
  reqs : TileReqs := {}
  faultValid : Bool := false
  faultCause : BitVec 8 := 0
  faultPc : BitVec 12 := 0
  maxWait : Nat := 0
  waited : Nat := 0
  deriving DecidableEq, Repr

/-- The array, the Cistern and the operand buffer of a tile (03, 04). `rebuild` lists the weight blocks still to be rebuilt (03 R66),
`xpWait` the express lines that wait for an instruction to read the line they replace (R69). -/
structure TileMem where
  active : Option WBlock := none
  shadow : Option WBlock := none
  loadLines : Option (Nat × Nat) := none
  cist : SMap W64 := []
  ctag : SMap (BitVec 4) := []
  cdesc : SMap UnitDesc := []
  allocs : List Alloc := []
  array : List ArrayOp := []
  wbs : List WbOp := []
  wbAcked : Nat := 0
  obuf : SMap Line := []
  valid : SMap Bool := []
  waitOpnd : Nat := 0
  waitAcc : Nat := 0
  waitShadow : Nat := 0
  rebuild : List Rebuild := []
  xpWait : List (Nat × Line) := []
  deriving DecidableEq, Repr

/-- One physical tile. `saved` says that its last save is reported complete and the tile keeps its context for the restore (04
R107, step 5); `saveArea` names the save area of its last SAVE. -/
structure Tile where
  seq : Seq := {}
  mem : TileMem := {}
  fetch : Fetcher := {}
  part : Option PartCtx := none
  sat : Bool := false
  nv : Bool := false
  ovf : Bool := false
  unf : Bool := false
  crc : W64 := -1
  ended : Bool := false
  saved : Bool := false
  saveArea : Nat := 0
  deriving DecidableEq, Repr

end Sys2Proof.Machine
end

