-- ==== Sys2Proof/Machine/State.lean ====
section
/-! DEFINITION. The state of the module, the reasons a step stops, and the state after reset. -/

namespace Sys2Proof.Machine

/-- Why a step faults (DESIGN CHOICE, note 123). -/
inductive Fault where
  /-- A command whose operands name nothing the module has (a lane above 8, a list of the wrong length): WellFormed refuses
  it. Safe: the hardware has no such command. Raised by the meanings that take a list or a number of that kind. -/
  | illFormed
  deriving DecidableEq, Repr

/-- Why a step is refused. -/
inductive Refusal where
  /-- The command has no meaning yet. Safe. Raised by the dispatcher alone. -/
  | notModelled (mnemonic : String)
  deriving DecidableEq, Repr

/-- The whole module. Registers are keyed by BAR0 offset (an unlisted one reads its reset value); dies by number; tiles by
die × 136 + physical tile; operations by their key; regions of host memory by byte address (DESIGN CHOICE, note 4) (DESIGN CHOICE, note 5). -/
structure State where
  /-- The commands that wait, first in, first out. -/
  pending : List Instr := []
  regs : SMap W32 := []
  dies : SMap DieSt := []
  tiles : SMap Tile := []
  tcs : SMap Tc := []
  ops : SMap Op := []
  parts : SMap Partition := []
  groups : SMap Group := []
  csteps : SMap CStep := []
  pairs : List LockPair := []
  ks : Keystone := {}
  ports : SMap Port := []
  clp : Clep := {}
  hub : Hub := {}
  pwr : Power := {}
  /-- Host memory, by byte address; an unlisted byte reads 0. -/
  host : SMap Byte := []
  /-- What the module has sent outward, latest first. -/
  out : List OutMsg := []
  /-- The count of free values drawn: the model's own field, not the spec's. -/
  fresh : Nat := 0
  deriving DecidableEq, Repr

/-- HUB_REV of a part after reset (17 R438): stepping B0, its fuses, and the operating grade it was made as. -/
def revWord (madeB memL48 : Bool) : W32 :=
  BitVec.ofNat 32 (0x42000000 + (if memL48 then 0x400 else 0) + (if madeB then 0x370 else 0x80))
/-- The module at power good, before any stage is entered (17 R429, 11 R274 step 1), of a part made as grade A or B with the memory option L64
or L48 (00 R3): every register at its reset value,
the supply up (PWR_STAT.PG resets to 1), every table empty (DESIGN CHOICE, note 2) (DEDUCED, note 7). -/
def State.resetAs (madeB memL48 : Bool) : State :=
  { pwr := { loop := true, enabled := true, good := true }
    regs := if madeB ∨ memL48 then [(4, revWord madeB memL48)] else []
    ks := { madeB := madeB, memL48 := memL48 } }
/-- The reset state of ordering code V960-L64-A (DESIGN CHOICE, note 6). -/
def State.reset : State := State.resetAs false false

end Sys2Proof.Machine
end

