-- ==== Sys2Proof/Machine/Ops.lean ====
section
/-! DEFINITION. The operations over the whole module that several families share: tables of units, registers by offset and
field, time, interrupts and module events, suspect events, stored lines, and the end of an operation. -/

namespace Sys2Proof.Machine

/-- What a command answers. -/
abbrev Out := Host.Outcome State Fault Refusal

/-! ## Units -/

/-- A die. -/
def dieOf (s : State) (d : Nat) : DieSt := mget {} s.dies d
/-- A die changed. -/
def modDie (s : State) (d : Nat) (f : DieSt → DieSt) : State := { s with dies := mmod {} s.dies d f }
/-- The key of a physical tile. -/
def tileKey (d p : Nat) : Nat := d * 136 + p
/-- A physical tile. -/
def tileOf (s : State) (d p : Nat) : Tile := mget {} s.tiles (tileKey d p)
/-- A physical tile changed. -/
def modTile (s : State) (d p : Nat) (f : Tile → Tile) : State := { s with tiles := mmod {} s.tiles (tileKey d p) f }
/-- A tenant context. -/
def tcOf (s : State) (n : Nat) : Tc := mget {} s.tcs n
/-- A tenant context changed. -/
def modTc (s : State) (n : Nat) (f : Tc → Tc) : State := { s with tcs := mmod {} s.tcs n f }
/-- The key of an operation: the enable of its context it belongs to, its context, ring and OPSEQ. -/
def opKey (life ctx : Nat) (express : Bool) (opseq : Nat) : Nat := life * 2 ^ 46 + (ctx * 2 + b2n express) * 2 ^ 32 + opseq
/-- The entry of a table, where it lists one. -/
def mfind {α : Type} : SMap α → Nat → Option α
  | [], _ => none
  | (k, v) :: r, i => if i = k then some v else mfind r i
/-- An operation in flight. -/
def opOf (s : State) (k : Nat) : Option Op := mfind s.ops k
/-- An operation changed, where it is in flight. -/
def modOp (s : State) (k : Nat) (f : Op → Op) : State :=
  match mfind s.ops k with
  | some o => { s with ops := mput s.ops k (f o) }
  | none => s
/-- A partition. -/
def partOf (s : State) (p : Nat) : Option Partition := mfind s.parts p
/-- A partition changed, where it exists. -/
def modPart (s : State) (p : Nat) (f : Partition → Partition) : State :=
  match mfind s.parts p with
  | some x => { s with parts := mput s.parts p (f x) }
  | none => s
/-- A Vidonlink port. -/
def portOf (s : State) (d : Nat) : Port := mget {} s.ports d
/-- A Vidonlink port changed. -/
def modPort (s : State) (d : Nat) (f : Port → Port) : State := { s with ports := mmod {} s.ports d f }
/-- The hub changed. -/
def modHub (s : State) (f : Hub → Hub) : State := { s with hub := f s.hub }
/-- Clepsydra changed. -/
def modClp (s : State) (f : Clep → Clep) : State := { s with clp := f s.clp }
/-- The supply and pins changed. -/
def modPwr (s : State) (f : Power → Power) : State := { s with pwr := f s.pwr }
/-- Keystone changed. -/
def modKs (s : State) (f : Keystone → Keystone) : State := { s with ks := f s.ks }
/-- Something sent outward. -/
def send (s : State) (m : OutMsg) : State := { s with out := m :: s.out }
/-- The numbers below n, rising. -/
def upTo (n : Nat) : List Nat := List.range n
/-- The sixteen dies. -/
def allDies : List Nat := List.range 16

/-! ## Blocks of the register map (17 R432) -/

/-- The HUB_ block. -/
def hubB : Nat := 0
/-- The KS_ block. -/
def ksB : Nat := 0x10000
/-- The CLP_ block. -/
def clpB : Nat := 0x20000
/-- The CFG_ block. -/
def cfgB : Nat := 0x30000
/-- The HLT_ block. -/
def hltB : Nat := 0x40000
/-- The PWR_ block. -/
def pwrB : Nat := 0x50000
/-- The table entry of a context. -/
def tcB (n : Nat) : Nat := 0x100000 + 64 * n
/-- The window of a die. -/
def dieB (d : Nat) : Nat := 0x2000000 + d * 0x200000
/-- The QP_ block of a die. -/
def qpB (d : Nat) : Nat := dieB d
/-- The RUN_ block of a die. -/
def runB (d : Nat) : Nat := dieB d + 0x10000
/-- The HBM_ block of a die. -/
def hbmB (d : Nat) : Nat := dieB d + 0x20000
/-- The VL_ block of a die. -/
def vlB (d : Nat) : Nat := dieB d + 0x30000
/-- The MOR_ block of a die. -/
def morB (d : Nat) : Nat := dieB d + 0x40000
/-- The CSC_ block of a die. -/
def cscB (d : Nat) : Nat := dieB d + 0x50000
/-- The FTN_ block of a die. -/
def ftnB (d : Nat) : Nat := dieB d + 0x60000
/-- The MT_ block of a die, reached through the indirect pair only (R433): its key in the register table. -/
def mtB (d : Nat) : Nat := 0x10000000 + d * 0x20000
/-- The SEQ_ block of a die (R433): its key in the register table. -/
def seqB (d : Nat) : Nat := mtB d + 0x10000
/-- The registers each requester has of its own: the IND_ and WIDE_ blocks (R433, R436) and the MSI-X structures of its
link. -/
def ownB (req : Nat) : Nat := 0x20000000 + req * 0x100000

/-! ## Register words and fields -/

/-- Whether `o` is one of `n` offsets from `base` in steps of `step`. -/
def offIn (o base step n : Nat) : Bool :=
  decide (base ≤ o) && decide (o < base + step * n) && (o - base) % step == 0

/-- Reset values of the hub blocks' registers (11 R283, 14 to 20) (DESIGN CHOICE, note 6). -/
def resetHub (k : Nat) : Nat :=
  if k = 0x0 then 0x09601088
  else if k = 0x4 then 0x42000080
  else if k = 0xC then 0xFFFF
  else if offIn k 0x40 4 6 then 0xFFFFFFFF
  else if offIn k 0x1000 4 4 then 0xFFFFFFFF
  else if k = 0x1010 then 0x01000000
  else if offIn k 0x1014 4 3 then 0xFFFFFFFF
  else if k = 0x1024 then 0xFFFFFFFF
  else if k = clpB + 4 then 0x8080
  else if k = clpB + 8 then 0xA0000
  else if k = hltB + 4 then 0x1807D0
  else if k = hltB + 0x408 then 0x04000000
  else if k = hltB + 0x2000 then 0x200003E8
  else if k = pwrB then 0x80000018
  else if k = pwrB + 4 then 0x0FA05008
  else 0

/-- Reset values of a context's table entry (16 R400). -/
def resetTc (o : Nat) : Nat :=
  if o = 0x08 then 0x06060600
  else if o = 0x0C then 0x100
  else if o = 0x28 then 0x10000000
  else if o = 0x2C then 0x00400000
  else if o = 0x30 then 0x04000000
  else 0

/-- Reset values of a die's window. -/
def resetDie (o : Nat) : Nat :=
  if o = 0x20004 then 0x080000C8
  else if o = 0x30000 then 0x3C0000
  else if o = 0x30004 then 0x8000FF00
  else if o = 0x3000C then 0x32
  else if o = 0x30010 then 1
  else if o = 0x30018 then 0x40000064
  else if o = 0x3001C then 0x10008
  else if o = 0x30028 then 0x100
  else if o = 0x40004 then 0x101010
  else 0

/-- The reset value of a register, the value an unlisted one holds. -/
def regReset (k : Nat) : W32 :=
  BitVec.ofNat 32
    (if k < 0x100000 then resetHub k
     else if k < 0x2000000 then resetTc (k % 64)
     else if k < 0x4000000 then resetDie (k % 0x200000)
     else if 0x20000000 ≤ k ∧ 0x8000 ≤ k % 0x100000 ∧ k % 0x100000 < 0x10000 ∧ k % 16 = 12 then 1
     else if 0x20120000 ≤ k ∧ k < 0x20130000 then resetHub (k % 0x10000)
     else 0)

/-- The stored word of a register. -/
def raw (s : State) (k : Nat) : W32 := mget (regReset k) s.regs k
/-- A register's word stored, in canonical form. -/
def setRaw (s : State) (k : Nat) (v : W32) : State := { s with regs := mset (regReset k) s.regs k v }
/-- Field [lo + len - 1 : lo] of a register. -/
def fld (s : State) (k lo len : Nat) : Nat := bitsOf (raw s k).toNat lo len
/-- A word with field [lo + len - 1 : lo] replaced. -/
def putBits (w : W32) (lo len v : Nat) : W32 :=
  let m : Nat := (2 ^ len - 1) * 2 ^ lo
  (w &&& ~~~(BitVec.ofNat 32 m)) ||| BitVec.ofNat 32 ((v % 2 ^ len) * 2 ^ lo)
/-- Field [lo + len - 1 : lo] of a register set. -/
def setFld (s : State) (k lo len v : Nat) : State := setRaw s k (putBits (raw s k) lo len v)
/-- A counting field that saturates, raised by `n`. -/
def bump (s : State) (k lo len n : Nat) : State := setFld s k lo len (min (fld s k lo len + n) (2 ^ len - 1))
/-- A flag field. -/
def flag (s : State) (k i : Nat) : Bool := fld s k i 1 == 1
/-- A flag field set or cleared. -/
def setFlag (s : State) (k i : Nat) (b : Bool) : State := setFld s k i 1 (b2n b)

/-- Capability bit `i` of CFG_CAP (11 R283): 0 MGMT, 1 QUEUES, 2 REGIONS, 3 FMT_WIDE, 4 TILES_FULL, 5 CLK_FULL, 6 HBM_FULL,
7 VIDON. -/
def cap (s : State) (i : Nat) : Bool := flag s (cfgB + 4) i
/-- The stage of CFG_STAT: 0 recovery A, 1 A, 2 B, 3 C. -/
def stageOf (s : State) : Nat := fld s cfgB 30 2
/-- Determinism mode (09 R231). -/
def detOn (s : State) : Bool := flag s (hltB + 0x2000) 30
/-- Whether the operating grade is B (HUB_REV.OGRADE). -/
def gradeB (s : State) : Bool := flag s 4 8
/-- Logical tiles per die of the operating grade (00 R4). -/
def lTiles (s : State) : Nat := if gradeB s then 112 else 128

/-! ## Time (15 R365 to R367) -/

/-- MLT in whole nanoseconds. -/
def mltNs (s : State) : Nat := s.clp.mlt / 2 ^ 40 % 2 ^ 64
/-- MLT in units of 1/65,536 ns. -/
def mltFrac (s : State) : Nat := s.clp.mlt / 2 ^ 24 % 2 ^ 80
/-- Device time in units of 1/65,536 ns. -/
def devFrac (s : State) : Nat := s.clp.dev / 2 ^ 24
/-- SEC of device time. -/
def devSec (s : State) : Nat := devFrac s / 65536 / 1000000000 % 2 ^ 48
/-- NS of device time. -/
def devNs (s : State) : Nat := devFrac s / 65536 % 1000000000
/-- The current epoch (R366). -/
def epochNow (s : State) : Epoch := s.clp.epochs.headD ⟨0, 0⟩
/-- Microseconds since power good. -/
def sincePg (s : State) : Nat := s.hub.cycles / 800

/-! ## Interrupts and module events (16 R422, 19 R477) -/

/-- Whether the host interface is two links of x8 (16 R392). -/
def twoLinks (s : State) : Bool := s.pwr.split8

/-- An MSI-X vector signalled on a link: a masked vector keeps its pending bit (16 R422). The pending bits lie after the
table in the link's own registers (DESIGN CHOICE, note 110). -/
def msix (s : State) (link vec : Nat) : State :=
  let k := ownB link + 0x8000 + 16 * vec + 12
  if flag s k 0 then setFlag s (ownB link + 0x10000 + 4 * (vec / 32)) (vec % 32) true
  else send s (.msix link vec)

/-- Module event `n` (19 R477): its bit of HLT_EVT, and MSI-X vector `n` unless HUB_EVT_MASK masks it. -/
def moduleEvent (s : State) (n : Nat) : State :=
  let s1 := setFlag s hltB n true
  if flag s1 0xC n then s1
  else
    let s2 := msix s1 0 n
    if twoLinks s then msix s2 1 n else s2

/-! ## Fields of byte strings -/

/-- The little-endian number of `n` bytes at offset `o` of a list. -/
def fieldLe (b : List Byte) (o n : Nat) : Nat := leNat ((b.drop o).take n)
/-- Byte `o` of a list, 0 past its end. -/
def byteAt (b : List Byte) (o : Nat) : Nat := (b.getD o 0).toNat

/-- The dies of a partition's span that still work for it (19 R466), rising. -/
def spanDies (p : Partition) : List Nat := allDies.filter (fun d => p.cur.span.testBit d && !p.outDies.testBit d)
/-! ## Suspect events (09 R219, R220) -/

/-- Whether an operation has a die among those that contribute to its present run: where it runs, the tiles of its parts, the
stations of a CASCADE's partition. -/
def opOnDie (s : State) (k : Nat) (o : Op) (d : Nat) : Bool :=
  o.runDie == d || (byteAt o.desc 0 == 2 && (match partOf s o.part with | some p => (spanDies p).contains d | none => false)) || (upTo 136).any (fun p => match (tileOf s d p).part with | some c => c.op == k | none => false)

/-- Whether an operation has been dispatched and has not taken its commit decision. -/
def inRun (o : Op) : Bool := o.phase == .running

/-- HLT_SUSPECT_d of a die. -/
def suspectReg (d : Nat) : Nat := hltB + 0x2200 + 4 * (d % 16)
/-- A suspect event raised on die `d` by source bit `src` of HLT_SUSPECT_d: pending for every operation in its run there, and
counted for the rate of 19 R465. -/
def suspect (s : State) (d src : Nat) : State :=
  let s1 := setFlag s (suspectReg d) src true
  let ops := s1.ops.map (fun p => if inRun p.2 && opOnDie s p.1 p.2 d then (p.1, { p.2 with suspect := true, badRun := true }) else p)
  let old := (mget [] s1.hub.suspects d).filter (fun t => decide (mltNs s < t + 60000000000))
  { s1 with ops := ops, hub := { s1.hub with suspects := mput s1.hub.suspects d (mltNs s :: old) } }

/-! ## Stored lines (06 R151, R152; 13 R306, R307) -/

/-- The bank indices of a bank-set mask, rising (13 R306). -/
def bankList (mask : Nat) : List Nat := (upTo 64).filter (fun k => mask.testBit k)

/-- The place of a bank-set line (13 R307): pseudo-channel, bank, row, column. -/
def hbmPlace (mask l : Nat) : Option (Nat × Nat × Nat × Nat) :=
  let bs := bankList mask
  let b := bs.length
  let r := l / 1024
  if l < b * 2 ^ 24 then some (((l / 16) % 64) ^^^ (r % 64), bs.getD (r % b) 0, r / b, l % 16) else none

/-- The key of a place in a stack's lines. -/
def hbmKey (pc bank row col : Nat) : Nat := ((bank * 64 + pc) * 16384 + row) * 16 + col

/-- The status of an access to a line: OK, E_TARGET_OFF, E_VERSION for a refused address, E_ECC (16 R420). -/
abbrev Status := BitVec 8

/-- Whether a logical line is the express doorway of the partition (14 R339): the highest line of its Basin window. -/
def isDoorway (p : Partition) (addr : Nat) : Bool :=
  decide (0 < p.cur.basin) && addr == 2 ^ 30 + (p.cur.basin - 1)

/-- Where a readable line of a partition lies on a die: an HBM key, a Basin key, or refused (R152). -/
inductive Place where
  | hbm (key : Nat)
  | basin (key : Nat)
  | refused
  deriving DecidableEq, Repr

/-- The place of logical line `addr` of spaces 0b00 and 0b01 in partition `pn`. -/
def place (p : Partition) (pn addr : Nat) : Place :=
  let i := addr % 2 ^ 30
  match addr / 2 ^ 30 with
  | 0 =>
    match hbmPlace p.cur.banks i with
    | some (pc, b, r, c) => .hbm (hbmKey pc b r c)
    | none => .refused
  | 1 => if i < p.cur.basin then .basin (pn * 2 ^ 30 + i) else .refused
  | _ => .refused

/-- Whether a die answers: powered and not fenced. -/
def dieUp (s : State) (d : Nat) : Bool := !(dieOf s d).fenced

/-- Whether a clock domain of a die is stopped (15 R387). -/
def stoppedDom (s : State) (die dom : Nat) : Bool := s.hub.stopped.contains (die, dom)

/-- A line with the bytes of another where a mask names them (13 R316). -/
def mergeLine (old new : Line) (mask : BitVec 64) : Line :=
  lineOf ((upTo 64).map (fun b => if mask.getLsbD b then new.extractLsb' (8 * b) 8 else old.extractLsb' (8 * b) 8))

/-- A write applied to a place of the stack: a whole line ends its poison (13 R316), a part of a poisoned line leaves it. -/
def hbmStore (h : Hbm) (k : Nat) (x : Line) (mask : BitVec 64) : Hbm :=
  if mask = -1 then { h with lines := mset 0 h.lines k x, poison := mdel h.poison k }
  else if mget false h.poison k then h
  else { h with lines := mset 0 h.lines k (mergeLine (mget 0 h.lines k) x mask) }

/-- The place of a queued request. -/
def HbmReq.key (q : HbmReq) : Nat := hbmKey q.pc q.bank q.row q.col

/-- What a place reads as once the writes queued before number `before` are in it (13 R309, R312: an acknowledged write is seen
by every read that enters a queue after it). -/
def hbmSee (h : Hbm) (before k : Nat) : Bool × Line :=
  let g := (h.queue.filter (fun q => q.write && q.key == k && decide (q.id < before))).foldl
    (fun a q => hbmStore a k q.data q.mask) h
  (mget false g.poison k, mget 0 g.lines k)

/-- Lines of a staging piece: 256 KiB (06 R168). -/
def pieceLines : Nat := 4096
/-- A line of a partition's staging space read by a unit that follows no layer of its own, as a COPY: that of the oldest layer the die holds pieces
of (06 R151, R168; DESIGN CHOICE, note 139). -/
def oldestStaged (s : State) (pn d a : Nat) : Option Line :=
  let ps := (mget {} (dieOf s d).staging pn).pieces
  let layer := ps.foldl (fun m x => min m x.layer) ((ps.head?.map (·.layer)).getD 0)
  (ps.find? (fun x => x.layer == layer && x.idx == a % 2 ^ 30 / pieceLines)).bind (fun x => x.lines[a % 2 ^ 30 % pieceLines]?)

/-- One line read for partition `pn` on die `d`: its status and data. A read of the doorway returns zeros (14 R339). What an unordered read returns is note 128 (DESIGN CHOICE). -/
def readLine (s : State) (pn d addr : Nat) : Status × Line :=
  match partOf s pn with
  | none => (0x10, 0)
  | some p =>
    if !dieUp s d then (0x10, 0)
    else if isDoorway p addr then (0, 0)
    else if addr / 2 ^ 30 = 2 ∧ p.cur.chain then (match oldestStaged s pn d addr with | some x => (0, x) | none => (0x22, 0))
    else match place p pn addr with
      | .hbm k => match hbmSee (dieOf s d).hbm (dieOf s d).hbm.nextId k with | (true, _) => (0x50, 0) | (false, x) => (0, x)
      | .basin k => (0, mget 0 (dieOf s d).basin k)
      | .refused => (0x22, 0)

/-- One whole line stored on a die: a poisoned line is replaced (13 R316), and so are older writes that wait for it. -/
def storeAt (s : State) (d : Nat) (pl : Place) (x : Line) : State :=
  match pl with
  | .hbm k =>
    modDie s d fun e =>
      { e with hbm := hbmStore { e.hbm with queue := e.hbm.queue.filter (fun q => !(q.write && q.key == k)) } k x (-1) }
  | .basin k => modDie s d fun e => { e with basin := mset 0 e.basin k x }
  | .refused => s

/-- Whether a bank-set line lies in the partition's weight range (09 R227). -/
def inWeights (p : Partition) (addr : Nat) : Bool :=
  decide (addr < 2 ^ 30) && decide (p.cur.wFirst ≤ addr) && decide (addr < p.cur.wFirst + p.cur.wCount)

/-- A write into the weight range marks it written after the epoch's start (09 R230). -/
def dirtyWeights (s : State) (pn addr : Nat) : State :=
  modPart s pn fun p => if inWeights p addr then { p with digest := { p.digest with dirty := true, doneDirty := true } } else p

/-- One line written for partition `pn` on die `d`: refused ones store nothing (R152). While a copy or reload of 01 R36 or 09
R229 runs from this die, its writes are sent to the receiving dies as well. -/
def writeLine (s : State) (pn d addr : Nat) (x : Line) : Status × State :=
  match partOf s pn with
  | none => (0x10, s)
  | some p =>
    if !dieUp s d then (0x10, s)
    else if isDoorway p addr then (0x22, s)
    else match place p pn addr with
      | .refused => (0x22, s)
      | pl =>
        let s1 := dirtyWeights (storeAt s d pl x) pn addr
        if inWeights p addr then (0, (p.copying.filter (fun e => e != d)).foldl (fun a e => storeAt a e pl x) s1)
        else (0, s1)

/-- Lines read one after another, up to the first that is not OK. -/
def readLines (s : State) (pn d addr : Nat) : Nat → Status × List Line
  | 0 => (0, [])
  | n + 1 =>
    match readLine s pn d addr with
    | (0, x) => let r := readLines s pn d (addr + 1) n; (r.1, x :: r.2)
    | (e, _) => (e, [])

/-- Whether every line of a write is inside a writable range: a write of which one line is refused stores nothing (R152). -/
def writable (s : State) (pn d addr n : Nat) : Status :=
  match partOf s pn with
  | none => 0x10
  | some p =>
    if !dieUp s d then 0x10
    else if (upTo n).any (fun i => isDoorway p (addr + i) || place p pn (addr + i) == .refused) then 0x22 else 0

/-- Lines written one after another. -/
def storeLines (s : State) (pn d addr : Nat) : List Line → State
  | [] => s
  | x :: r => storeLines (writeLine s pn d addr x).2 pn d (addr + 1) r

/-- A write of several lines: all of it, or none where it is refused. -/
def writeLines (s : State) (pn d addr : Nat) (xs : List Line) : Status × State :=
  match writable s pn d addr xs.length with
  | 0 => (0, storeLines s pn d addr xs)
  | e => (e, s)

/-! ## Host memory (16 R401) -/

/-- `n` bytes of host memory. -/
def hostRead (s : State) (a n : Nat) : List Byte := (upTo n).map (fun i => mget 0 s.host (a + i))
/-- Bytes written to host memory. -/
def hostWrite (s : State) (a : Nat) (b : List Byte) : State :=
  { s with host := (b.foldl (fun (q : SMap Byte × Nat) x => (mset 0 q.1 q.2 x, q.2 + 1)) (s.host, a)).1 }

/-! ## Operations -/

/-- The die of a span position (16 R408), following the alias of a fenced one (19 R466); none where no die is left. -/
def spanDie (p : Partition) (pos : Nat) : Option Nat :=
  match (allDies.filter (fun d => p.cur.span.testBit d))[pos]? with
  | some d => let e := mget d p.aliases d; if e < 16 then some e else none
  | none => none
/-- The home die of a partition (16 R399). -/
def homeDie (p : Partition) : Option Nat := (spanDies p).head?
/-- The key of a logical tile of a die in a partition's list. -/
def ltKey (d lt : Nat) : Nat := d * 128 + lt
/-- The physical tile a logical tile is mapped onto (03 R90): MT_MAP's entry, PT n before any map change. -/
def ptOf (s : State) (d lt : Nat) : Option (Nat × BitVec 8) := mget none (dieOf s d).ltMap lt

/-- The tiles that hold a part of an operation: (die, physical tile). -/
def tilesOfOp (s : State) (k : Nat) : List (Nat × Nat) :=
  (s.tiles.filter (fun e => match e.2.part with | some c => c.op == k | none => false)).map
    (fun e => (e.1 / 136, e.1 % 136))

end Sys2Proof.Machine
end

