-- ==== Sys2Proof/Machine/Faults.lean ====
section
/-! DEFINITION. Fault signatures and the fault log (19 R471, R474 to R477). -/

namespace Sys2Proof.Machine

/-- What a fault signature says (19 R475): FSID, unit kind, die (0x10 for the hub), unit index, partition (0xFF none),
completion code, action, severity, detail bytes. -/
structure FaultArgs where
  fsid : Nat
  kind : Nat
  die : Nat
  unit : Nat := 0
  part : Nat := 0xFF
  code : Nat := 0
  action : Nat := 0
  sev : Nat
  detail : List Byte := []
  deriving DecidableEq, Repr

/-- ASCII bytes of a string. -/
def ascii (x : String) : List Byte := x.toList.map (fun c => BitVec.ofNat 8 c.toNat)
/-- A byte list cut or filled with zeros to `n` bytes. -/
def padTo (n : Nat) (b : List Byte) : List Byte := (b ++ List.replicate (n - b.length) 0).take n

/-- A number below 100 in binary-coded decimal. -/
def bcd (n : Nat) : Byte := BitVec.ofNat 8 (n / 10 % 10 * 16 + n % 10)

/-- The date of a count of days since 1970-01-01: year, month, day. -/
def civil (days : Nat) : Nat × Nat × Nat :=
  let z := days + 719468
  let era := z / 146097
  let doe := z % 146097
  let yoe := (doe - doe / 1460 + doe / 36524 - doe / 146096) / 365
  let doy := doe - (365 * yoe + yoe / 4 - yoe / 100)
  let mp := (5 * doy + 2) / 153
  let m := if mp < 10 then mp + 3 else mp - 9
  (yoe + era * 400 + (if m ≤ 2 then 1 else 0), m, doy - (153 * mp + 2) / 5 + 1)

/-- Device time in the UEFI timestamp format (PRESUMED, note 30): BCD seconds, minutes, hours, a flags byte, day, month, year,
century (PRESUMED, note 52). -/
def uefiTime (s : State) : List Byte :=
  let t := devSec s
  let c := civil (t / 86400)
  [bcd (t % 60), bcd (t / 60 % 60), bcd (t / 3600 % 24), 0, bcd c.2.2, bcd c.2.1, bcd (c.1 % 100), bcd (c.1 / 100)]

/-- The GUID 4e9a61c2-07b3-4f58-9d2e-a1c6b8f03e75 of R474, in the byte order of a GUID. -/
def creatorGuid : List Byte :=
  [0xc2, 0x61, 0x9a, 0x4e, 0xb3, 0x07, 0x58, 0x4f, 0x9d, 0x2e, 0xa1, 0xc6, 0xb8, 0xf0, 0x3e, 0x75]
/-- The UEFI notification type for PCI Express errors (PRESUMED, note 30). -/
def pcieGuid : List Byte :=
  [0x1f, 0xc0, 0x93, 0xcf, 0x16, 0x1a, 0xfc, 0x4d, 0xb8, 0xbc, 0x9c, 0x4d, 0xaf, 0x67, 0xc1, 0x04]

/-- The vendor section of R475, 128 bytes. -/
def vendorSection (s : State) (a : FaultArgs) (count : Nat) : List Byte :=
  let b := ascii "NRV960FS" ++ leBytes 4 0x01000000 ++ leBytes 2 a.fsid ++ leBytes 1 a.kind ++ leBytes 1 a.die ++ leBytes 2 a.unit
    ++ leBytes 1 a.part ++ leBytes 1 a.code ++ leBytes 1 a.action ++ leBytes 3 0 ++ leBytes 8 (mltNs s) ++ leBytes 8 (devSec s)
    ++ leBytes 4 (devNs s) ++ leBytes 2 (epochNow s).num.toNat ++ leBytes 2 0 ++ leBytes 4 count ++ leBytes 4 (raw s 0x44).toNat
    ++ padTo 64 a.detail
  b ++ leBytes 4 (crc32 b) ++ leBytes 4 0

/-- The FRU text of R474. -/
def fruText (die : Nat) : List Byte :=
  if die < 16 then ascii "NRV960 CD" ++ [BitVec.ofNat 8 (48 + die / 10), BitVec.ofNat 8 (48 + die % 10)] else ascii "NRV960 HUB"

/-- The record of R474, 328 bytes: header, one section descriptor, the vendor section. Field places are those of the UEFI
specification the rule names (PRESUMED, note 30). -/
def faultRecord (s : State) (a : FaultArgs) : List Byte :=
  let ser := leBytes 8 Config.serial.toNat
  let valid := 1 + (if flag s clpB 29 then 2 else 0) + (if a.part = 0xFF then 0 else 4)
  let pid := if a.part = 0xFF then [] else leBytes 1 a.part
  let header := ascii "CPER" ++ leBytes 2 0x0101 ++ leBytes 4 0xFFFFFFFF ++ leBytes 2 1 ++ leBytes 4 a.sev ++ leBytes 4 valid
    ++ leBytes 4 328 ++ uefiTime s ++ padTo 16 ser ++ padTo 16 pid ++ creatorGuid ++ pcieGuid ++ leBytes 8 s.hub.recordId
    ++ leBytes 4 0 ++ leBytes 8 0 ++ leBytes 12 0
  let desc := leBytes 4 200 ++ leBytes 4 128 ++ leBytes 2 0x0101 ++ leBytes 1 3 ++ leBytes 1 0 ++ leBytes 4 0 ++ creatorGuid
    ++ padTo 16 ser ++ leBytes 4 a.sev ++ padTo 20 (fruText a.die)
  header ++ desc ++ vendorSection s a 1

/-- Size of the hub's embedded flash, 4 MiB (10 R256). -/
def flashSize : Nat := 0x400000
/-- Whether the hub fabric has a path to an address of it: the user area alone (R256). -/
def userArea (a : Nat) : Bool := decide (0x200000 ≤ a) && decide (a < flashSize)
/-- A sector of 4 KiB erased (R256). -/
def sectorErase (s : State) (sector : Nat) : State :=
  modHub s fun h => { h with hubFlash := h.hubFlash.filter (fun e => e.1 / 4096 != sector) }
/-- The pages of 256 bytes that `n` bytes from `a` on touch: the first address and the bytes of each. -/
def flashPages (a : Nat) (b : List Byte) : List (Nat × List Byte) :=
  (upTo (ceilDiv (a % 256 + b.length) 256)).map (fun i =>
    if i = 0 then (a, b.take (256 - a % 256)) else (a - a % 256 + 256 * i, (b.drop (256 * i - a % 256)).take 256))
/-- A page programmed (R256); the flash ends at 4 MiB. -/
def pageProgram (s : State) (a : Nat) (b : List Byte) : State :=
  modHub s fun h => { h with hubFlash := (b.foldl (fun (q : SMap Byte × Nat) x => (if q.2 < flashSize then mset 0xFF q.1 q.2 x else q.1, q.2 + 1)) (h.hubFlash, a)).1 }
/-- Bytes programmed into the hub's embedded flash, page by page (R256; an erased byte reads 0xFF): the other bytes of their sectors keep their
values. -/
def flashWrite (s : State) (a : Nat) (b : List Byte) : State := (flashPages a b).foldl (fun u p => pageProgram u p.1 p.2) s
/-- Bytes of the embedded flash. -/
def flashRead (s : State) (a n : Nat) : List Byte := (upTo n).map (fun i => mget 0xFF s.hub.hubFlash (a + i))

/-- The address of a fault-log slot (19 R471). -/
def flogAddr (slot : Nat) : Nat := 0x20000 + slot * 512

/-- Whether a stored signature is the same fault within 1 s (19 R475, offset 48) (DEDUCED, note 51). -/
def sameFault (s : State) (a : FaultArgs) (r : FaultRec) : Bool :=
  r.fsid == a.fsid && r.kind == a.kind && r.die == a.die && r.unit == a.unit && !r.delivered
    && decide (mltNs s < r.at_ + 1000000000)

/-- A fault signature exported (R474): merged into the same fault's record of the last second, or stored in the next slot of
the fault log to be delivered (R476). -/
def faultSig (s : State) (a : FaultArgs) : State :=
  match s.hub.faults.find? (sameFault s a) with
  | some r =>
    let s1 := modHub s fun h =>
      { h with faults := updFirst (fun x => x == r) (fun x => { x with count := x.count + 1 }) h.faults }
    let body := flashRead s (flogAddr r.slot + 200) 48 ++ leBytes 4 (r.count + 1) ++ flashRead s (flogAddr r.slot + 252) 68
    flashWrite s1 (flogAddr r.slot + 200) (body ++ leBytes 4 (crc32 body))
  | none =>
    let slot := s.hub.faultSlot
    let s1 := flashWrite s (flogAddr slot) (padTo 512 (faultRecord s a))
    modHub s1 fun h =>
      { h with
        faults := (h.faults.filter (fun x => x.slot != slot)) ++ [⟨a.fsid, a.kind, a.die, a.unit, mltNs s, slot, 1, false, false⟩]
        faultSlot := (slot + 1) % 1792
        recordId := h.recordId + 1 }

end Sys2Proof.Machine
end

