-- ==== Sys2Proof/Machine/Images.lean ====
section
/-! DEFINITION. Images: the container (11 R261 to R266), the signature block (18 R441, R442), version pairs (19 R472), the boot flash and its
directory (11 R267 to R269). -/

namespace Sys2Proof.Machine

/-! ## The container (11 R261, R262) -/

/-- TYPE. -/
def imgType (b : List Byte) : Nat := byteAt b 12
/-- ENC. -/
def imgEnc (b : List Byte) : Bool := (byteAt b 13).testBit 0
/-- NONDET. -/
def imgNondet (b : List Byte) : Bool := (byteAt b 13).testBit 1
/-- IVER. -/
def imgVer (b : List Byte) : Nat := fieldLe b 16 4
/-- PLEN. -/
def imgPlen (b : List Byte) : Nat := fieldLe b 24 4
/-- FMAX of clock `c`, in kHz. -/
def imgFmax (b : List Byte) (c : Nat) : Nat := fieldLe b (40 + 4 * c) 4
/-- The clocks an image uses, in the bits of MOR_REG_r.CLKS. -/
def imgClks (b : List Byte) : Nat := [0, 1, 2].foldl (fun a c => if imgFmax b c = 0 then a else a + 2 ^ c) 0
/-- The payload as stored. -/
def imgPayload (b : List Byte) : List Byte := (b.drop 640).take (imgPlen b)
/-- The header checks of R266, for an image of type `t`; ENC is as R263 has it for the type. -/
def hdrOk (t : Nat) (b : List Byte) : Bool :=
  let enc := !(t == 1 || t == 2)
  let zero (off n : Nat) : Bool := fieldLe b off n == 0
  b.take 8 == ascii "NRV960IM" && byteAt b 11 == 1 && imgType b == t && (imgEnc b == enc) && decide (byteAt b 13 < 4) && zero 14 2 &&
    imgPlen b % 16 == 0 && zero 56 72 && (enc || zero 28 12) && (t == 16 || zero 40 16) &&
    b.length == 640 + imgPlen b + (if enc then 16 else 0)

/-! ## The signature block (18 R441, R442) -/

/-- The signature block. -/
def sigBlock (b : List Byte) : List Byte := (b.drop 128).take 512
/-- SVN. -/
def imgSvn (b : List Byte) : Nat := fieldLe (sigBlock b) 16 4
/-- Whether the block verifies: its magic and format, its root, its signature, its security version. -/
def sigOk (k : Keystone) (b : List Byte) : Bool :=
  let g := sigBlock b
  let root := byteAt g 12
  let pub := (g.drop 24).take 96
  g.take 8 == ascii "NRV960SG" && byteAt g 11 == 1 && decide (root < 4) && !k.rootRevoked.testBit root &&
    beNat (sha256 pub) == (Config.rootDigest root).toNat &&
    Config.ecdsaOk pub (sha256 (b.take 128 ++ g.take 408 ++ imgPayload b)) ((g.drop 408).take 96) &&
    (imgType b == 16 || decide (mget 0 k.svn (imgType b) ≤ imgSvn b))
/-- The image key in force (11 R264): none where it is absent or lost. -/
def imageKey (k : Keystone) : Option (List Byte) := if k.keysrcNow then k.vbatKey else k.fuseKey
/-- The payload in plaintext: decrypted under the image key where ENC = 1, none where the tag fails. -/
def plainOf (k : Keystone) (b : List Byte) : Option (List Byte) :=
  if imgEnc b then
    (imageKey k).bind (fun key => Config.gcmOpen key ((b.drop 28).take 12) (b.take 640) (imgPayload b) ((b.drop (640 + imgPlen b)).take 16))
  else some (imgPayload b)

/-! ## Version pairs (19 R472; 18 R441, R443) -/

/-- The own interface entries of an image: IFID and version. -/
def ownIfs (b : List Byte) : List (Nat × Nat) :=
  let g := sigBlock b
  (upTo (min 8 (byteAt g 20))).map (fun i => (fieldLe g (120 + 8 * i) 2, fieldLe g (124 + 8 * i) 4))
/-- Its partner entries: type, IFID and version. -/
def partnerIfs (b : List Byte) : List (Nat × Nat × Nat) :=
  let g := sigBlock b
  (upTo (min 28 (byteAt g 21))).map (fun i => (byteAt g (184 + 8 * i), fieldLe g (186 + 8 * i) 2, fieldLe g (188 + 8 * i) 4))
/-- Whether one image's partner list names the other. -/
def names (x y : List Byte) : Bool :=
  (partnerIfs x).any (fun e => e.1 == imgType y && (ownIfs y).any (fun o => o.1 == e.2.1 && o.2 / 65536 == e.2.2 / 65536))
/-- How a pair stands: qualified, run at chosen versions (IFID and version), or failed. -/
inductive Pair where
  | qualified
  | chosen (vs : List (Nat × Nat))
  | failed
  deriving DecidableEq, Repr
/-- The pair of two images. -/
def pairOf (x y : List Byte) : Pair :=
  if names x y || names y x then .qualified
  else
    let shared := ((ownIfs x).map (·.1)).eraseDups.filter (fun i => (ownIfs y).any (fun o => o.1 == i))
    let best (i : Nat) : Option Nat :=
      let vs := ((ownIfs x).filter (fun o => o.1 == i && o.2 != 0xFFFFFFFF && (ownIfs y).any (fun p => p.1 == i && p.2 / 65536 == o.2 / 65536))).map (·.2)
      vs.foldl (fun (a : Option Nat) v => some (max v (a.getD 0))) none
    if shared.isEmpty then .qualified
    else if shared.any (fun i => (best i).isNone) then .failed
    else .chosen (shared.map (fun i => (i, (best i).getD 0)))
/-- The detail bytes of a version-pair signature: both types, then the versions chosen. -/
def pairDetail (x y : List Byte) (vs : List (Nat × Nat)) : List Byte :=
  leBytes 1 (imgType x) ++ leBytes 1 (imgType y) ++ vs.flatMap (fun v => leBytes 2 v.1 ++ leBytes 4 v.2)
/-- A loading image checked against every running one of another type: a failed pair is reported with its partner; a pair run
unqualified sets UNQUAL and exports an informational signature. -/
def checkPairs (s : State) (b : List Byte) : Bool × State :=
  (s.hub.running.filter (fun e => e.1 != imgType b)).foldl
    (fun (a : Bool × State) e =>
      match pairOf b e.2 with
      | .qualified => a
      | .chosen vs =>
        (a.1, faultSig (setFlag a.2 (hltB + 0x304) 30 true) { fsid := 0x40, kind := 7, die := 0x10, sev := 3, detail := pairDetail b e.2 vs })
      | .failed =>
        let s1 := setFld (setFld (setFlag a.2 (hltB + 0x304) 31 true) (hltB + 0x304) 8 8 (imgType b)) (hltB + 0x304) 0 8 e.1
        (false, faultSig s1 { fsid := 0x40, kind := 7, die := 0x10, code := 0x22, action := 5, sev := 1, detail := pairDetail b e.2 [] }))
    (true, s)

/-! ## The boot flash and its directory (11 R267 to R269) -/

/-- Bytes of the boot flash; an erased byte reads 0xFF. -/
def bootRead (s : State) (a n : Nat) : List Byte := (upTo n).map (fun i => mget 0xFF s.hub.bootFlash (a + i))
/-- Bytes programmed into the boot flash. -/
def bootWrite (s : State) (a : Nat) (b : List Byte) : State :=
  modHub s fun h => { h with bootFlash := (b.foldl (fun (q : SMap Byte × Nat) x => (mset 0xFF q.1 q.2 x, q.2 + 1)) (h.bootFlash, a)).1 }
/-- A directory copy. -/
def dirCopy (s : State) (i : Nat) : List Byte := bootRead s (i * 0x8000) 32768
/-- SEQ of a directory copy. -/
def dirSeq (b : List Byte) : Nat := fieldLe b 12 4
/-- Whether a directory copy is valid (R269). -/
def dirOk (b : List Byte) : Bool := b.take 8 == ascii "NRV960BD" && dirSeq b != 0xFFFFFFFF && fieldLe b 32764 4 == crc32 (b.take 32764)
/-- The copy in use: the valid one of the higher SEQ. -/
def dirUsed (s : State) : Option Nat :=
  let ok (i : Nat) : Bool := bootRead s (i * 0x8000) 8 == ascii "NRV960BD" && dirOk (dirCopy s i)
  match ok 0, ok 1 with
  | true, true => some (if dirSeq (dirCopy s 0) < dirSeq (dirCopy s 1) then 1 else 0)
  | true, false => some 0
  | false, true => some 1
  | false, false => none
/-- The first address of a bank (R268). -/
def bankBase (bank : Nat) : Nat := if bank = 0 then 0x10000 else 0x8000000
/-- The first address past a bank (R268): the reserved 1 MiB above bank 1 is never written. -/
def bankEnd (bank : Nat) : Nat := if bank = 0 then 0x8000000 else 0xFF00000
/-- The directory's entry of a type: offset and length in a bank. -/
def dirEntry (b : List Byte) (t bank : Nat) : Option (Nat × Nat) :=
  ((upTo (min 64 (fieldLe b 20 4))).find? (fun i => byteAt b (32 + 32 * i) == t)).map (fun i =>
    let o := 32 + 32 * i + 4 + 8 * bank
    (fieldLe b o 4, fieldLe b (o + 4) 4))
/-- The bytes of an image's copy in a bank. -/
def bankImage (s : State) (dir : List Byte) (t bank : Nat) : List Byte :=
  match dirEntry dir t bank with | some (off, len) => bootRead s (bankBase bank + off) len | none => []
/-- Whether a flash image is accepted by R266, but for its version pairs; a shell's frame stream lies inside its target (R265). -/
def flashImageOk (k : Keystone) (t : Nat) (b : List Byte) : Bool :=
  hdrOk t b && sigOk k b && (match plainOf k b with | some p => (t != 3 && t != 4) || Config.framesInside p t | none => false)
/-- A base image loaded (R269, R472): from the ACTIVE bank, else from the other with FALLBACK set; none where both fail; a pair that
fails in both banks is kept as reported. -/
def loadBase (s : State) (t : Nat) : Bool × State :=
  match dirUsed s with
  | none => (false, s)
  | some i =>
    let dir := dirCopy s i
    let act := byteAt dir 16 % 2
    let b0 := bankImage s dir t act
    let b1 := bankImage s dir t (1 - act)
    let p0 := if flashImageOk s.ks t b0 then checkPairs s b0 else (false, s)
    let put (s : State) (b : List Byte) : State := modHub s fun h => { h with running := mput h.running t b }
    if p0.1 then (true, put p0.2 b0)
    else
      let p1 := if flashImageOk s.ks t b1 then checkPairs s b1 else (false, s)
      if p1.1 then (true, setFlag (put p1.2 b1) (cfgB + 8) 29 true)
      else (false, if flashImageOk s.ks t b1 then p1.2 else p0.2)

end Sys2Proof.Machine
end

