-- ==== Sys2Proof/Machine/Num.lean ====
section
/-! DEFINITION. The number formats of 02: what an encoding means, exact arithmetic on values, and the one rounding
every conversion makes. Values are exact: a sign, a magnitude and a power of two. -/

namespace Sys2Proof.Machine

/-- A value of a floating-point format (02 R40, R48): ±mag × 2^exp, an infinity, or NaN. -/
inductive FVal where
  | fin (neg : Bool) (mag : Nat) (exp : Int)
  | inf (neg : Bool)
  | nan
  deriving DecidableEq, Repr

/-- The three sticky format flags (02 R57). -/
structure FlagSet where
  nv : Bool := false
  ovf : Bool := false
  unf : Bool := false
  deriving DecidableEq, Repr

/-- OR of two flag sets. -/
def flagOr (a b : FlagSet) : FlagSet := ⟨a.nv || b.nv, a.ovf || b.ovf, a.unf || b.unf⟩

/-- A floating-point format (02 R39): field widths, bias, the largest finite encoding and whether it has infinities. -/
structure FFmt where
  ebits : Nat
  mbits : Nat
  bias : Int
  maxBits : Nat
  hasInf : Bool
  canonNan : Nat
  deriving DecidableEq, Repr

/-- OCP E4M3 (R39). -/
def fE4M3 : FFmt := ⟨4, 3, 7, 0x7E, false, 0x7F⟩
/-- OCP E5M2 (R39). -/
def fE5M2 : FFmt := ⟨5, 2, 15, 0x7B, true, 0x7E⟩
/-- binary16 (R39). -/
def fFP16 : FFmt := ⟨5, 10, 15, 0x7BFF, true, 0x7E00⟩
/-- BF16 (R39). -/
def fBF16 : FFmt := ⟨8, 7, 127, 0x7F7F, true, 0x7FC0⟩
/-- binary32 (R39). -/
def fFP32 : FFmt := ⟨8, 23, 127, 0x7F7F_FFFF, true, 0x7FC0_0000⟩
/-- binary64, the format of a chunk path's total (04 R99). -/
def fFP64 : FFmt := ⟨11, 52, 1023, 0x7FEF_FFFF_FFFF_FFFF, true, 0x7FF8_0000_0000_0000⟩

/-- Bits of an encoding. -/
def FFmt.width (f : FFmt) : Nat := 1 + f.ebits + f.mbits
/-- The value of the sign bit of an encoding. -/
def FFmt.signBit (f : FFmt) (neg : Bool) : Nat := if neg then 2 ^ (f.ebits + f.mbits) else 0
/-- The encoding of +infinity in a format that has one. -/
def FFmt.infBits (f : FFmt) : Nat := (2 ^ f.ebits - 1) * 2 ^ f.mbits
/-- Exponent of the smallest normal. -/
def FFmt.emin (f : FFmt) : Int := 1 - f.bias

/-- What an encoding means (R39, R40). -/
def decodeF (f : FFmt) (w : Nat) : FVal :=
  let m := bitsOf w 0 f.mbits
  let e := bitsOf w f.mbits f.ebits
  let s := bitAt w (f.ebits + f.mbits)
  if e = 2 ^ f.ebits - 1 ∧ f.hasInf then (if m = 0 then .inf s else .nan)
  else if ¬ f.hasInf ∧ e = 2 ^ f.ebits - 1 ∧ m = 2 ^ f.mbits - 1 then .nan
  else if e = 0 then .fin s m (f.emin - f.mbits)
  else .fin s (2 ^ f.mbits + m) ((e : Int) - f.bias - f.mbits)

/-- Whether an encoding is subnormal (exponent field 0, mantissa not 0). -/
def isSubnormal (f : FFmt) (w : Nat) : Bool := bitsOf w f.mbits f.ebits == 0 && bitsOf w 0 f.mbits != 0

/-- The value of an operand of BF16 or FP32: a subnormal is replaced by a zero of its sign (R49). -/
def decodeFlush (f : FFmt) (w : Nat) : FVal :=
  if isSubnormal f w then .fin (bitAt w (f.ebits + f.mbits)) 0 0 else decodeF f w

/-- A dyadic number's integer multiple of 2^q, the remainder thrown away: (floor, remainder, shift). -/
def splitAt (m : Nat) (e q : Int) : Nat × Nat × Nat :=
  let sh := (q - e).toNat
  if q ≤ e then (m <<< (e - q).toNat, 0, 0) else (m >>> sh, m % 2 ^ sh, sh)

/-- The spacing exponent at m × 2^e, m > 0, in a format (R52, R53). -/
def spacing (f : FFmt) (m : Nat) (e : Int) : Int :=
  max ((Nat.log2 m : Int) + e) f.emin - f.mbits

/-- Nearest integer multiple, ties to even, from a floor, a remainder and its shift (00 R16). -/
def tieEven (lo rem sh : Nat) : Nat :=
  if sh = 0 then lo
  else if 2 * rem > 2 ^ sh then lo + 1
  else if 2 * rem = 2 ^ sh then lo + lo % 2
  else lo

/-- Stochastic choice of R53: `u` is 24 random bits, `t` the 24 bits below the last place. -/
def stochUp (lo rem sh u : Nat) : Nat :=
  if (rem <<< 24) >>> sh + u ≥ 2 ^ 24 then lo + 1 else lo

/-- How a conversion rounds: to nearest even, or stochastically with the 24 bits given (R50). -/
inductive Mode where
  | ne
  | stoch (u : Nat)
  deriving DecidableEq, Repr

/-- The chosen multiple of the spacing. -/
def pickLo (md : Mode) (lo rem sh : Nat) : Nat :=
  match md with
  | .ne => tieEven lo rem sh
  | .stoch u => stochUp lo rem sh u

/-- Magnitude bits, before any overflow rule, of m × 2^e rounded once in a format. -/
def roundMag (f : FFmt) (md : Mode) (m : Nat) (e : Int) : Nat :=
  if m = 0 then 0
  else
    let q := spacing f m e
    let s := splitAt m e q
    ((q - (f.emin - f.mbits)).toNat <<< f.mbits) + pickLo md s.1 s.2.1 s.2.2

/-- The result of a conversion: its bits and the flags it sets. -/
structure Conv where
  bits : Nat
  flags : FlagSet
  deriving DecidableEq, Repr

/-- A value rounded once to a floating-point format, with the overflow rule of R54, the zero rule of R55 and the flags of R57. A zero operand keeps
its sign (of an operand of VST or VCVT that is itself a zero: DESIGN CHOICE, note 148). -/
def convF (f : FFmt) (md : Mode) (sat : Bool) : FVal → Conv
  | .nan => ⟨f.canonNan, {}⟩
  | .inf s =>
    ⟨f.signBit s + (if f.hasInf then f.infBits else if sat then f.maxBits else 2 ^ (f.ebits + f.mbits) - 1), {}⟩
  | .fin s m e =>
    let b := roundMag f md m e
    if b > f.maxBits then
      ⟨f.signBit s + (if sat then f.maxBits else if f.hasInf then f.infBits else 2 ^ (f.ebits + f.mbits) - 1),
        { ovf := true }⟩
    else ⟨f.signBit s + b, { unf := decide (m ≠ 0 ∧ b = 0) }⟩

/-- A value converted to a `w`-bit two's-complement integer, clamped (R53, R54, R57). -/
def convI (w : Nat) (md : Mode) : FVal → Conv
  | .nan => ⟨0, { nv := true }⟩
  | .inf s => ⟨encodeInt w (if s then -(2 ^ (w - 1) : Nat) else (2 ^ (w - 1) : Nat) - 1), {}⟩
  | .fin s m e =>
    let sp := splitAt m e 0
    let n := pickLo md sp.1 sp.2.1 sp.2.2
    let lim := if s then 2 ^ (w - 1) else 2 ^ (w - 1) - 1
    let k := min n lim
    ⟨encodeInt w (if s then -(k : Int) else k), { ovf := decide (n > lim), unf := decide (m ≠ 0 ∧ n = 0) }⟩

/-- Multiplication by a power of two, exact (R50). -/
def scaleF (sh : Int) : FVal → FVal
  | .fin s m e => .fin s m (e + sh)
  | v => v

/-- Whether an output-format code is one of R50. -/
def ofmtOk (c : Nat) : Bool := c == 0 || c == 1 || c == 2 || c == 4 || c == 5 || c == 6 || c == 7

/-- Bytes of one element of an output format (R50). -/
def ofmtBytes (c : Nat) : Nat := if c ≤ 2 then 1 else if c ≤ 5 then 2 else 4

/-- The output conversion of R50 to R56. -/
def convOut (c : Nat) (shift : Int) (md : Mode) (sat : Bool) (v : FVal) : Conv :=
  let x := scaleF shift v
  match c with
  | 0 => convF fE4M3 md sat x
  | 1 => convF fE5M2 md sat x
  | 2 => convI 8 md x
  | 4 => convF fFP16 md sat x
  | 5 => convF fBF16 md sat x
  | 7 => convI 32 md x
  | _ => convF fFP32 md sat x

/-- The value of an output encoding, for VCVT's re-expansion (05 R141): INT8 and INT32 stay integers. -/
def floatOfOut (c bits : Nat) : FVal :=
  match c with
  | 0 => decodeF fE4M3 bits
  | 1 => decodeF fE5M2 bits
  | 4 => decodeF fFP16 bits
  | 5 => decodeF fBF16 bits
  | _ => decodeF fFP32 bits

/-- The value of an integer. -/
def fvalOfInt (i : Int) : FVal := .fin (decide (i < 0)) i.natAbs 0

/-- The integer multiple of 2^e a finite value is, for an `e` at most its exponent. -/
def toIntAt (e : Int) (s : Bool) (m : Nat) (x : Int) : Int :=
  let n := ((m <<< (x - e).toNat : Nat) : Int)
  if s then -n else n

/-- Exact sum, with the special states of R48 and the sign of an exact zero under ties-to-even; the flag is NV (DEDUCED, note 29). -/
def addV : FVal → FVal → FVal × Bool
  | .nan, _ => (.nan, false)
  | _, .nan => (.nan, false)
  | .inf a, .inf b => if a = b then (.inf a, false) else (.nan, true)
  | .inf a, .fin .. => (.inf a, false)
  | .fin .., .inf b => (.inf b, false)
  | .fin s m x, .fin t n y =>
    let e := min x y
    let i := toIntAt e s m x + toIntAt e t n y
    if i = 0 then (.fin (s && t) 0 0, false) else (.fin (decide (i < 0)) i.natAbs e, false)

/-- Exact product with the special states of R48; the flag is NV. -/
def mulV : FVal → FVal → FVal × Bool
  | .nan, _ => (.nan, false)
  | _, .nan => (.nan, false)
  | .inf a, .inf b => (.inf (a != b), false)
  | .inf a, .fin t n _ => if n = 0 then (.nan, true) else (.inf (a != t), false)
  | .fin s m _, .inf b => if m = 0 then (.nan, true) else (.inf (s != b), false)
  | .fin s m x, .fin t n y => (.fin (s != t) (m * n) (x + y), false)

/-- Negation. -/
def negV : FVal → FVal
  | .fin s m e => .fin (!s) m e
  | .inf s => .inf (!s)
  | .nan => .nan

/-- Magnitude. -/
def absV : FVal → FVal
  | .fin _ m e => .fin false m e
  | .inf _ => .inf false
  | .nan => .nan

/-- Whether a value is finite. -/
def isFin : FVal → Bool
  | .fin .. => true
  | _ => false

/-- Exact sum of a list of finite values as a signed multiple of a power of two. -/
def sumFin (l : List FVal) : FVal := l.foldl (fun a v => (addV a v).1) (.fin false 0 0)

/-- Exact comparison of two finite values, as integers at one scale; special values compare as 0. -/
def finInt (e : Int) : FVal → Int
  | .fin s m x => toIntAt e s m x
  | _ => 0

/-- The exponent of a value, 0 for a special one. -/
def expOf : FVal → Int
  | .fin _ _ x => x
  | _ => 0

/-- a < b for finite values. -/
def ltFin (a b : FVal) : Bool :=
  let e := min (expOf a) (expOf b)
  decide (finInt e a < finInt e b)

/-- a = b in value for finite values. -/
def eqFin (a b : FVal) : Bool :=
  let e := min (expOf a) (expOf b)
  decide (finInt e a = finInt e b)

/-- One `round_ne` to binary32 with the flags of 05 R135. -/
def round32 (v : FVal) : Conv := convF fFP32 .ne false v

/-- One `round_ne` to binary64. -/
def round64 (v : FVal) : FVal := decodeF fFP64 (convF fFP64 .ne false v).bits

/-- A binary32 encoding's value. -/
def val32 (w : W32) : FVal := decodeF fFP32 w.toNat

/-- A rounded binary32 operation: the result word and its flags, NV from the operation itself (05 R135). -/
def op32 (r : FVal × Bool) : W32 × FlagSet :=
  let c := round32 r.1
  (BitVec.ofNat 32 c.bits, flagOr c.flags { nv := r.2 })

/-! ## The functions of VFN (05 R140) and of the Fountain (07 R178)

An irrational value is enclosed between two multiples of 2^-256 and rounded where both ends round alike; where they
do not, the correctly rounded result is not decided here and is a free value. Safe: nothing is known of it. -/

/-- Fraction bits of the enclosures. -/
def fxP : Nat := 256
/-- Half the width of an enclosure, in units of 2^-256: far above the accumulated truncation of any series below. -/
def fxErr : Nat := 2 ^ 20
/-- floor(ln 2 × 2^256). -/
def fxLn2 : Nat := 80260960185991308862233904206310070533990667611589946606122867505419956976171
/-- floor(2 pi × 2^256). -/
def fxTwoPi : Nat := 727543153783532648560469885555459725306786754656784859917544302235877788932370

/-- Taylor series of e^y, y in units of 2^-256. -/
def expSeries : Nat → Nat → Nat → Nat → Nat
  | 0, _, _, _ => 0
  | n + 1, k, t, y => t + expSeries n (k + 1) ((t * y) >>> fxP / (k + 1)) y

/-- Series of atanh z, z in units of 2^-256. -/
def atanhSeries : Nat → Nat → Nat → Nat → Nat
  | 0, _, _, _ => 0
  | n + 1, k, t, z2 => t / (2 * k + 1) + atanhSeries n (k + 1) ((t * z2) >>> fxP) z2

/-- Series of cos, even and odd terms by sign, angle squared in units of 2^-256. -/
def cosSeries : Nat → Nat → Int → Nat → Int
  | 0, _, _, _ => 0
  | n + 1, k, t, a2 => t + cosSeries n (k + 1) (-((t * a2) / (2 ^ fxP : Nat) / ((2 * k + 1) * (2 * k + 2) : Nat))) a2

/-- binary32 rounding of a value enclosed by mid ± fxErr at 2^-256 × 2^e, free where the ends round apart (DESIGN CHOICE, note 23). -/
def roundEnc (fn arg : Nat) (mid : Int) (e : Int) : Conv :=
  let lo := convF fFP32 .ne false (match fvalOfInt (mid - fxErr) with | .fin s m _ => .fin s m (e - fxP) | v => v)
  let hi := convF fFP32 .ne false (match fvalOfInt (mid + fxErr) with | .fin s m _ => .fin s m (e - fxP) | v => v)
  if lo = hi then lo else ⟨(Config.undecidedRounding fn arg).toNat, {}⟩

/-- 2^x, correctly rounded to binary32 (R140). -/
def exp2V (arg : Nat) (x : FVal) : W32 × FlagSet :=
  match x with
  | .nan => (0x7FC00000#32, {})
  | .inf s => (if s then 0#32 else 0x7F800000#32, {})
  | .fin s m e =>
    let big : Bool := decide (m ≠ 0 ∧ (Nat.log2 m : Int) + e ≥ 8)
    let c : Conv :=
      if big then round32 (.fin false 1 (if s then -400 else 400))
      else
        let i := if e ≥ 0 then toIntAt 0 s m e else (toIntAt e s m e).fdiv (2 ^ (-e).toNat : Nat)
        let fr := if e ≥ 0 then 0 else ((toIntAt e s m e) - i * (2 ^ (-e).toNat : Nat)).toNat
        if fr = 0 then round32 (.fin false 1 i)
        else
          let y := ((fr <<< fxP) >>> (-e).toNat * fxLn2) >>> fxP
          roundEnc 0 arg (expSeries 64 0 (2 ^ fxP) y) i
    (BitVec.ofNat 32 c.bits, c.flags)

/-- log2 of mag × 2^e, mag > 0, as a multiple of 2^-256, with whether it is exact. -/
def log2Mid (m : Nat) (e : Int) : Int × Bool :=
  let n := Nat.log2 m
  if m = 2 ^ n then (((n : Int) + e) * (2 ^ fxP : Nat), true)
  else
    let z := ((m - 2 ^ n) <<< fxP) / (m + 2 ^ n)
    let s := 2 * atanhSeries 96 0 z ((z * z) >>> fxP)
    (((n : Int) + e) * (2 ^ fxP : Nat) + ((s <<< fxP) / fxLn2 : Nat), false)

/-- log2(x), correctly rounded to binary32 (R140). -/
def log2V (arg : Nat) (x : FVal) : W32 × FlagSet :=
  match x with
  | .nan => (0x7FC00000#32, {})
  | .inf s => if s then (0x7FC00000#32, { nv := true }) else (0x7F800000#32, {})
  | .fin s m e =>
    if m = 0 then (0xFF800000#32, {})
    else if s then (0x7FC00000#32, { nv := true })
    else
      let r := log2Mid m e
      let c := if r.2 then round32 (match fvalOfInt r.1 with | .fin t n _ => .fin t n (-fxP) | v => v)
               else roundEnc 1 arg r.1 0
      (BitVec.ofNat 32 c.bits, c.flags)

/-- A quotient a / b with a last bit set where it is not exact, so that one rounding of it is the rounding of the exact quotient. -/
def stickyDiv (a b : Nat) : Nat := 2 * (a / b) + (if a % b = 0 then 0 else 1)

/-- Integer square root by bits, highest first: greatest r with r^2 ≤ n, r below 2^k. -/
def isqrtBits : Nat → Nat → Nat → Nat
  | 0, _, r => r
  | k + 1, n, r => if (r + 2 ^ k) * (r + 2 ^ k) ≤ n then isqrtBits k n (r + 2 ^ k) else isqrtBits k n r

/-- A square root with a last bit set where it is not exact. -/
def stickySqrt (n : Nat) : Nat :=
  let r := isqrtBits (Nat.log2 n / 2 + 1) n 0
  2 * r + (if r * r = n then 0 else 1)

/-- 1/x, correctly rounded to binary32 (R140). -/
def rcpV (x : FVal) : W32 × FlagSet :=
  match x with
  | .nan => (0x7FC00000#32, {})
  | .inf s => (if s then 0x80000000#32 else 0#32, {})
  | .fin s m e =>
    if m = 0 then (if s then 0xFF800000#32 else 0x7F800000#32, {})
    else
      let k := Nat.log2 m + 60
      let c := round32 (.fin s (stickyDiv (2 ^ k) m) (-e - k - 1))
      (BitVec.ofNat 32 c.bits, c.flags)

/-- Square root of a non-negative finite value with sticky, as a value. -/
def sqrtFin (m : Nat) (e : Int) : FVal :=
  let m' := if e % 2 = 0 then m else 2 * m
  let e' := if e % 2 = 0 then e else e - 1
  .fin false (stickySqrt (m' <<< 120)) (e'.fdiv 2 - 60 - 1)

/-- √x, correctly rounded to binary32 (07 R178); a negative operand gives NaN and NV. -/
def sqrtV (x : FVal) : W32 × FlagSet :=
  match x with
  | .nan => (0x7FC00000#32, {})
  | .inf s => if s then (0x7FC00000#32, { nv := true }) else (0x7F800000#32, {})
  | .fin s m e =>
    if m = 0 then (if s then 0x80000000#32 else 0#32, {})
    else if s then (0x7FC00000#32, { nv := true })
    else
      let c := round32 (sqrtFin m e)
      (BitVec.ofNat 32 c.bits, c.flags)

/-- 1/√x, correctly rounded to binary32 (R140). -/
def rsqV (x : FVal) : W32 × FlagSet :=
  match x with
  | .nan => (0x7FC00000#32, {})
  | .inf s => if s then (0x7FC00000#32, { nv := true }) else (0#32, {})
  | .fin s m e =>
    if m = 0 then (if s then 0xFF800000#32 else 0x7F800000#32, {})
    else if s then (0x7FC00000#32, { nv := true })
    else
      let m' := if e % 2 = 0 then m else 2 * m
      let e' := if e % 2 = 0 then e else e - 1
      let k := Nat.log2 m' + 120
      let q := 2 ^ (2 * k) / m'
      let r := isqrtBits (Nat.log2 q / 2 + 1) q 0
      let c := round32 (.fin false (2 * r + (if r * r * m' = 2 ^ (2 * k) then 0 else 1)) (-(e'.fdiv 2) - k - 1))
      (BitVec.ofNat 32 c.bits, c.flags)

/-- cos(2 pi × j / 2^24), correctly rounded to binary32 (07 R178). -/
def cosTurn (j : Nat) : W32 × FlagSet :=
  let j := j % 2 ^ 24
  let c : Conv :=
    if j % 2 ^ 22 = 0 then
      round32 (match j / 2 ^ 22 with | 0 => .fin false 1 0 | 2 => .fin true 1 0 | _ => .fin false 0 0)
    else
      let a := if j > 2 ^ 23 then 2 ^ 24 - j else j
      let neg := decide (a > 2 ^ 22)
      let b := if neg then 2 ^ 23 - a else a
      let ang := (fxTwoPi * b) >>> 24
      let v := cosSeries 48 0 (2 ^ fxP : Nat) ((ang * ang) >>> fxP)
      roundEnc 2 j (if neg then -v else v) 0
  (BitVec.ofNat 32 c.bits, c.flags)

/-- The sign and bits of a binary32 word as a key whose unsigned order is the order of 05 R137. -/
def orderKey (w : W32) : Nat :=
  if w.msb then 2 ^ 31 - 1 - (w.toNat - 2 ^ 31) else 2 ^ 31 + w.toNat

/-- Whether a binary32 word is a NaN. -/
def isNan32 (w : W32) : Bool := decide (val32 w = .nan)

end Sys2Proof.Machine
end

