-- ==== Sys2Proof/Machine/Operands.lean ====
section
/-! DEFINITION. The operand forms: the fields of every sequencer word (03 R80, R81, R84; 05 R115, R116), of the
fetch-list entries (06 R153), the input formats (02 R41), the instruction shapes (03 R78) and the Fountain word (07 R172). -/

namespace Sys2Proof.Machine

/-- Bits [lo + len - 1 : lo] of the 56 bits below an opcode. -/
def wf (w : BitVec 56) (lo len : Nat) : Nat := bitsOf w.toNat lo len

/-! ## Register format (R115) -/

/-- Destination register field. -/
def fD (w : BitVec 56) : BitVec 5 := w.extractLsb' 51 5
/-- First source register field. -/
def fA (w : BitVec 56) : BitVec 5 := w.extractLsb' 46 5
/-- Second source register field. -/
def fB (w : BitVec 56) : BitVec 5 := w.extractLsb' 41 5
/-- Mask select field. -/
def fMsel (w : BitVec 56) : Nat := wf w 38 3
/-- Modifier field. -/
def fMod (w : BitVec 56) : Nat := wf w 32 6
/-- Immediate field. -/
def fImm (w : BitVec 56) : W32 := w.extractLsb' 0 32
/-- A register field naming a vector register must have bit 4 clear. -/
def vOk (r : BitVec 5) : Bool := decide (r.toNat < 16)
/-- The vector register a field names. -/
def vReg (r : BitVec 5) : BitVec 4 := r.extractLsb' 0 4
/-- The next register of a pair. -/
def vNext (r : BitVec 4) : BitVec 4 := r + 1

/-! IMM of loads, stores, conversions and Cistern reads (R115). -/

/-- The reserved bit of that IMM layout. -/
def iRsv (w : BitVec 56) : Bool := bitAt w.toNat 31
/-- IX: the scalar register holding the logical index of lane 0. -/
def iIx (w : BitVec 56) : BitVec 5 := w.extractLsb' 26 5
/-- SAT. -/
def iSat (w : BitVec 56) : Bool := bitAt w.toNat 25
/-- RND. -/
def iRnd (w : BitVec 56) : Bool := bitAt w.toNat 24
/-- SHIFT, signed. -/
def iShift (w : BitVec 56) : Int := signedOf 7 (wf w 17 7)
/-- FMT. -/
def iFmt (w : BitVec 56) : Nat := wf w 13 4
/-- OFFSET. -/
def iOff (w : BitVec 56) : Nat := wf w 0 13

/-! ## Input formats (R41) -/

/-- Whether an input-format code is defined. -/
def ifmtOk (c : Nat) : Bool := decide (c ≤ 6)
/-- Whether a format's products go to the exact path. -/
def fmtExact (c : Nat) : Bool := decide (c ≤ 4)
/-- PATH of a format's accumulators (R91): 0b01 exact, 0b10 BF16, 0b11 FP32. -/
def fmtPath (c : Nat) : BitVec 2 := if c ≤ 4 then 1 else if c = 5 then 2 else 3
/-- Bits of one input element: INT4W pairs INT4 weights with INT8 inputs (R42). -/
def inBits (c : Nat) : Nat := if c ≤ 3 then 8 else if c = 6 then 32 else 16
/-- Bits of one stored weight (R44). -/
def wBits (c : Nat) : Nat := if c = 3 then 4 else inBits c
/-- The value of an operand encoding (R40, R43, R44, R49). -/
def operandVal (c : Nat) (x : Nat) : FVal :=
  match c with
  | 0 => decodeF fE4M3 x
  | 1 => decodeF fE5M2 x
  | 2 => fvalOfInt (signedOf 8 x)
  | 3 => fvalOfInt (signedOf 8 x)
  | 4 => decodeF fFP16 x
  | 5 => decodeFlush fBF16 x
  | _ => decodeFlush fFP32 x
/-- The value of a stored weight: INT4 elements are sign-extended (R44). -/
def weightVal (c : Nat) (x : Nat) : FVal := if c = 3 then fvalOfInt (signedOf 4 x) else operandVal c x

/-- The BF16 parts of an FP32 operand (04 R100): hi, lo and whether lo is void. -/
structure Split32 where
  hi : FVal
  lo : FVal
  void : Bool
  deriving DecidableEq, Repr

/-- The split of R100, NaN handled before it, a subnormal operand flushed first (R49). -/
def split32 (x : Nat) : Split32 :=
  match decodeFlush fFP32 x with
  | .nan => ⟨.nan, .fin false 0 0, true⟩
  | .inf s => ⟨.inf s, .fin false 0 0, true⟩
  | .fin s m e =>
    let hib := (if m = 0 then fFP32.signBit s else x) >>> 16
    match decodeF fBF16 hib with
    | .fin hs hm he =>
      if hm = 0 then ⟨.fin hs 0 0, .fin false 0 0, true⟩
      else
        let d := (addV (.fin s m e) (negV (.fin hs hm he))).1
        let lb := (convF fBF16 .ne false d).bits
        ⟨.fin hs hm he, decodeFlush fBF16 lb, false⟩
    | v => ⟨v, .fin false 0 0, true⟩

/-! ## Shapes (R78) -/

/-- Whether a SHAPE code is defined. -/
def shapeOk (c : Nat) : Bool := decide (c ≤ 5) || (decide (8 ≤ c) && decide (c ≤ 11))
/-- Whether a shape is grouped. -/
def grouped (c : Nat) : Bool := decide (8 ≤ c)
/-- K: array rows in use. -/
def shapeK (c : Nat) : Nat := if c = 2 ∨ c = 3 then 32 else 64
/-- N: array columns in use. -/
def shapeN (c : Nat) : Nat :=
  match c with
  | 1 => 32
  | 3 => 32
  | 4 => 16
  | 5 => 8
  | _ => 64
/-- Group size B of a grouped shape. -/
def shapeB (c : Nat) : Nat := match c with | 8 => 8 | 9 => 4 | 10 => 2 | _ => 1
/-- E: weight elements the WLD loads. -/
def shapeE (c : Nat) : Nat := if grouped c then 64 * shapeB c else shapeK c * shapeN c
/-- Whether cell (k, n) lies in the shape. -/
def inShape (c k n : Nat) : Bool :=
  if grouped c then decide (k / shapeB c = n / shapeB c) && decide (k < 64) && decide (n < 64)
  else decide (k < shapeK c) && decide (n < shapeN c)
/-- Index in storage order of cell (k, n) of a block (R80). -/
def cellIdx (c k n : Nat) : Nat := if grouped c then k * shapeB c + n % shapeB c else k * shapeN c + n
/-- The rows, in increasing order, that feed output n of a normal read. -/
def rowsOf (c n : Nat) : List Nat := (List.range 64).filter (fun k => inShape c k n)
/-- The columns, in increasing order, that feed output k of a transposed read. -/
def colsOf (c k : Nat) : List Nat := (List.range 64).filter (fun n => inShape c k n)
/-- Input length of a read along an axis (R77). -/
def inLen (c : Nat) (axis : Bool) : Nat := if axis then shapeN c else shapeK c
/-- Output length of a read along an axis (R77). -/
def outLen (c : Nat) (axis : Bool) : Nat := if axis then shapeK c else shapeN c
/-- Bytes of one accumulator on a path (R81). -/
def accBytes (exact : Bool) : Nat := if exact then 16 else 8
/-- Cistern units of one row (R81, R105). -/
def rowUnits (len : Nat) (exact : Bool) : Nat := ceilDiv (len * accBytes exact) 512
/-- Array cycles per vector of an MX (R71). -/
def mxCycles (fmt : Nat) (axis : Bool) : Nat := if fmt ≤ 3 then 1 else if fmt = 6 then 12 else if axis then 4 else 2
/-- Pipeline latency of an MX (R71). -/
def mxLatency (fmt : Nat) : Nat := if fmt ≤ 3 then 4 else if fmt = 6 then 8 else 6
/-- Array cycles per row of an EW (R86). -/
def ewCycles (fmt : Nat) : Nat := if fmt = 6 then 8 else 1
/-- Pipeline latency of an EW (R86). -/
def ewLatency (fmt : Nat) : Nat := if fmt = 6 then 8 else 4

/-! ## The Fountain word (07 R172, R173) -/

/-- The mixing function of R172. -/
def fmix (x : W64) : W64 :=
  let x := x ^^^ (x >>> 32)
  let x := x * 0xA3B195D44F6C2E8B#64
  let x := x ^^^ (x >>> 29)
  let x := x * 0x9C5F0B27E1D34A65#64
  x ^^^ (x >>> 32)

/-- One step of the linear-feedback register of R172. -/
def lfsrStep (s : W64) : W64 :=
  let b := ((s >>> 63) ^^^ (s >>> 62) ^^^ (s >>> 60) ^^^ (s >>> 59)) &&& 1
  (s <<< 1) ||| b

/-- `n` steps of the register. -/
def lfsrSteps : Nat → W64 → W64
  | 0, s => s
  | n + 1, s => lfsrSteps n (lfsrStep s)

/-- The Fountain word of (seed, stream, index) (R172). -/
def fountainWord (seed : W64) (stream idx : Nat) : W64 :=
  let key : W64 := (BitVec.ofNat 64 (stream % 2 ^ 24) <<< 40) ||| BitVec.ofNat 64 (idx % 2 ^ 32)
  let s := fmix (fmix (seed ^^^ 0x6A1E83C72F59B40D#64) ^^^ key)
  lfsrSteps 64 (if s = 0 then 1 else s)

/-- Bits [63:40]: the 24 bits of stochastic rounding, masks, uniform tensors and inverse-CDF draws (R173). -/
def fountain24 (w : W64) : Nat := w.toNat >>> 40

/-- The rounding mode of a conversion with control RND at a logical index (R53, R176). -/
def rndMode (rnd : Bool) (seed : W64) (stream idx : Nat) : Mode :=
  if rnd then .stoch (fountain24 (fountainWord seed stream (idx % 2 ^ 32))) else .ne

/-! ## CRC-64 of kernels and results (09 R236) -/

/-- One bit of the CRC of R236. -/
def crcBits : Nat → W64 → W64
  | 0, c => c
  | n + 1, c => crcBits n (if c.msb then (c <<< 1) ^^^ 0x42F0E1EBA9EA3693#64 else c <<< 1)

/-- `crc64_update` of R236. -/
def crcByte (c : W64) (b : Byte) : W64 := crcBits 8 (c ^^^ (b.zeroExtend 64 <<< 56))

/-- The CRC continued over bytes. -/
def crcList (c : W64) (l : List Byte) : W64 := l.foldl crcByte c

end Sys2Proof.Machine
end

