-- ==== Sys2Proof/Machine/Flags.lean ====
section
/-! DEFINITION. Every flag and special-state computation of the array and the vector unit: the accumulator states of
02 R48, exact_add and saturation (04 R94, R102), the chunk sum and its overflow (R97, R98), the comparison orders of
05 R137 and the precedence of R138. -/

namespace Sys2Proof.Machine

/-- The special state of an accumulator: the STATE field of its tag (04 R91). -/
inductive AccState where
  | fin | pinf | ninf | nan
  deriving DecidableEq, Repr

/-- STATE as its two tag bits. -/
def stateBits : AccState → Nat
  | .fin => 0
  | .pinf => 1
  | .ninf => 2
  | .nan => 3

/-- STATE of two tag bits. -/
def stateOf (n : Nat) : AccState :=
  match n % 4 with
  | 0 => .fin
  | 1 => .pinf
  | 2 => .ninf
  | _ => .nan

/-- State of a value. -/
def stateOfV : FVal → AccState
  | .fin .. => .fin
  | .inf false => .pinf
  | .inf true => .ninf
  | .nan => .nan

/-- The states of R48 combined; the flag is NV (+Inf with -Inf). -/
def joinState : AccState → AccState → AccState × Bool
  | .nan, _ => (.nan, false)
  | _, .nan => (.nan, false)
  | .fin, b => (b, false)
  | a, .fin => (a, false)
  | .pinf, .ninf => (.nan, true)
  | .ninf, .pinf => (.nan, true)
  | a, _ => (a, false)

/-- One accumulator: a 128-bit word or a binary64 total in its low bits, its state and SATD (R91). -/
structure Acc where
  val : Int
  state : AccState
  satd : Bool
  deriving DecidableEq, Repr

/-- A contribution: an exact integer in units of 2^-48 with its state, and whether forming it raised NV (R48). -/
structure Contrib where
  x : Int
  state : AccState
  nv : Bool
  deriving DecidableEq, Repr

/-- Contribution of one product (R48). -/
def contribOf (p : FVal × Bool) : Contrib :=
  ⟨(match p.1 with | .fin s m e => toIntAt (-48) s m e | _ => 0), stateOfV p.1, p.2⟩

/-- Sum of two contributions. -/
def contribAdd (a b : Contrib) : Contrib :=
  let j := joinState a.state b.state
  ⟨a.x + b.x, j.1, a.nv || b.nv || j.2⟩

/-- The zero contribution. -/
def contribZero : Contrib := ⟨0, .fin, false⟩

/-- What an accumulation left: the accumulator, whether it saturated (the tile's SAT flag), NV. -/
structure AccRes where
  acc : Acc
  sat : Bool
  nv : Bool
  deriving DecidableEq, Repr

/-- An exact word clamped to its range (R94). -/
def clampWord (s : Int) : AccRes :=
  if s > 2 ^ 127 - 1 then ⟨⟨2 ^ 127 - 1, .fin, true⟩, true, false⟩
  else if s < -2 ^ 127 then ⟨⟨-2 ^ 127, .fin, true⟩, true, false⟩
  else ⟨⟨s, .fin, false⟩, false, false⟩

/-- `exact_add` (R94); with `zero` the contribution replaces the accumulator (R82). -/
def exactAdd (zero : Bool) (a : Acc) (c : Contrib) : AccRes :=
  if zero then
    match c.state with
    | .fin => let r := clampWord c.x; ⟨r.acc, r.sat, c.nv⟩
    | st => ⟨⟨0, st, false⟩, false, c.nv⟩
  else
    let j := joinState a.state c.state
    match j.1 with
    | .fin =>
      if a.satd then ⟨a, false, c.nv⟩
      else let r := clampWord (a.val + c.x); ⟨r.acc, r.sat, c.nv⟩
    | st => ⟨⟨0, st, a.satd⟩, false, c.nv || j.2⟩

/-- The result of a chunk: its value or state, whether it overflowed binary32, and the flags (R97, R98, R57). -/
structure ChunkRes where
  val : FVal
  satd : Bool
  nv : Bool
  unf : Bool
  deriving DecidableEq, Repr

/-- The exponent of a chunk: the largest floor(log2 |p|) (R97). -/
def chunkE (l : List FVal) : Option Int :=
  l.foldl (fun a v => match v with
    | .fin _ m e => if m = 0 then a else
        let p := (Nat.log2 m : Int) + e
        some (match a with | none => p | some q => max q p)
    | _ => a) none

/-- floor(p / 2^q) and whether it is inexact. -/
def floorAt (q : Int) : FVal → Int × Bool
  | .fin s m e =>
    let sp := splitAt m e q
    let lo : Int := (sp.1 : Int)
    if s then (if sp.2.1 = 0 then (-lo, false) else (-lo - 1, true)) else (lo, decide (sp.2.1 ≠ 0))
  | _ => (0, false)

/-- `chunk_sum` of R97 on finite products: binary32 bits and whether round_ne overflowed or a non-zero sum became zero (DEDUCED, note 16). -/
def chunkSum (l : List FVal) : FVal × Bool × Bool :=
  match chunkE l with
  | none => (.fin false 0 0, false, false)
  | some e =>
    let q := e - 40
    let ks := l.map (floorAt q)
    let s := ks.foldl (fun a k => a + k.1) (0 : Int)
    let sticky := ks.any (fun k => k.2)
    if s = 0 then (.fin false 0 0, false, false)
    else
      let neg := decide (s < 0)
      let m := s.natAbs
      let c := convF fFP32 .ne false (.fin neg m q)
      if c.flags.ovf then (.inf neg, true, false)
      else
        let sp := splitAt m q (spacing fFP32 m q)
        let mid := decide (sp.2.2 > 0 ∧ 2 * sp.2.1 = 2 ^ sp.2.2)
        let n := if neg then sp.1 else sp.1 + 1
        if sticky && mid then (.fin neg n (spacing fFP32 m q), false, decide (n = 0))
        else (decodeF fFP32 c.bits, false, c.flags.unf)

/-- A chunk with the special states of its products (R98), which enter in rising index (for NV: DESIGN CHOICE, note 133). -/
def chunkOf (ps : List (FVal × Bool)) : ChunkRes :=
  let st := ps.foldl (fun a p => let j := joinState a.1 (stateOfV p.1); (j.1, a.2 || j.2 || p.2)) (AccState.fin, false)
  match st.1 with
  | .fin => let r := chunkSum (ps.map (fun p => p.1)); ⟨r.1, r.2.1, st.2, r.2.2⟩
  | .pinf => ⟨.inf false, false, st.2, false⟩
  | .ninf => ⟨.inf true, false, st.2, false⟩
  | .nan => ⟨.nan, false, st.2, false⟩

/-- The value of a total: binary64 bits, or its special state (R92, R99). -/
def totalVal (a : Acc) : FVal :=
  match a.state with
  | .fin => decodeF fFP64 (encodeInt 64 a.val)
  | .pinf => .inf false
  | .ninf => .inf true
  | .nan => .nan

/-- A total holding a value; the bits are 0 where it is not finite (R92). -/
def totalAcc (v : FVal) (satd : Bool) : Acc :=
  match v with
  | .fin .. => ⟨((convF fFP64 .ne false v).bits : Int), .fin, satd⟩
  | v => ⟨0, stateOfV v, satd⟩

/-- A value entering a total with one round_ne to binary64, or replacing it (R99); the flag is NV. -/
def totalAdd (zero : Bool) (a : Acc) (v : FVal) (satd : Bool) : Acc × Bool :=
  if zero then (totalAcc v satd, false)
  else
    let r := addV (totalVal a) v
    (totalAcc r.1 (a.satd || satd), r.2)

/-- The value of an exact word, for conversion (R93, R51). -/
def wordVal (a : Acc) : FVal :=
  match a.state with
  | .fin => .fin (decide (a.val < 0)) a.val.natAbs (-48)
  | .pinf => .inf false
  | .ninf => .inf true
  | .nan => .nan

/-! ## Order of R137 and precedence of R138 -/

/-- Signed INT32 order. -/
def ltI32 (a b : W32) : Bool := decide (a.toInt < b.toInt)

/-- Strictly less in the order of R137: float, or signed INT32 with MOD[3]. NaN is not ordered here. -/
def ltLane (int : Bool) (a b : W32) : Bool := if int then ltI32 a b else decide (orderKey a < orderKey b)

/-- Whether candidate (v, i) precedes (w, j) for VMAXI (`mx`) or VMINI (R138). -/
def precedes (int mx : Bool) (v i w j : W32) : Bool :=
  let nv := !int && isNan32 v
  let nw := !int && isNan32 w
  if nv && nw then decide (i.toNat < j.toNat)
  else if nv then true
  else if nw then false
  else if (if mx then ltLane int w v else ltLane int v w) then true
  else if (if mx then ltLane int v w else ltLane int w v) then false
  else decide (i.toNat < j.toNat)

/-- The value stored by a search: a NaN becomes canonical in floating-point mode (R138). -/
def canonLane (int : Bool) (v : W32) : W32 := if !int && isNan32 v then 0x7FC00000#32 else v

/-- The six relations of VCMP (R137): IEEE for floating point, signed for INT32. -/
def cmpLane (int : Bool) (rel : Nat) (a b : W32) : Bool :=
  let nan := !int && (isNan32 a || isNan32 b)
  let lt := if int then ltI32 a b else ltFinOrInf a b
  let gt := if int then ltI32 b a else ltFinOrInf b a
  if nan then decide (rel = 1)
  else match rel with
    | 0 => !lt && !gt
    | 1 => lt || gt
    | 2 => lt
    | 3 => !gt
    | 4 => gt
    | _ => !lt
where
  /-- Order of two non-NaN words in which -0 equals +0. -/
  ltFinOrInf (a b : W32) : Bool :=
    if (a &&& 0x7FFFFFFF#32) = 0 ∧ (b &&& 0x7FFFFFFF#32) = 0 then false else decide (orderKey a < orderKey b)

end Sys2Proof.Machine
end

