-- ==== Sys2Proof/Machine/Seq.lean ====
section
/-! DEFINITION. The issue stage of a tile sequencer (05 R113 to R131): slots and landing results, the program counter
with delay slots and repeats, requests and acceptance points, and the shape every issued word shares. -/

namespace Sys2Proof.Machine

/-- Why a word is held at the issue stage: the three counted waits of 03 R90, or another hold of 05 R118. -/
inductive HoldWhy where
  | acc | shadow | opnd | other
  deriving DecidableEq, Repr

/-- What a tile's issue stage sees of the rest of the die: the reach of its partition's addresses (06 R151, R152), the
express doorway line (14 R339), whether plane 2 accepts a request for a range of lines (12 R289), whether the plane 0
express port holds a credit (05 R146), whether the lock-step buffer of its pair is full (09 R237), and the time in ns. -/
structure TileEnv where
  bankLines : Nat
  basinLines : Nat
  doorway : Option Nat
  plane2 : Nat → Nat → Bool
  express : Bool
  lockFull : Bool
  now : Nat

/-- What the issue stage does with a word: hold it (nothing takes effect), fault (R132), end the operation with an
address refused under R152, issue it, or issue it and send one express line (R146). -/
inductive Issue where
  | hold (why : HoldWhy)
  | fault (cause : Nat)
  | refuse (addr : Nat)
  | ok (t : Tile)
  | express (t : Tile) (line : Line)
  deriving DecidableEq, Repr

/-! ## Registers -/

/-- Scalar register read: S0 reads 0 (R113). -/
def rdS (t : Tile) (r : BitVec 5) : W32 := if r = 0 then 0 else t.seq.sreg.get r.toFin

/-- Vector register read. -/
def rdV (t : Tile) (r : BitVec 4) : Lanes := t.seq.vreg.get r.toFin

/-- Mask register read. -/
def rdM (t : Tile) (r : BitVec 2) : W64 := t.seq.mreg.get r.toFin

/-- The lanes MSEL enables (R115). -/
def laneMask (t : Tile) (msel : Nat) : W64 := if msel = 0 then -1 else rdM t (BitVec.ofNat 2 (msel - 1))

/-- One landing write (R113, R120): S0 discards, a masked write changes only the enabled lanes. -/
def landDest (q : Seq) : Dest → Seq
  | .s r v => if r = 0 then q else { q with sreg := q.sreg.set r.toNat v r.isLt }
  | .v r en x =>
    let old := q.vreg.get r.toFin
    let new : Lanes := Vector.ofFn fun l => if en.getLsbD l then x.get l else old.get l
    { q with vreg := q.vreg.set r.toNat new r.isLt }
  | .m r en x =>
    { q with mreg := q.mreg.set r.toNat ((x &&& en) ||| (q.mreg.get r.toFin &&& ~~~en)) r.isLt }

/-- All results whose slot has come land, in the order they were issued (R119, R120). -/
def landDue (q : Seq) : Seq :=
  let due := q.inflight.filter (fun f => decide (f.due ≤ q.slot))
  let q' := due.foldl (fun a f => f.dests.foldl landDest a) q
  { q' with inflight := q.inflight.filter (fun f => decide (q.slot < f.due)) }

/-- A result with latency `lat` of the instruction issuing in this slot (R119). -/
def later (t : Tile) (lat : Nat) (ds : List Dest) : Tile :=
  { t with seq := { t.seq with inflight := t.seq.inflight ++ [⟨t.seq.slot + lat, ds⟩] } }

/-- Format flags ORed into the running part (02 R57). -/
def addFlags (t : Tile) (f : FlagSet) : Tile :=
  { t with nv := t.nv || f.nv, ovf := t.ovf || f.ovf, unf := t.unf || f.unf }

/-! ## Program counter -/

/-- Whether a request waits for an acceptance point. -/
def reqPending (q : Seq) : Bool := q.reqs.stop || q.reqs.save || q.reqs.test || !q.reqs.launches.isEmpty

/-- The most cycles a request waits (R128, R129). -/
def waitMax : Nat := 8192
/-- One issue-stage cycle in which a pending request has waited (R129, SEQ_HOLD): a request that has waited 8,192 cycles in a repeat finds an
acceptance point at the next (R128) (DESIGN CHOICE, note 9). -/
def waitTick (q : Seq) : Seq :=
  if reqPending q then { q with waited := q.waited + 1, repHeld := q.repHeld || (q.lact && decide (waitMax ≤ q.waited + 1)) } else q

/-- The word after this one, remembering a run past word 4,095 (R132, cause 0x0F) (DEDUCED, note 15). -/
def pcNext (q : Seq) : Seq := { q with pc := q.pc + 1, pcOver := q.pcOver || decide (q.pc = 0xFFF#12) }

/-- After a word other than BR and REP has issued (R122, R124): a closing delay window goes to its target or on; the
back edge of a repeat; otherwise the next word. The slot ends. -/
def advance (q : Seq) : Seq :=
  let q1 :=
    if q.delay = 1 then
      match q.brTarget with
      | some tgt => { q with pc := tgt, pcOver := false, delay := 0, brTarget := none }
      | none => { pcNext q with delay := 0 }
    else if 1 < q.delay then { pcNext q with delay := q.delay - 1 }
    else if q.lact ∧ q.pc = q.lend then
      if 1 < q.lcnt then { q with pc := q.lstart, lcnt := q.lcnt - 1 }
      else { pcNext q with lcnt := 0, lact := false, repHeld := false }
    else pcNext q
  waitTick { q1 with slot := q1.slot + 1 }

/-- A word issued: the program counter and the slot move on. -/
def issued (t : Tile) : Issue := .ok { t with seq := { advance t.seq with status := .run } }

/-- Results of instructions issued before complete (R132): every one lands, in the order of its slot. -/
def drainFuel : Nat → Seq → Seq
  | 0, q => q
  | n + 1, q => let q1 := landDue q; drainFuel n { q1 with slot := q1.slot + 1 }

/-- All results land; no latency of R117 exceeds 8 slots. -/
def drainAll (q : Seq) : Seq := drainFuel 9 q

/-! ## Requests (R127 to R131) -/

/-- Whether a request may be accepted now (R127, R128). -/
def acceptable (q : Seq) : Bool :=
  match q.status with
  | .idle => true
  | .wlch => true
  | .fault => true
  | .run => decide (q.delay = 0) && (!q.lact || q.repHeld)
  | .held => decide (q.delay = 0) && (!q.lact || q.repHeld)
  | _ => false

/-- Whether the tile is running a program. -/
def isRunning (q : Seq) : Bool := q.status == .run || q.status == .held

/-- Whether a tile is being saved, restored or tested: a LAUNCH that comes then sets EVP at once (R130). -/
def awayFromProgram (q : Seq) : Bool := q.status == .saving || q.status == .restoring || q.status == .test

/-- A launch is taken (R130, R131; 15 R378): a kernel's first instruction waits for it; a waiting WLCH is released and the next word issues at or after the launch time; else
EVP is set with the time, and a launch already pending merges and sets LOVR. -/
def takeLaunch (q : Seq) (time : Nat) : Seq :=
  if q.awaits && !awayFromProgram q then { q with awaits := false, notBefore := time }
  else if q.status = .wlch then { advance q with status := .run, notBefore := time }
  else { q with evp := true, launchTime := time, lovr := q.lovr || q.evp }

/-- A tile back at its program whose first instruction still waits for a launch takes the one that came meanwhile (R130; 15 R378). -/
def settleAwait (q : Seq) : Seq :=
  if q.awaits && q.evp then { q with awaits := false, evp := false, notBefore := q.launchTime, launchTime := 0 } else q

/-- A request is accepted: the longest wait is kept, which R129 bounds (SEQ_HOLD.MAXWAIT). -/
def accepted (q : Seq) : Seq := { q with maxWait := max q.maxWait (min waitMax q.waited), waited := 0 }

/-- STOP at an acceptance point (R127, R130): the tile issues nothing more and becomes idle; a SAVE pending with it and
a LAUNCH of the stopped operation are discarded, EVP is cleared; a TEST pending with it is handled without a save. -/
def takeStop (t : Tile) : Tile :=
  let q := drainAll t.seq
  { t with
      seq := { accepted q with
        status := (if q.reqs.test then .test else .idle), evp := false, notBefore := 0,
        lact := false, lcnt := 0, repHeld := false, delay := 0, brTarget := none, reqs := {} },
      fetch := { t.fetch with running := false, pending := [], mark := none },
      ended := true }

/-- SAVE (or a TEST to a tile running a kernel) at an acceptance point (R107, R130): nothing further issues. -/
def takeSave (t : Tile) : Tile :=
  { t with seq := { accepted t.seq with status := .saving, before := t.seq.status, reqs := { t.seq.reqs with save := false } } }

/-- The LAUNCHes that wait are taken in the order they came. -/
def takeLaunches (t : Tile) : Tile :=
  { t with seq := t.seq.reqs.launches.foldl takeLaunch { t.seq with reqs := { t.seq.reqs with launches := [] } } }

/-- TEST at an acceptance point: a tile running a kernel is first saved, into the area its last SAVE named (line 0 where there was none: the
spec names none, note 130); an idle one passes to the test engine (R130). -/
def takeTest (t : Tile) : Tile :=
  match t.seq.status with
  | .idle => { t with seq := { accepted t.seq with status := .test, reqs := { t.seq.reqs with test := false } } }
  | .fault => { t with seq := { accepted t.seq with status := .test, reqs := { t.seq.reqs with test := false } } }
  | _ => { t with seq := { accepted t.seq with status := .saving, before := t.seq.status } }

/-- Pending requests at an acceptance point, STOP first, then SAVE, then TEST, then LAUNCH (R130); a LAUNCH to a tile that is being
saved, restored or tested waits for none. -/
def acceptReqs (t : Tile) : Tile :=
  if awayFromProgram t.seq then takeLaunches t
  else if !acceptable t.seq then t
  else if t.seq.reqs.stop then takeStop t
  else if t.seq.reqs.save then takeLaunches (takeSave t)
  else if t.seq.reqs.test then takeLaunches (takeTest t)
  else if t.seq.reqs.launches.isEmpty then t
  else takeLaunches { t with seq := accepted t.seq }

/-! ## The issue stage -/

/-- The fault state (R132): the word does not issue, SEQ_FAULT records the cause and the PC, results land. -/
def enterFault (t : Tile) (cause : Nat) : Tile :=
  { t with
    seq := { drainAll t.seq with
      status := .fault, faultValid := true, faultCause := BitVec.ofNat 8 cause, faultPc := t.seq.pc } }

/-- A held cycle (R118): nothing of the word takes effect; the array waits of 03 R90 count, saturating; a pending
request's wait grows (R150). -/
def heldCycle (t : Tile) (why : HoldWhy) : Tile :=
  let sat (n : Nat) : Nat := min (n + 1) 0xFFFFFFFF
  let mem := match why with
    | .acc => { t.mem with waitAcc := sat t.mem.waitAcc }
    | .shadow => { t.mem with waitShadow := sat t.mem.waitShadow }
    | .opnd => { t.mem with waitOpnd := sat t.mem.waitOpnd }
    | .other => t.mem
  { t with seq := { waitTick t.seq with status := .held }, mem := mem }

/-- Whether an opcode is one of R117. -/
def opcodeOk (o : Nat) : Bool :=
  decide (o ≤ 0x0C) || o == 0x20 || (decide (0x22 ≤ o) && decide (o ≤ 0x24)) || (decide (0x30 ≤ o) && decide (o ≤ 0x34))
    || (decide (0x40 ≤ o) && decide (o ≤ 0x42)) || (decide (0x60 ≤ o) && decide (o ≤ 0x78))

/-- Whether a word may stand in a delay slot (R117). -/
def delaySlotOk (o : Nat) : Bool := decide (o ≤ 0x0C) || (decide (0x60 ≤ o) && decide (o ≤ 0x76))

/-- Whether a word may stand in a repeat body (R117, R126). -/
def repeatBodyOk (o : Nat) : Bool := o != 0x20 && !(decide (0x22 ≤ o) && decide (o ≤ 0x24))

/-- The word at the program counter. -/
def imemAt (q : Seq) (pc : BitVec 12) : W64 := mget 0 q.imem pc.toNat

/-- What the issue stage makes of a command's word (R113, R117, R118, R123): only the word at PC issues; a reserved
opcode there raises 0x01; a PC past the last word raises 0x0F; a word not allowed in a delay slot raises 0x0B; before a launch
time nothing issues (R131) (DESIGN CHOICE, note 10). -/
def stage (now : Nat) (opc : BitVec 8) (w : BitVec 56) (f : Tile → Issue) (t : Tile) : Option Issue :=
  let q := t.seq
  if !isRunning q then none
  else if q.awaits ∨ now < q.notBefore then some (.hold .other)
  else if q.pcOver then some (.fault 0x0F)
  else
    let here := imemAt q q.pc
    if !opcodeOk (here >>> 56).toNat then some (if 0 < q.delay then .fault 0x0B else .fault 0x01)
    else if here ≠ opc ++ w then none
    else if 0 < q.delay ∧ !delaySlotOk opc.toNat then some (.fault 0x0B)
    else some (f { t with seq := landDue q })

/-! ## Lanes -/

/-- A per-lane floating-point result with the flags of the enabled lanes (R115, R135). -/
def laneOp (en : W64) (f : Fin 64 → W32 × FlagSet) : Lanes × FlagSet :=
  (Vector.ofFn fun l => (f l).1,
   (List.finRange 64).foldl (fun a (l : Fin 64) => if en.getLsbD l.val then flagOr a (f l).2 else a) {})

/-- A vector result with latency `lat` into D under the mask, its flags into the part. -/
def finishV (t : Tile) (lat : Nat) (d : BitVec 4) (en : W64) (r : Lanes × FlagSet) : Issue :=
  issued (addFlags (later t lat [.v d en r.1]) r.2)

/-- Checks every scalar instruction shares: MSEL 0 and the defined MOD bits (R115, R117). -/
def scalarOk (w : BitVec 56) (modMask : Nat) : Bool := fMsel w == 0 && (fMod w &&& modMask) == fMod w

/-- Checks every vector instruction shares: MSEL 0 to 4 and the defined MOD bits (R115, R117). -/
def vectorOk (w : BitVec 56) (modMask : Nat) : Bool := decide (fMsel w ≤ 4) && (fMod w &&& modMask) == fMod w

end Sys2Proof.Machine
end

