-- ==== Sys2Proof/Machine/Cistern.lean ====
section
/-! DEFINITION. The Cistern (04): accumulators as they are stored, unit descriptors, allocations, the operand buffer's
lines and ring uses, and the words ALLOC, FREE, WB, CRD, CWR, VLD and VST (05 R116, R141 to R146). -/

namespace Sys2Proof.Machine

/-! ## Accumulators as stored (R91, R106) -/

/-- The tag of an accumulator. -/
def tagOf (a : Acc) : BitVec 4 := BitVec.ofNat 4 (stateBits a.state * 4 + b2n a.satd * 2)

/-- Exact word i of unit u: two 8-byte slots, its tag beside the even one. -/
def rdWord (m : TileMem) (u i : Nat) : Acc :=
  let s := 64 * u + 2 * i
  let tg := mget 0 m.ctag s
  ⟨((mget 0 m.cist (s + 1)) ++ (mget 0 m.cist s)).toInt, stateOf (tg.toNat / 4), tg.getLsbD 1⟩

/-- Total i of unit u: one 8-byte slot and its tag. -/
def rdTotal (m : TileMem) (u i : Nat) : Acc :=
  let s := 64 * u + i
  let tg := mget 0 m.ctag s
  ⟨((mget 0 m.cist s).toNat : Int), stateOf (tg.toNat / 4), tg.getLsbD 1⟩

/-- Exact word i of unit u written. -/
def wrWord (m : TileMem) (u i : Nat) (a : Acc) : TileMem :=
  let s := 64 * u + 2 * i
  let v : BitVec 128 := BitVec.ofInt 128 a.val
  { m with
    cist := mset 0 (mset 0 m.cist s (v.extractLsb' 0 64)) (s + 1) (v.extractLsb' 64 64)
    ctag := mset 0 (mset 0 m.ctag s (tagOf a)) (s + 1) 0 }

/-- Total i of unit u written. -/
def wrTotal (m : TileMem) (u i : Nat) (a : Acc) : TileMem :=
  let s := 64 * u + i
  { m with cist := mset 0 m.cist s (BitVec.ofInt 64 a.val), ctag := mset 0 m.ctag s (tagOf a) }

/-- Accumulator i of the row that starts at unit u, on a path. -/
def rdAcc (m : TileMem) (exact : Bool) (u i : Nat) : Acc :=
  if exact then rdWord m (u + i / 32) (i % 32) else rdTotal m (u + i / 64) (i % 64)

/-- Accumulator i of the row that starts at unit u written. -/
def wrAcc (m : TileMem) (exact : Bool) (u i : Nat) (a : Acc) : TileMem :=
  if exact then wrWord m (u + i / 32) (i % 32) a else wrTotal m (u + i / 64) (i % 64) a

/-- The descriptor of a unit. -/
def descOf (m : TileMem) (u : Nat) : UnitDesc := mget {} m.cdesc u

/-- The descriptors of a range of units changed. -/
def setDescs (m : TileMem) (first count : Nat) (f : UnitDesc → UnitDesc) : TileMem :=
  (List.range count).foldl
    (fun a i => { a with cdesc := mset {} a.cdesc (first + i) (f (descOf a (first + i))) }) m

/-- Value of an accumulator for conversion (02 R51). -/
def accVal (exact : Bool) (a : Acc) : FVal := if exact then wordVal a else totalVal a

/-! ## Allocations (R104) -/

/-- Whether two ranges of units share a unit. -/
def overlap (f1 c1 f2 c2 : Nat) : Bool := decide (f1 < f2 + c2) && decide (f2 < f1 + c1)

/-- Whether every unit of a range lies in an allocation a test accepts. -/
def coveredBy (p : Alloc → Bool) (m : TileMem) (first count : Nat) : Bool :=
  (List.range count).all fun i => m.allocs.any fun a => p a && overlap a.first a.count (first + i) 1

/-- Whether some pending allocation covers part of a range (R67, R70). -/
def pendingOver (m : TileMem) (first count : Nat) : Bool :=
  m.allocs.any fun a => !a.grant && overlap a.first a.count first count

/-- Whether a write-back still reads a unit of a range (R104, R145). -/
def readingOver (m : TileMem) (first count : Nat) : Bool :=
  m.wbs.any fun b => b.cist && b.reading && overlap b.first b.count first count

/-- Whether an issued array write into a range has not landed (R72). -/
def arrayOver (m : TileMem) (first count : Nat) : Bool :=
  m.array.any fun a => overlap a.acc a.units first count

/-- Whether a range could be granted now: no unit in a granted allocation, none being read (R104). -/
def grantable (m : TileMem) (first count : Nat) : Bool :=
  !(m.allocs.any fun a => a.grant && overlap a.first a.count first count) && !readingOver m first count

/-- Newly granted units have PATH 0b00 and HWMV 0 (R104). -/
def freshUnits (m : TileMem) (first count : Nat) : TileMem := setDescs m first count fun _ => {}

/-- The oldest pending allocation granted where R104 allows: later requests never before earlier ones. -/
def grantNext (m : TileMem) : TileMem :=
  match m.allocs.find? (fun a => !a.grant) with
  | none => m
  | some a =>
    if grantable m a.first a.count then
      freshUnits { m with allocs := updFirst (fun b => !b.grant) (fun b => { b with grant := true }) m.allocs }
        a.first a.count
    else m

/-- Whether a unit is the first of an allocation. -/
def allocAt (m : TileMem) (first : Nat) : Bool := m.allocs.any fun a => a.first == first

/-- The allocation that starts at a unit removed. -/
def freeAt (m : TileMem) (first : Nat) : TileMem := { m with allocs := delFirst (fun a => a.first == first) m.allocs }

/-- ALLOC (R116, R104, R144): a request, granted at once where nothing earlier is pending and the range is free. -/
def issueAlloc (w : BitVec 56) (t : Tile) : Issue :=
  let first := wf w 47 9
  let count := wf w 38 9 + 1
  if wf w 0 38 ≠ 0 then .fault 0x01
  else if 16 ≤ t.mem.allocs.length ∨ 512 < first + count then .fault 0x0A
  else issued { t with mem := grantNext { t.mem with allocs := t.mem.allocs ++ [⟨false, first, count⟩] } }

/-- The range of the allocation that starts at a unit. -/
def allocRange (m : TileMem) (first : Nat) : Nat :=
  match m.allocs.find? (fun a => a.first == first) with
  | some a => a.count
  | none => 0

/-- FREE (R116, R104): waits for earlier writes to the range. R104 speaks of the release of a granted allocation; a FREE of one that is still
pending withdraws its request (DESIGN CHOICE, note 132). -/
def issueFree (w : BitVec 56) (t : Tile) : Issue :=
  let first := wf w 47 9
  if wf w 0 38 ≠ 0 ∨ wf w 38 9 ≠ 0 then .fault 0x01
  else if !allocAt t.mem first then .fault 0x0A
  else if arrayOver t.mem first (allocRange t.mem first) then .hold .other
  else issued { t with mem := freeAt t.mem first }

/-! ## Operand-buffer lines -/

/-- Whether every line of a range is valid (03 R67, R68). -/
def linesValid (m : TileMem) (first count : Nat) : Bool :=
  (List.range count).all fun i => mget false m.valid (first + i)

/-- Element i of `bits` bits of the data that starts at a line (02 R44 for nibbles). -/
def bufElem (m : TileMem) (first bits i : Nat) : Nat :=
  bitsOf (mget 0 m.obuf (first + i * bits / 512)).toNat (i * bits % 512) bits

/-- A line written and valid (05 R121). -/
def wrLine (m : TileMem) (l : Nat) (x : Line) : TileMem :=
  { m with obuf := mset 0 m.obuf l x, valid := mset false m.valid l true }

/-- Lines made invalid (06 R155). -/
def invalidate (m : TileMem) (first count : Nat) : TileMem :=
  { m with valid := (List.range count).foldl (fun a i => mset false a (first + i) false) m.valid }

/-- Whether an array operation is still broadcasting, so that it holds its lines and the array (03 R67, R68, R71) (DEDUCED, note 19). -/
def broadcasting (a : ArrayOp) : Bool := decide (a.tail < a.rows - a.done)

/-- Whether an issued array instruction holds a line of a range (03 R68). -/
def linesHeld (m : TileMem) (first count : Nat) : Bool :=
  (m.array.any fun a => broadcasting a && a.lines.any fun r => overlap r.1 r.2 first count) ||
  (match m.loadLines with | some r => overlap r.1 r.2 first count | none => false)

/-- An express line that has come (03 R69): written at once, or kept until the instruction that holds its line has read it. -/
def expressLine (m : TileMem) (l : Nat) (x : Line) : TileMem :=
  if linesHeld m l 1 then { m with xpWait := m.xpWait ++ [(l, x)] } else wrLine m l x
/-- The express lines that wait for no instruction any more are written, in the order they came. -/
def settleExpress (m : TileMem) : TileMem :=
  m.xpWait.foldl (fun a e => expressLine a e.1 e.2) { m with xpWait := [] }

/-- A slot's use counted, and its release at the last one (06 R157). -/
def useSlot (s : RingSlot) : RingSlot :=
  if s.released then s else { s with uses := s.uses - 1, released := decide (s.uses ≤ 1) }

/-- One use of each slot of each ring that an instruction's lines touch (06 R157). -/
def useRanges (f : Fetcher) (rs : List (Nat × Nat)) : Fetcher :=
  { f with rings := f.rings.map fun (k, r) =>
      (k, { r with live := r.live.map fun (i, s) =>
        (i, if rs.any (fun x => overlap (r.first + i * r.slotLines) r.slotLines x.1 x.2) then useSlot s else s) }) }

/-- One use of each slot that a range of lines touches. -/
def useLines (f : Fetcher) (first count : Nat) : Fetcher := useRanges f [(first, count)]

/-- VLD (05 R141) (DEDUCED, note 11). -/
def issueVld (w : BitVec 56) (t : Tile) : Issue :=
  let fmt := iFmt w
  let first := (rdS t (fA w)).toNat + iOff w
  let bits := inBits fmt
  let n := bits / 8
  if !(vectorOk w 1 && vOk (fD w)) || iRsv w then .fault 0x01
  else if !ifmtOk fmt || fmt == 3 then .fault 0x02
  else if 8192 < first + n then .fault 0x07
  else if !linesValid t.mem first n then .hold .other
  else
    let lane (l : Fin 64) : W32 :=
      let x := bufElem t.mem first bits l.val
      if fmt = 2 then BitVec.ofInt 32 (signedOf 8 x)
      else if fmt = 6 then BitVec.ofNat 32 x
      else BitVec.ofNat 32 (round32 (match fmt with
        | 0 => decodeF fE4M3 x
        | 1 => decodeF fE5M2 x
        | 4 => decodeF fFP16 x
        | _ => decodeF fBF16 x)).bits
    let t1 := later t 6 [.v (vReg (fD w)) (laneMask t (fMsel w)) (Vector.ofFn lane)]
    let t2 := if fMod w = 1 then later t1 1 [.s (fA w) (rdS t (fA w) + BitVec.ofNat 32 n)] else t1
    issued { t2 with fetch := useLines t2.fetch first n }

/-- One element of a line range replaced. -/
def putElem (m : TileMem) (first bits i x : Nat) : TileMem :=
  let l := first + i * bits / 512
  let off := i * bits % 512
  let old := (mget 0 m.obuf l).toNat
  let new := old - (bitsOf old off bits) <<< off + (x % 2 ^ bits) <<< off
  { m with obuf := mset 0 m.obuf l (BitVec.ofNat 512 new) }

/-- VST (05 R141, R115): a masked element's bytes are left unchanged; the lines written are valid after it (R121). -/
def issueVst (w : BitVec 56) (t : Tile) : Issue :=
  let fmt := iFmt w
  let first := (rdS t (fA w)).toNat + iOff w
  let n := ofmtBytes fmt
  if !(vectorOk w 9 && vOk (fB w)) || iRsv w then .fault 0x01
  else if !ofmtOk fmt then .fault 0x02
  else if 8192 < first + n then .fault 0x07
  else if linesHeld t.mem first n then .hold .other
  else
    let b := rdV t (vReg (fB w))
    let en := laneMask t (fMsel w)
    let conv (l : Fin 64) : Conv := convLane' w t (laneVal' (bitAt (fMod w) 3) (b.get l)) l.val
    let r := (List.finRange 64).foldl (fun (a : TileMem × FlagSet) (l : Fin 64) =>
      if en.getLsbD l.val then (putElem a.1 first (8 * n) l.val (conv l).bits, flagOr a.2 (conv l).flags) else a)
      (t.mem, {})
    let mem := { r.1 with valid := (List.range n).foldl (fun v i => mset false v (first + i) true) r.1.valid }
    let t1 := addFlags { t with mem := mem } r.2
    issued (if bitAt (fMod w) 0 then later t1 1 [.s (fA w) (rdS t (fA w) + BitVec.ofNat 32 n)] else t1)
where
  /-- The source value of a lane (R141). -/
  laneVal' (int : Bool) (x : W32) : FVal := if int then fvalOfInt x.toInt else val32 x
  /-- The conversion of a lane at its logical index (07 R176). -/
  convLane' (w : BitVec 56) (t : Tile) (v : FVal) (l : Nat) : Conv :=
    let seed : W64 := match t.part with | some p => p.seed | none => 0
    convOut (iFmt w) (iShift w)
      (rndMode (iRnd w) seed ((rdS t 31).toNat % 2 ^ 24) ((rdS t (iIx w)).toNat + l)) (iSat w) v

/-- CRD (R142): the 64 accumulators at unit OFFSET converted into V[D] (DEDUCED, note 13). -/
def issueCrd (w : BitVec 56) (t : Tile) : Issue :=
  let u := iOff w
  let fmt := iFmt w
  let exact := decide ((descOf t.mem u).path = 1)
  let n := if exact then 2 else 1
  if !(vectorOk w 0 && vOk (fD w)) || iRsv w then .fault 0x01
  else if fmt ≠ 6 ∧ fmt ≠ 7 then .fault 0x02
  else if 511 < u ∨ 512 < u + n then .fault 0x06
  else if (List.range n).any (fun i => (descOf t.mem (u + i)).path == 0) then .fault 0x09
  else if arrayOver t.mem u n then .hold .other
  else
    let en := laneMask t (fMsel w)
    let seed : W64 := match t.part with | some p => p.seed | none => 0
    finishV t 8 (vReg (fD w)) en (laneOp en fun l =>
      let c := convOut fmt (iShift w)
        (rndMode (iRnd w) seed ((rdS t 31).toNat % 2 ^ 24) ((rdS t (iIx w)).toNat + l.val)) (iSat w)
        (accVal exact (rdAcc t.mem exact u l.val))
      (BitVec.ofNat 32 c.bits, c.flags))

/-- What a CWR lane leaves in an accumulator, with SAT, NV and UF (R143). -/
def cwrLane (exact zero : Bool) (a : Acc) (v : FVal) : AccRes × Bool :=
  if exact then
    match v with
    | .fin s m e =>
      let sp := splitAt m e (-48)
      let n := tieEven sp.1 sp.2.1 sp.2.2
      (exactAdd zero a ⟨if s then -(n : Int) else n, .fin, false⟩, decide (m ≠ 0 ∧ n = 0))
    | v => (exactAdd zero a ⟨0, stateOfV v, false⟩, false)
  else
    let r := totalAdd zero a v false
    (⟨r.1, false, r.2⟩, false)

/-- CWR (R143): lane l of V[B] into accumulator l of the row at unit IMM[8:0]. -/
def issueCwr (w : BitVec 56) (t : Tile) : Issue :=
  let u := wf w 0 9
  let zero := bitAt (fMod w) 0
  let exact := !bitAt (fMod w) 1
  let int := bitAt (fMod w) 2
  let n := if exact then 2 else 1
  let pathOk (d : UnitDesc) : Bool := if exact then d.path == 1 else d.path == 2 || d.path == 3
  if !(vectorOk w 7 && vOk (fB w)) then .fault 0x01
  else if 512 < u + n then .fault 0x06
  else if !zero && !((List.range n).all fun i => pathOk (descOf t.mem (u + i))) then .fault 0x09
  else if arrayOver t.mem u n || readingOver t.mem u n then .hold .other
  else
    let b := rdV t (vReg (fB w))
    let en := laneMask t (fMsel w)
    let val (l : Fin 64) : FVal := if int then fvalOfInt (b.get l).toInt else val32 (b.get l)
    let r := (List.finRange 64).foldl (fun (a : TileMem × Bool × FlagSet) (l : Fin 64) =>
      if en.getLsbD l.val then
        let x := cwrLane exact zero (rdAcc a.1 exact u l.val) (val l)
        (wrAcc a.1 exact u l.val x.1.acc, a.2.1 || x.1.sat, flagOr a.2.2 { nv := x.1.nv, unf := x.2 })
      else a) (t.mem, false, {})
    let mem := if zero then
        setDescs r.1 u n fun d => { d with path := if exact then 1 else if d.path = 3 then 3 else 2 }
      else r.1
    issued (addFlags { t with mem := mem, sat := t.sat || r.2.1 } r.2.2)

/-! ## Write-back (R116, R145, R146) -/

/-- Whether a logical range of lines is refused under 06 R152, for a write. -/
def writeRefused (env : TileEnv) (addr n : Nat) : Bool :=
  let sp := addr / 2 ^ 30
  let last := addr % 2 ^ 30 + n
  match sp with
  | 0 => decide (env.bankLines < last)
  | 1 => decide (env.basinLines < last)
  | _ => true

/-- Whether a range of lines includes the express doorway line (06 R152). -/
def coversDoorway (env : TileEnv) (addr n : Nat) : Bool :=
  match env.doorway with
  | some d => decide (addr ≤ d) && decide (d < addr + n)
  | none => false

/-- Output length of LEN (R116). -/
def wbLen (c : Nat) : Nat := 64 / 2 ^ c

/-- The lines of one row of converted elements, the last one filled with zeros (R116). -/
def rowLines (bytes : Nat) (xs : List Nat) : List Line := toLines (xs.flatMap fun x => leBytes bytes x)

/-- The header the kernel CRC takes before a write-back's bytes (09 R236). -/
def crcHeader (addr elems ofmt : Nat) : List Byte := leBytes 4 addr ++ leBytes 2 elems ++ leBytes 1 ofmt ++ [0]

/-- WB of a Cistern region: conversion of every element, its flags, its bytes into the kernel CRC (DEDUCED, note 8). -/
def issueWbCistern (env : TileEnv) (w : BitVec 56) (t : Tile) : Issue :=
  let rel := bitAt w.toNat 54
  let ofmt := wf w 50 4
  let u := wf w 28 9
  let rows := wf w 20 8 + 1
  let len := wbLen (wf w 8 2)
  let exact := decide ((descOf t.mem u).path = 1)
  let ru := rowUnits len exact
  let units := rows * ru
  let dst := (rdS t (w.extractLsb' 15 5)).toNat
  let lines := rows * ceilDiv (len * ofmtBytes ofmt) 64
  if wf w 37 4 ≠ 0 then .fault 0x01
  else if !ofmtOk ofmt then .fault 0x02
  else if 512 < u + units then .fault 0x06
  else if (List.range units).any (fun i => (descOf t.mem (u + i)).path == 0) then .fault 0x09
  else if rel && !allocAt t.mem u then .fault 0x0A
  else if writeRefused env dst lines || coversDoorway env dst lines then .refuse dst
  else if arrayOver t.mem u units || !env.plane2 dst lines then .hold .other
  else
    let seed : W64 := match t.part with | some p => p.seed | none => 0
    let idx := (rdS t (w.extractLsb' 10 5)).toNat
    let el (r e : Nat) : Conv :=
      convOut ofmt (signedOf 7 (wf w 43 7))
        (rndMode (bitAt w.toNat 42) seed ((rdS t 31).toNat % 2 ^ 24) (idx + r * len + e)) (bitAt w.toNat 41)
        (accVal exact (rdAcc t.mem exact (u + r * ru) e))
    let table := (List.range rows).map fun r => (List.range len).map fun e => el r e
    let data := table.flatMap fun row => rowLines (ofmtBytes ofmt) (row.map fun c => c.bits)
    let fl := table.foldl (fun a row => row.foldl (fun b c => flagOr b c.flags) a) ({} : FlagSet)
    let crc := crcList (crcList t.crc (crcHeader dst (rows * len) ofmt)) (data.flatMap lineBytes)
    issued (addFlags { t with
      crc := crc
      mem := { t.mem with wbs := t.mem.wbs ++ [⟨dst, data, true, u, units, rel, true, env.now⟩] } } fl)

/-- WB of operand-buffer lines, and the one-line form to the express doorway (R145, R146); one of several lines onto the doorway is refused
with its address (06 R152). -/
def issueWbLines (env : TileEnv) (w : BitVec 56) (t : Tile) : Issue :=
  let first := wf w 28 13
  let rows := wf w 20 8 + 1
  let dst := (rdS t (w.extractLsb' 15 5)).toNat
  let data := (List.range rows).map fun i => mget 0 t.mem.obuf (first + i)
  if bitAt w.toNat 54 ∨ wf w 41 13 ≠ 0 ∨ wf w 8 2 ≠ 0 then .fault 0x01
  else if 8192 < first + rows then .fault 0x07
  else if env.doorway = some dst then
    if rows ≠ 1 then .refuse dst
    else if !linesValid t.mem first 1 || !env.express then .hold .other
    else
      match issued { t with
          mem := { t.mem with wbAcked := t.mem.wbAcked + 1 }, fetch := useLines t.fetch first 1 } with
      | .ok t' => .express t' (data.getD 0 0)
      | r => r
  else if writeRefused env dst rows || coversDoorway env dst rows then .refuse dst
  else if !linesValid t.mem first rows || !env.plane2 dst rows then .hold .other
  else issued { t with mem := { t.mem with wbs := t.mem.wbs ++ [⟨dst, data, false, first, rows, false, true, env.now⟩] } }

/-- WB (R116): SRC chooses the form; RSV bits must be 0. -/
def issueWb (env : TileEnv) (w : BitVec 56) (t : Tile) : Issue :=
  if wf w 0 8 ≠ 0 then .fault 0x01
  else if bitAt w.toNat 55 then issueWbLines env w t
  else issueWbCistern env w t

end Sys2Proof.Machine
end

