-- ==== Sys2Proof/Machine/LinkCode.lean ====
section
/-! DEFINITION. The line code of Vidonlink: Reed-Solomon RS(272, 262), the CRCs, the scrambler and the Gray code (14 R325 to
R330, R344). -/

namespace Sys2Proof.Machine

/-! ## GF(2^10) with p(x) = x^10 + x^3 + 1 (R326) -/

/-- One doubling in the field. -/
def gfDouble (a : Nat) : Nat := if a.testBit 9 then ((a <<< 1) ^^^ 0x409) % 1024 else a <<< 1
/-- Product in the field, over the multiplier's bits from the highest of `n`. -/
def gfMulN : Nat → Nat → Nat → Nat → Nat
  | 0, _, _, acc => acc
  | n + 1, a, b, acc => gfMulN n a b (gfDouble acc ^^^ (if b.testBit n then a else 0))
/-- Product in the field. -/
def gfMul (a b : Nat) : Nat := gfMulN 10 a b 0
/-- Power in the field. -/
def gfPow (a : Nat) : Nat → Nat
  | 0 => 1
  | n + 1 => gfMul (gfPow a n) a
/-- α^n by doubling. -/
def alphaPow : Nat → Nat
  | 0 => 1
  | n + 1 => gfDouble (alphaPow n)
/-- Square, `n` times. -/
def gfSqN : Nat → Nat → Nat
  | 0, a => a
  | n + 1, a => gfSqN n (gfMul a a)
/-- Inverse in the field: a^1022, the product of a^2, a^4, …, a^512. -/
def gfInv (a : Nat) : Nat := (List.range 9).foldl (fun r i => gfMul r (gfSqN (i + 1) a)) 1

/-- The product of a polynomial (coefficients from the highest) and (x − r). -/
def mulRoot (p : List Nat) (r : Nat) : List Nat :=
  List.zipWith (fun a b => a ^^^ b) (p ++ [0]) (0 :: p.map (gfMul r))
/-- g(x), the product of (x − α^i) for i from 0 to 9, from the highest coefficient (R326). -/
def rsGen : List Nat := (List.range 10).foldl (fun p i => mulRoot p (alphaPow i)) [1]

/-- One step of the division by g(x). -/
def rsStep (g : List Nat) (r : List Nat) (m : Nat) : List Nat :=
  let fb := m ^^^ r.headD 0
  List.zipWith (fun a b => a ^^^ b) (r.drop 1 ++ [0]) (g.map (gfMul fb))
/-- The ten check symbols of 262 data symbols (R326). -/
def rsChecks (msg : List Nat) : List Nat := msg.foldl (rsStep (rsGen.drop 1)) (List.replicate 10 0)
/-- The codeword of 262 data symbols. -/
def rsEncode (msg : List Nat) : List Nat := msg ++ rsChecks msg

/-- The value of a received word at α^j. -/
def rsSyndrome (cw : List Nat) (j : Nat) : Nat :=
  let x := alphaPow j
  cw.foldl (fun a c => gfMul a x ^^^ c) 0
/-- The ten syndromes. -/
def rsSyndromes (cw : List Nat) : List Nat := (List.range 10).map (rsSyndrome cw)

/-- The search for the shortest recurrence of the syndromes: locator and previous locator from the lowest coefficient, length,
gap and previous discrepancy. -/
structure RsSearch where
  c : List Nat
  b : List Nat
  l : Nat
  m : Nat
  d : Nat
  deriving DecidableEq, Repr

/-- a + k·x^m·b. -/
def polyAdd (a b : List Nat) (k m : Nat) : List Nat :=
  let sh := List.replicate m 0 ++ b.map (gfMul k)
  (List.range (max a.length sh.length)).map (fun i => a.getD i 0 ^^^ sh.getD i 0)
/-- One syndrome taken into the search. -/
def rsSearchStep (syn : List Nat) (r : RsSearch) (n : Nat) : RsSearch :=
  let d := (List.range (r.l + 1)).foldl (fun a i => a ^^^ gfMul (r.c.getD i 0) (syn.getD (n - i) 0)) 0
  if d = 0 then { r with m := r.m + 1 }
  else
    let c' := polyAdd r.c r.b (gfMul d (gfInv r.d)) r.m
    if 2 * r.l ≤ n then ⟨c', r.c, n + 1 - r.l, 1, d⟩ else { r with c := c', m := r.m + 1 }
/-- The error locator of the syndromes. -/
def rsLocator (syn : List Nat) : RsSearch := (List.range 10).foldl (rsSearchStep syn) ⟨[1], [1], 0, 1, 1⟩

/-- Value of a polynomial given from its lowest coefficient. -/
def polyEval (p : List Nat) (x : Nat) : Nat := p.foldr (fun c a => gfMul a x ^^^ c) 0
/-- The terms of odd degree of the derivative, in characteristic 2. -/
def polyDeriv (p : List Nat) : List Nat :=
  (List.range (p.length - 1)).map (fun i => if i % 2 = 0 then p.getD (i + 1) 0 else 0)
/-- The product of the syndromes and the locator modulo x^10. -/
def rsOmega (syn c : List Nat) : List Nat :=
  (List.range 10).map (fun k => (List.range (k + 1)).foldl (fun a i => a ^^^ gfMul (c.getD i 0) (syn.getD (k - i) 0)) 0)

/-- The error value at symbol `i`, 0 where none is located. -/
def rsErrorAt (c dc om : List Nat) (i : Nat) : Nat :=
  let x := alphaPow (271 - i)
  let xi := gfInv x
  if polyEval c xi = 0 then gfMul x (gfMul (polyEval om xi) (gfInv (polyEval dc xi))) else 0

/-- Decoding (R326): the codeword within five symbols of the received word, none where there is none. -/
def rsDecode (cw : List Nat) : Option (List Nat) :=
  let syn := rsSyndromes cw
  if syn.all (· == 0) then some cw
  else
    let r := rsLocator syn
    if 5 < r.l then none
    else
      let om := rsOmega syn r.c
      let dc := polyDeriv r.c
      let fixed := (List.zip (List.range 272) cw).map (fun p => p.2 ^^^ rsErrorAt r.c dc om p.1)
      if (rsSyndromes fixed).all (· == 0) then some fixed else none

/-! ## CRC-16 and CRC-8 -/

/-- One bit of the CRC-16 of R330. -/
def crc16Bit (c : Nat) (b : Bool) : Nat :=
  let t := (c.testBit 15) != b
  let s := (c <<< 1) % 65536
  if t then s ^^^ 0x1021 else s
/-- The bits of a number from bit n − 1 down. -/
def bitsDown : Nat → Nat → List Bool
  | 0, _ => []
  | n + 1, x => x.testBit n :: bitsDown n x
/-- CRC-16 of a bit string (R330): initial value 0xFFFF, no final XOR. -/
def crc16 (b : List Bool) : Nat := b.foldl crc16Bit 0xFFFF

/-- One bit of the CRC-8 of R344. -/
def crc8Bit (c : Nat) (b : Bool) : Nat :=
  let t := (c.testBit 7) != b
  let s := (c <<< 1) % 256
  if t then s ^^^ 0x07 else s
/-- CRC-8 (R344): polynomial 0x07, initial value 0. -/
def crc8 (b : List Bool) : Nat := b.foldl crc8Bit 0

/-! ## Scrambler and Gray code (R325) -/

/-- One step of PRBS31, x^31 + x^28 + 1: the bit sent is the oldest of the register (PRESUMED, note 33). -/
def prbsStep (x : Nat) : Nat := ((x <<< 1) % 2 ^ 31) ||| (if (x.testBit 30) != (x.testBit 27) then 1 else 0)
/-- The next `n` bits of a sequence, first bit highest, and the register after them. -/
def prbsRun : Nat → Nat → Nat → Nat × Nat
  | 0, x, acc => (acc, x)
  | n + 1, x, acc => prbsRun n (prbsStep x) (acc * 2 + b2n (x.testBit 30))
/-- The seed of a lane, LS counted as lane 8. -/
def prbsSeed (lane : Nat) : BitVec 31 := BitVec.ofNat 31 (0x7FFFFF00 + lane)

/-- Pairs of bits to PAM4 levels and back: 00 is level 0, 01 level 1, 11 level 2, 10 level 3. -/
def gray (x : BitVec 680) : BitVec 680 :=
  x ^^^ ((x >>> 1) &&& BitVec.ofNat 680 ((4 ^ 340 - 1) / 3))

/-- The 68 symbols of lane `l` of a codeword (R327). -/
def laneSymbols (cw : List Nat) (l : Nat) : List Nat := (List.range 68).map (fun j => cw.getD (4 * j + l) 0)
/-- Symbols as a bit string, first symbol highest. -/
def symBits (l : List Nat) : Nat := l.foldl (fun a x => a * 1024 + x % 1024) 0
/-- The `n` symbols of a bit string, highest first. -/
def bitsSyms : Nat → Nat → List Nat
  | 0, _ => []
  | n + 1, x => (x >>> (10 * n)) % 1024 :: bitsSyms n x
/-- The codeword of four lanes' symbols. -/
def joinLanes (ls : List (List Nat)) : List Nat :=
  (List.range 272).map (fun i => (ls.getD (i % 4) []).getD (i / 4) 0)

end Sys2Proof.Machine
end

