-- ==== Sys2Proof/Machine/LinkFrame.lean ====
section
/-! DEFINITION. Frames and flits of a Vidonlink port: queues and credits, the slot schedule, sending, receiving, replay (14 R325 to
R335, R350). -/

namespace Sys2Proof.Machine

/-! ## Queues and credits (R332) -/

/-- The queue of a virtual lane and its class or Cascade group. -/
def txKey (vl c : Nat) : Nat := vl * 65536 + c
/-- A packet queued to be sent. -/
def enqueue (p : Port) (vl c : Nat) (pkt : List Line) : Port :=
  { p with txq := mmod [] p.txq (txKey vl c) (fun q => q ++ [pkt]) }
/-- A link control flit: LCTYPE and its fields in byte order (R332). -/
def lcFlit (bytes : List Byte) : Line := lineOf bytes
/-- A link control flit queued. -/
def sendLc (p : Port) (bytes : List Byte) : Port := enqueue p 6 0 [lcFlit bytes]

/-- The buffer of a virtual lane at the receiver, in flits. -/
def vlSize (vl : Nat) : Nat := match vl with | 0 => 32 | 1 => 512 | 2 => 256 | 3 => 256 | 4 => 64 | _ => 0
/-- The share of a class or group in it: RQ and RS 96, 96, 32, 32; CS equally among the k groups crossing. -/
def vlShare (vl c k : Nat) : Nat :=
  match vl with
  | 1 => 512 / max k 1
  | 2 => if c < 2 then 96 else 32
  | 3 => if c < 2 then 96 else 32
  | v => vlSize v
/-- Whether a flit of virtual lane `vl`, class or group `c` may be sent: a credit is held, except LC, and no other packet of
the lane is half sent. -/
def canSend (p : Port) (k vl c : Nat) : Bool :=
  let o := mget [] p.outst vl
  let free := vl == 6 || (decide (o.length < vlSize vl) && decide ((o.filter (· == c)).length < vlShare vl c k))
  free && !(mget [] p.txq (txKey vl c)).isEmpty && (mget 0 p.inPkt vl == 0 || mget 0 p.inPkt vl == c + 1)

/-- The next flit of a queue taken: its credit is used, and what is left of its packet stays at the front. -/
def takeFlit (p : Port) (vl c : Nat) : (Nat × Line) × Port :=
  match mget [] p.txq (txKey vl c) with
  | (x :: rest) :: q =>
    let q' := if rest.isEmpty then q else rest :: q
    ((vl, x),
     { p with
       txq := (if q'.isEmpty then mdel p.txq (txKey vl c) else mput p.txq (txKey vl c) q')
       inPkt := (if rest.isEmpty then mdel p.inPkt vl else mput p.inPkt vl (c + 1))
       outst := (if vl = 6 then p.outst else mput p.outst vl (mget [] p.outst vl ++ [c])) })
  | _ => ((7, 0), p)

/-- The order of the general slots (R335; DEDUCED, note 34): RQ and RS over the four classes from the turn, then MG. -/
def generalOrder (p : Port) : List (Nat × Nat) :=
  (List.range 8).map (fun i => let t := (p.genTurn + i) % 8; (2 + t % 2, t / 2)) ++ [(4, 0)]
/-- The groups with a Cascade flit to send, from the turn. -/
def windowOrder (p : Port) : List (Nat × Nat) :=
  let gs := (p.txq.filter (fun e => e.1 / 65536 == 1)).map (fun e => e.1 % 65536)
  ((gs.filter (fun g => decide (p.csTurn < g))) ++ gs.filter (fun g => decide (g ≤ p.csTurn))).map (fun g => (1, g))

/-- One slot filled from the first of its candidates that can send; IDLE where none can (R334, R335). -/
def fillSlot (k : Nat) (order : List (Nat × Nat)) (p : Port) : (Nat × Line) × Port :=
  match order.find? (fun o => canSend p k o.1 o.2) with
  | none => ((7, 0), p)
  | some (vl, c) =>
    let r := takeFlit p vl c
    (r.1, { r.2 with
      genTurn := (if vl = 2 ∨ vl = 3 then (c * 2 + (vl - 2) + 1) % 8 else r.2.genTurn)
      csTurn := (if vl = 1 ∧ mget 0 r.2.inPkt 1 = 0 then c else r.2.csTurn) })

/-- Whether a recovery is in its first try, a lane swap (R352): the frames of the lanes that hold go on, with link control flits alone; new
frames wait. -/
def trySwap (p : Port) : Bool := p.phase == .recovery && p.recoverStep == 1 && p.step == 0 && p.swap.isSome
/-- The candidates of slot `i` of a frame (R334): slot 0 priority, slots 1 to 4 windows, slot 4 general in every fourth period;
with no group crossing the windows are general slots. -/
def slotOrder (p : Port) (k i : Nat) : List (Nat × Nat) :=
  if trySwap p then [(6, 0)]
  else if i = 0 then [(0, 0), (6, 0), (4, 0)] ++ generalOrder p
  else if k = 0 ∨ (i = 4 ∧ p.period % 4 = 3) then generalOrder p
  else windowOrder p

/-- The five flits of a frame. -/
def fillFrame (p : Port) (k : Nat) : List (Nat × Line) × Port :=
  (List.range 5).foldl
    (fun (a : List (Nat × Line) × Port) i => let r := fillSlot k (slotOrder a.2 k i) a.2; (a.1 ++ [r.1], r.2)) ([], p)

/-! ## Frames (R328 to R331) -/

/-- A frame's 2,620 bits: the control field above its CRC, the CRC, the five flits, each byte 0 first. -/
def frameBits (fseq vlmap ackt ackseq crvl crcnt : Nat) (flits : List (Nat × Line)) : Nat :=
  let ctl := ((((fseq % 1024 * 2 ^ 15 + vlmap) * 4 + ackt) * 1024 + ackseq % 1024) * 8 + crvl) * 16 + crcnt
  let body := flits.foldl (fun a f => a * 2 ^ 512 + beNat (lineBytes f.2)) 0
  let crc := crc16 (bitsDown 44 ctl ++ bitsDown 2560 body)
  (ctl * 65536 + crc) * 2 ^ 2560 + body

/-- VLMAP of five flits, flit 0 highest. -/
def vlMap (flits : List (Nat × Line)) : Nat := flits.foldl (fun a f => a * 8 + f.1) 0

/-- The fields of a received frame. -/
structure Frame where
  fseq : Nat
  ackt : Nat
  ackseq : Nat
  crvl : Nat
  crcnt : Nat
  flits : List (Nat × Line)
  crcOk : Bool
  deriving DecidableEq, Repr

/-- A frame's 2,620 bits read (R329); the CRC runs over the 2,604 bits that are not the CRC field (DEDUCED, note 35). -/
def parseFrame (x : Nat) : Frame :=
  let ctl := x >>> 2560
  let body := x % 2 ^ 2560
  let vm := bitsOf ctl 35 15
  let flits := (List.range 5).map (fun k =>
    (bitsOf vm (3 * (4 - k)) 3, lineOf (beBytes 64 (bitsOf body (512 * (4 - k)) 512))))
  { fseq := bitsOf ctl 50 10, ackt := bitsOf ctl 33 2, ackseq := bitsOf ctl 23 10, crvl := bitsOf ctl 20 3,
    crcnt := bitsOf ctl 16 4, flits := flits,
    crcOk := crc16 (bitsDown 44 (ctl >>> 16) ++ bitsDown 2560 body) == ctl % 65536 }

/-- A null frame (R331). -/
def isNull (f : Frame) : Bool := f.flits.all (fun x => x.1 == 7) && f.crcnt == 0

/-- The physical lane that sends logical lane `l`. -/
def txPhys (p : Port) (l : Nat) : List Nat :=
  (List.range 9).filter (fun n => (mget {} p.lanes n).txLogical == l)
/-- The physical lane that receives logical lane `l`. -/
def rxPhys (p : Port) (l : Nat) : Option Nat :=
  (List.range 9).find? (fun n => (mget {} p.lanes n).logical == l && !(mget {} p.lanes n).out)

/-- A codeword put on the lanes of a group: interleaved (R327), scrambled and Gray-coded (R325); a mirrored lane is sent on
both physical lanes (R351). -/
def sendCodeword (s : State) (d g : Nat) (frame : Nat) : State :=
  let p := portOf s d
  let cw := rsEncode (bitsSyms 262 frame)
  let phys := (List.range 4).flatMap (fun l => (txPhys p (4 * g + l)).map (fun n => (n, l)))
  let mirror := match p.swap with
    | some w => if !w.receiver && w.lane / 4 == g && (w.period.isSome) then [(8, w.lane % 4)] else []
    | none => []
  let outs := (phys ++ mirror).map (fun e =>
    let ln := mget {} p.lanes e.1
    let r := prbsRun 680 ln.prbsTx.toNat 0
    (e.1, gray (BitVec.ofNat 680 (symBits (laneSymbols cw e.2) ^^^ r.1)), BitVec.ofNat 31 r.2))
  let lanes := outs.foldl (fun a o => mmod {} a o.1 (fun ln => { ln with prbsTx := o.2.2 })) p.lanes
  send (modPort s d fun p => { p with lanes := lanes }) (.codeword d g (outs.map (fun o => (o.1, o.2.1))))

/-- The Cascade groups whose chain crosses a port (R334, R353; 08 R205, R206): those with a station of this module that names it, and those whose chain enters
this module by it (DESIGN CHOICE, note 45). -/
def groupsCross (s : State) (d : Nat) : List Nat :=
  let enters (g : Nat × Group) : Bool :=
    let n := g.2.stations.length
    (upTo n).any (fun i => match g.2.stations[i]?, g.2.stations[(i + n - 1) % n]? with
      | some x, some p => x.rank == g.2.myRank && p.rank != x.rank && (Config.recvPort g.1 i).val == d
      | _, _ => false)
  (s.groups.filter (fun g => (d != 15 && g.2.stations.any (fun st => st.port == d && st.rank == g.2.myRank)) || enters g)).map (·.1)

/-- The credits to return: the first virtual lane that owes any, at most 15 (R329, R333) (DESIGN CHOICE, note 46). -/
def owedCredits (p : Port) : Nat × Nat :=
  match p.owed.find? (fun e => decide (0 < e.2)) with
  | some (v, n) => (v, min n 15)
  | none => (0, 0)

/-- The acknowledgement a frame carries: type and sequence number of the last frame received in order. -/
def ackField (p : Port) : Nat × Nat := if p.ackWant = 0 then (0, 0) else (p.ackWant, (p.expect + 1023) % 1024)

/-- The codeword period moves on after group 1's frame. -/
def endTurn (p : Port) : Port := if p.turn = 0 then { p with turn := 1 } else { p with turn := 0, period := (p.period + 1) % 2 ^ 32 }

/-- The acknowledgement has been sent. -/
def acked (s : State) (p : Port) : Port :=
  if p.ackWant = 0 then p else { p with ackWant := 0, sinceAck := 0, ackAt := mltNs s }

/-- A null frame on the group whose turn it is. -/
def sendNull (s : State) (d : Nat) : State :=
  let p := portOf s d
  let a := ackField p
  let s1 := sendCodeword s d p.turn (frameBits p.fseq 0x7FFF a.1 a.2 0 0 (List.replicate 5 (7, 0)))
  modPort s1 d fun p => endTurn (acked s p)

/-- A kept frame sent again, unchanged (R350), and counted in VL_ERR.REPLAYS. -/
def resendFrame (s : State) (d i : Nat) (k : Kept) : State :=
  let s1 := sendCodeword s d (portOf s d).turn (frameBits k.fseq (vlMap k.flits) k.ackt k.ackseq k.crvl k.crcnt k.flits)
  let s2 := bump s1 (vlB d + 0x14) 20 12 1
  modPort s2 d fun p =>
    endTurn { p with
      kept := (List.range p.kept.length).map (fun j =>
        let x := p.kept.getD j k
        if j = i then { x with resends := x.resends + 1 } else x)
      resendAt := (if i + 1 < p.kept.length then some (i + 1) else none) }

/-- A new frame: its flits by the schedule, a credit return, an acknowledgement; kept for replay unless it is null. -/
def sendNew (s : State) (d : Nat) : State :=
  let p := portOf s d
  let r := fillFrame p (groupsCross s d).length
  let cr := owedCredits p
  if r.1.all (fun x => x.1 == 7) ∧ cr.2 = 0 then sendNull s d
  else
    let a := ackField p
    let s1 := modPort s d fun _ =>
      { r.2 with
        owed := (if cr.2 = 0 then r.2.owed else mput r.2.owed cr.1 (mget 0 r.2.owed cr.1 - cr.2))
        quietAt := if r.1.all (fun x => x.1 == 7) then p.quietAt else mltNs s
        kept := r.2.kept ++ [⟨p.fseq, r.1, cr.1, cr.2, a.1, a.2, 0⟩]
        heardAt := if p.kept.isEmpty then mltNs s else p.heardAt }
    let s2 := sendCodeword s1 d p.turn (frameBits p.fseq (vlMap r.1) a.1 a.2 cr.1 cr.2 r.1)
    modPort s2 d fun q => endTurn (acked s { q with fseq := (q.fseq + 1) % 1024 })

/-- One frame sent (R331, R334, R350): a frame to resend first, else a new one on its group while fewer than 511 are
unacknowledged, else a null frame. -/
def sendFrame (s : State) (d : Nat) : State :=
  let p := portOf s d
  match p.resendAt with
  | some i =>
    match p.kept[i]? with
    | some k => if k.fseq % 2 = p.turn then resendFrame s d i k else sendNull s d
    | none => sendNull (modPort s d fun p => { p with resendAt := none }) d
  | none => if p.fseq % 2 = p.turn ∧ p.kept.length < 511 then sendNew s d else sendNull s d

/-! ## Receiving (R326, R327, R330, R331, R333, R350) -/

/-- The lane streams of a codeword back to its symbols: levels to bits, descrambled with each lane's sequence. -/
def gather (p : Port) (g : Nat) (lanes : List (Nat × BitVec 680)) : List Nat × SMap Lane :=
  let rows : List (Nat × List Nat × Nat) := (List.range 4).map (fun l =>
    match rxPhys p (4 * g + l) with
    | none => (99, ([] : List Nat), 0)
    | some n =>
      let x := match lanes.find? (fun e => e.1 == n) with | some e => e.2 | none => 0
      let r := prbsRun 680 (mget {} p.lanes n).prbsRx.toNat 0
      (n, bitsSyms 68 ((gray x).toNat ^^^ r.1), r.2))
  (joinLanes (rows.map (fun r => r.2.1)),
   rows.foldl (fun a r => if r.1 = 99 then a else mmod {} a r.1 (fun ln => { ln with prbsRx := BitVec.ofNat 31 r.2.2 })) p.lanes)

/-- Corrected symbols counted per physical lane (R327). -/
def countErrors (s : State) (d g : Nat) (got fixed : List Nat) : State :=
  (List.range 4).foldl
    (fun a l =>
      match rxPhys (portOf s d) (4 * g + l) with
      | none => a
      | some n =>
        let e := ((List.range 68).filter (fun j => got.getD (4 * j + l) 0 != fixed.getD (4 * j + l) 0)).length
        bump a (vlB d + 0x40 + 4 * n) 0 16 e) s

/-- Recovery starts (R352): the port leaves the up state; new frames wait at their source. -/
def startRecovery (s : State) (d : Nat) : State :=
  modPort s d fun p =>
    if p.phase = .recovery then p
    else { p with phase := .recovery, recoverAt := some (mltNs s), recoverStep := 0, step := 0, plumb := none, swap := none }

/-- A resend of every kept frame begins (R350); a frame that has been resent 8 times starts recovery. -/
def startReplay (s : State) (d : Nat) : State :=
  let p := portOf s d
  if p.kept.any (fun k => decide (8 ≤ k.resends)) then startRecovery s d
  else if p.kept.isEmpty then s
  else modPort s d fun p => { p with resendAt := some 0, heardAt := mltNs s }

/-- An ACK or NAK taken (R333, R350): frames up to ACKSEQ leave the replay buffer, an older ACKSEQ is ignored, a NAK resends
from the next. -/
def takeAck (s : State) (d : Nat) (f : Frame) : State :=
  if f.ackt = 0 ∨ f.ackt = 3 then s
  else
    let p := portOf s d
    if 512 ≤ (f.ackseq + 1024 - p.ackSeen) % 1024 then s
    else
      let n := (f.ackseq + 1024 - p.ackSeen) % 1024
      let s1 := modPort s d fun p =>
        { p with
          ackSeen := f.ackseq, kept := p.kept.drop n, heardAt := mltNs s
          resendAt := (match p.resendAt with | some i => if i < n then (if p.kept.length ≤ n then none else some 0) else some (i - n) | none => none) }
      if f.ackt = 2 then startReplay s1 d else s1

/-- `n` flits leave a receive buffer; their credits are owed to the peer (R333), but for LC, which needs none. -/
def outFlits (s : State) (d vl n : Nat) : State :=
  modPort s d fun p =>
    { p with
      rxq := (let r := (mget [] p.rxq vl).drop n; if r.isEmpty then mdel p.rxq vl else mput p.rxq vl r)
      owed := (if vl = 6 then p.owed else mput p.owed vl (mget 0 p.owed vl + n)) }
/-- Whether a flit is no header of a packet that R338 lists for its virtual lane: 2 RQ, 3 RS, 4 MG. -/
def unlisted (vl : Nat) (x : Line) : Bool :=
  let t := bitsOf x.toNat 0 8
  match vl with
  | 2 => decide (t < 1 ∨ 3 < t)
  | 3 => decide (t < 4 ∨ 5 < t)
  | 4 => decide (t < 6 ∨ 7 < t)
  | _ => false
/-- Packets of no listed TYPE at the front of a receive buffer are discarded and counted (R338), each with as many payload lines as its header
says (DESIGN CHOICE, note 124). -/
def dropUnlistedN : Nat → Nat → Nat → State → State
  | 0, _, _, s => s
  | n + 1, d, vl, s =>
    match mget [] (portOf s d).rxq vl with
    | [] => s
    | x :: r =>
      let m := bitsOf x.toNat 64 6 + 1
      if unlisted vl x && decide (m ≤ r.length) then dropUnlistedN n d vl (bump (outFlits s d vl (m + 1)) (vlB d + 0x14) 0 8 1) else s
/-- The front of a virtual lane's receive buffer cleared of packets of no listed TYPE. -/
def dropUnlisted (s : State) (d vl : Nat) : State := dropUnlistedN (mget [] (portOf s d).rxq vl).length d vl s

/-- A good frame in order: its credits are returned to this side, its flits go to the receive buffers (R331 to R333). -/
def deliver (s : State) (d : Nat) (f : Frame) : State :=
  (f.flits.map (·.1)).eraseDups.foldl (fun a vl => dropUnlisted a d vl) <| modPort s d fun p =>
    let o := if f.crcnt = 0 then p.outst else mput p.outst f.crvl ((mget [] p.outst f.crvl).drop f.crcnt)
    let q := (f.flits.filter (fun x => x.1 != 7)).foldl (fun a x => mmod [] a x.1 (fun l => l ++ [x.2])) p.rxq
    let n := p.sinceAck + 1
    { p with
      expect := (f.fseq + 1) % 1024, discarding := false, outst := o, rxq := q, sinceAck := n
      ackWant := (if 32 ≤ n then max p.ackWant 1 else p.ackWant) }

/-- A frame that is not good, or one out of order (R350): it is discarded, and a frame that is missing is asked for with a
NAK; one received before is acknowledged again. One NAK is sent until the next expected frame has come (DEDUCED, note 36). -/
def discardFrame (s : State) (d : Nat) (missing : Bool) : State :=
  modPort s d fun p =>
    if missing then { p with discarding := true, ackWant := if p.discarding then p.ackWant else 2 } else { p with ackWant := max p.ackWant 1 }

/-- A frame received while the port is up. -/
def takeFrame (s : State) (d : Nat) (f : Frame) : State :=
  if !f.crcOk then discardFrame s d true
  else
    let s0 := modPort s d fun p => { p with wakeAt := none }
    if isNull f then takeAck s0 d f
    else
      let p := portOf s0 d
      if f.fseq = p.expect then takeAck (deliver s0 d f) d f
      else takeAck (discardFrame s0 d (decide ((f.fseq + 1024 - p.expect) % 1024 < 512))) d f

/-- A codeword while the port hunts its boundary (R348): 16 correctable ones in a row lock the group; an uncorrectable one
shifts the boundary by one UI unless alignment is manual. -/
def huntFrame (s : State) (d g : Nat) (good : Bool) : State :=
  modPort s d fun p =>
    if good then { p with cwGood := mput p.cwGood g (mget 0 p.cwGood g + 1) }
    else
      { p with
        cwGood := mput p.cwGood g 0
        cwShift := (if flag s (vlB d + 4) 30 ∧ p.phase = .training then p.cwShift else mput p.cwShift g ((mget 0 p.cwShift g + 1) % 340)) }

/-- FRAME_RECEIVE (R325 to R331, R350): the streams of a group's lanes for one codeword, in levels. -/
def execFrameReceive (die : Die) (group : Fin 2) (lanes : List (Nat × BitVec 680)) (s : State) : Out :=
  if lanes.any (fun e => decide (8 < e.1)) then .fault .illFormed
  else .next <|
    let p := portOf s die
    let hunting := (p.phase = .training ∨ p.phase = .recovery) ∧ p.step = 5
    if p.phase ≠ .up ∧ ¬ hunting ∧ !trySwap p then s
    else
      let r := gather p group lanes
      let s1 := modPort s die fun p => { p with lanes := r.2 }
      match rsDecode r.1 with
      | none => if hunting then huntFrame s1 die group false else discardFrame s1 die true
      | some cw =>
        let s2 := countErrors s1 die group r.1 cw
        if hunting then huntFrame s2 die group true
        else takeFrame s2 die (parseFrame (symBits (cw.take 262)))

/-- ACK_INTERVAL_EXPIRY (R333): 100 ns after the last one an ACK is due. -/
def execAckIntervalExpiry (die : Die) (s : State) : Out :=
  .next <| modPort s die fun p => if p.phase = .up ∧ p.ackAt + 100 ≤ mltNs s then { p with ackWant := max p.ackWant 1 } else p

/-- ACK_TIMEOUT (R350): no ACK for 2 µs with frames unacknowledged: they are resent from the oldest. -/
def execAckTimeout (die : Die) (s : State) : Out :=
  .next <| if (portOf s die).phase = .up ∧ (portOf s die).heardAt + 2000 ≤ mltNs s then startReplay s die else s

end Sys2Proof.Machine
end

