-- ==== Sys2Proof/Machine/LinkCtl.lean ====
section
/-! DEFINITION. Training, lane swaps, recovery, low power and Plumb of a Vidonlink port (14 R344 to R361, R363). -/

namespace Sys2Proof.Machine

/-! ## Helpers -/

/-- A port register's offset. -/
def vlR (d o : Nat) : Nat := vlB d + o
/-- VL_CTRL.EN. -/
def portEn (s : State) (d : Nat) : Bool := flag s (vlR d 4) 31
/-- This module's ID as the port's VL_CTRL holds it (R337). -/
def modId (s : State) (d : Nat) : Nat := fld s (vlR d 4) 8 8
/-- The oldest flit of a virtual lane's receive buffer. -/
def headFlit (p : Port) (vl : Nat) : Option Line := (mget [] p.rxq vl).head?
/-- `n` flits leave a receive buffer (R333), and packets of no listed TYPE behind them (R338). -/
def popFlits (s : State) (d vl n : Nat) : State := dropUnlisted (outFlits s d vl n) d vl
/-- The link control flit at the front of the receive buffer, where its LCTYPE is `t` (R332). -/
def lcHead (s : State) (d t : Nat) : Option (List Byte) :=
  match headFlit (portOf s d) 6 with
  | some x => if byteAt (lineBytes x) 0 = t then some (lineBytes x) else none
  | none => none
/-- A link control flit taken by `f`, its bytes given; nothing where another flit, or none, is in front. -/
def withLc (s : State) (d t : Nat) (f : List Byte → State → State) : Out :=
  .next <| match lcHead s d t with | some b => f b (popFlits s d 6 1) | none => s
/-- Whether the port has anything queued, unacknowledged or outstanding (R355). -/
def holdsTraffic (p : Port) : Bool := !p.txq.isEmpty || !p.kept.isEmpty || p.outst.any (fun e => !e.2.isEmpty)

/-! ## Training (R344 to R349) -/

/-- The 64-bit control word of R344 with its CHK. -/
def ctlWord (phase lane preset creq cstat : Nat) (done : Bool) (modid port : Nat) : BitVec 64 :=
  let hi := ((((((phase * 16 + lane) * 16 + preset) * 256 + creq) * 256 + cstat) * 2 + b2n done) * 8 * 256 + 0x03) * 256 + modid
  let x := (hi * 16 + port) * 16
  BitVec.ofNat 64 (x * 256 + crc8 (bitsDown 56 x))

/-- The taps of a preset (R345): c(−2), c(−1), c(1). -/
def presetTaps (n : Nat) : Int × Int × Int :=
  match n with
  | 0 => (0, 0, 0) | 1 => (0, -4, 0) | 2 => (0, 0, -4) | 3 => (0, -4, -4)
  | 4 => (0, -8, -4) | 5 => (1, -8, -8) | 6 => (2, -12, -8) | _ => (2, -12, -12)

/-- One tap request (R345): 1 increments, 2 decrements; the answer is updated, or at limit with the tap unchanged. -/
def tapStep (c lo hi : Int) (req : Nat) : Int × Nat :=
  let n := if req = 1 then c + 1 else if req = 2 then c - 1 else c
  if req ≠ 1 ∧ req ≠ 2 then (c, 0) else if n < lo ∨ hi < n then (c, 2) else (n, 1)

/-- What a lane's transmitter does with the peer's requests (R344, R345): c(−2), c(−1), c(0) and c(1) from the highest bits; c(0) follows from
the others, and a request for it changes nothing (DEDUCED, note 44). -/
def answerTaps (l : Lane) (preset creq : Nat) : Lane :=
  if preset < 8 then
    let t := presetTaps preset
    { l with cm2 := t.1, cm1 := t.2.1, c1 := t.2.2, cstat := 0x55#8 }
  else
    let a := tapStep l.cm2 0 4 (creq / 64 % 4)
    let b := tapStep l.cm1 (-16) 0 (creq / 16 % 4)
    let c := tapStep l.c1 (-16) 0 (creq % 4)
    { l with cm2 := a.1, cm1 := b.1, c1 := c.1, cstat := BitVec.ofNat 8 (a.2 * 64 + b.2 * 16 + c.2) }

/-- What a lane's receiver measures of the preset it asked for (R346 step 2): the best is kept. -/
def measurePreset (l : Lane) (step : Nat) (margin : Nat) : Lane :=
  if step = 2 ∧ l.tried < 8 then
    let better := l.tried = 0 ∨ l.bestMargin < margin
    { l with
      bestMargin := (if better then margin else l.bestMargin), bestPreset := (if better then l.tried else l.bestPreset),
      tried := l.tried + 1, margin := margin }
  else { l with margin := margin, preset := l.bestPreset, done := l.done || decide (3 ≤ step) }

/-- Training starts over at step 1 (R346): every lane unlocked, presets untried; a fast retrain keeps the taps. -/
def beginTraining (s : State) (d : Nat) (fast : Bool) (ph : PortPhase) : State :=
  modPort s d fun p =>
    { p with
      phase := ph, step := 1, fast := fast, trainRef := mltNs s, cwGood := [], cwShift := [], wakeAt := none, lpAt := none, lpAsked := none,
      lanes := (List.range 9).foldl (fun a n =>
        mmod {} a n (fun l =>
          if fast then { l with locked := false, done := false, peerDone := false }
          else { l with
            locked := false, done := false, peerDone := false, tried := 0, bestMargin := 0, bestPreset := 0, cm2 := 0, cm1 := 0,
            c1 := 0, out := false, logical := 15, txLogical := n })) p.lanes }

/-- The physical lanes that have locked. -/
def lockedLanes (p : Port) : List Nat := (List.range 9).filter (fun n => (mget {} p.lanes n).locked)
/-- The physical lanes that have passed steps 1 to 3 (R347), of which a fast retrain takes only the first. -/
def goodLanes (p : Port) : List Nat := (lockedLanes p).filter (fun n => p.fast || (mget {} p.lanes n).done)

/-- A port that does not train stays down; one in recovery waits to be declared lost (R353). -/
def stayDown (p : Port) : Port := if p.phase = .recovery then { p with step := 0 } else { p with phase := .down, step := 0 }
/-- Two or more lanes have failed (R347): the step sequence restarts; after three attempts the port stays down. -/
def retryTraining (s : State) (d : Nat) : State :=
  let p := portOf s d
  if 2 ≤ p.attempts then modPort s d fun p => { stayDown p with attempts := 0 }
  else beginTraining (modPort s d fun p => { p with attempts := p.attempts + 1 }) d false p.phase
/-- The lane map of step 4 (R347): one missing lane is replaced by LS; with two or more missing, LS among them, the sequence restarts; after
three attempts the port stays down (DEDUCED, note 43). -/
def mapLanes (s : State) (d : Nat) : State :=
  let p := portOf s d
  let missing := (List.range 8).filter (fun l => !(goodLanes p).any (fun n => (mget {} p.lanes n).logical == l))
  let ls := (goodLanes p).find? (fun n => (mget {} p.lanes n).logical == 8)
  match missing, ls with
  | [], _ => modPort s d fun p => { p with step := 5, spareUsed := false, lsMap := 15 }
  | [m], some n =>
    modPort s d fun p =>
      { p with
        step := 5, spareUsed := true, lsMap := m,
        lanes := mmod {} (mmod {} p.lanes n (fun l => { l with logical := m })) 8 (fun l => { l with txLogical := m }) }
  | _, _ => retryTraining s d

/-- The version comparison of step 4 (R349): the highest version in both VERMAPs, ours 0x03; with none the port stays down, NOVER
is set and E_VERSION is reported. -/
def compareVersions (s : State) (d ver : Nat) : State :=
  let common := ver % 256 &&& 0x03
  if common = 0 then
    faultSig (modPort s d fun p => { stayDown p with nover := true })
      { fsid := 0x40, kind := 4, die := d, unit := d, code := 0x22, sev := 1 }
  else mapLanes (modPort s d fun p => { p with nover := false, pver := (if common.testBit 1 then 1 else 0) }) d

/-- The scramblers loaded with their seeds as step 5 begins (R325). -/
def seedLanes (s : State) (d : Nat) : State :=
  modPort s d fun p =>
    if p.step = 5 then
      { p with lanes := (List.range 9).foldl (fun a n =>
          mmod {} a n (fun l => { l with prbsTx := prbsSeed (l.txLogical), prbsRx := prbsSeed (l.logical % 9) })) p.lanes }
    else p

/-- The step a training port moves to when what holds it has come, or its time has passed (R346). -/
def trainAdvance (s : State) (d : Nat) : State :=
  let p := portOf s d
  let t := mltNs s - p.trainRef
  let lk := lockedLanes p
  let all (f : Lane → Bool) := lk.all (fun n => f (mget {} p.lanes n))
  match p.step with
  | 1 => if lk.length = 9 ∨ (1000000 ≤ t ∧ 8 ≤ lk.length) then modPort s d fun p => { p with step := (if p.fast then 4 else 2) }
    else if 1000000 ≤ t then retryTraining s d else s
  | 2 => if all (fun l => l.tried == 8) ∨ 1800000 ≤ t then modPort s d fun p => { p with step := 3 } else s
  | 3 => if all (fun l => l.done && l.peerDone) ∨ 6000000 ≤ t then modPort s d fun p => { p with step := 4 } else s
  | 4 => match p.peerSeen with
    | some (_, _, v) => seedLanes (compareVersions s d v) d
    | none => s
  | _ => s

/-- TRAINING_BLOCK (R344 to R347, R349): a block on a physical lane, with its control word and the eye margin measured. A word
whose CHK fails is ignored. -/
def execTrainingBlock (die : Die) (lane : Fin 9) (ctl : BitVec 64) (margin : BitVec 8) (s : State) : Out :=
  .next <|
    let w := ctl.toNat
    let p := portOf s die
    if crc8 (bitsDown 56 (w / 256)) ≠ w % 256 ∨ (p.phase ≠ .training ∧ p.phase ≠ .recovery) ∨ p.step = 0 ∨ 4 < p.step then s
    else
      let id := bitsOf w 56 4
      let s1 := modPort s die fun p =>
        { p with
          peerSeen := some (bitsOf w 16 8, bitsOf w 12 4, bitsOf w 24 8)
          lanes := mmod {} p.lanes lane fun l =>
            let l1 := answerTaps l (bitsOf w 52 4) (bitsOf w 44 8)
            let l2 := measurePreset l1 p.step margin.toNat
            { l2 with locked := true, logical := (if id ≤ 8 then id else 15), peerDone := l2.peerDone || w.testBit 35 } }
      let s2 := trainAdvance s1 die
      let q := portOf s2 die
      let l := mget {} q.lanes lane
      send s2 (.training die lane (ctlWord q.step (min l.txLogical 8) (if q.step = 2 then min l.tried 7 else 15) 0 l.cstat.toNat l.done
        (modId s2 die) die))

/-- TRAINING_BURST (R357): a down or lost port that is enabled sends training blocks on every lane; a lost port waits for a peer
from then on in the down state (R353; note 61). -/
def execTrainingBurst (die : Die) (s : State) : Out :=
  .next <|
    let p := portOf s die
    if portEn s die ∧ (p.phase = .down ∨ p.phase = .lost) then
      (List.range 9).foldl (fun a n => send a (.training die n (ctlWord 1 n 15 0 0 false (modId s die) die)))
        (modPort s die fun p => { p with phase := .down })
    else s

/-- SIGNAL_DETECT (R346, R357): on eight lanes or more, full training of a down or lost port starts. -/
def execSignalDetect (die : Die) (lanes : Fin 10) (s : State) : Out :=
  .next <|
    let p := portOf s die
    if portEn s die ∧ (p.phase = .down ∨ p.phase = .lost) ∧ 8 ≤ lanes.val then
      beginTraining (modPort s die fun p => { p with attempts := 0, peerSeen := none }) die false .training
    else s

/-- VL_BITSLIP.GO (R348): during manual alignment at step 5 the lane's group moves by UI; otherwise ignored with BSERR, during
recovery too (R363). -/
def bitSlip (s : State) (d : Nat) : State :=
  let p := portOf s d
  if p.step = 5 ∧ p.phase = .training ∧ flag s (vlR d 4) 30 then
    let ph := fld s (vlR d 0x10) 9 4
    let g := (mget {} p.lanes ph).logical / 4
    modPort s d fun p => { p with cwShift := mput p.cwShift g ((mget 0 p.cwShift g + fld s (vlR d 0x10) 0 9) % 340), cwGood := mput p.cwGood g 0 }
  else setFlag s (vlR d 0) 26 true

/-! ## Lane swaps and recovery (R351, R352) -/

/-- LANE_SPARE_TRIGGER (R351): physical lane `lane` exceeded its threshold or lost its signal or lock. With LS clean and free
the receiver asks for a swap and the fault signature is exported; otherwise recovery (R363). -/
def execLaneSpareTrigger (die : Die) (lane : Fin 9) (lsClean : Bool) (s : State) : Out :=
  .next <|
    let p := portOf s die
    let n := (mget {} p.lanes lane).logical
    if p.phase ≠ .up ∨ 8 ≤ n then s
    else if p.spareUsed ∨ p.swap.isSome ∨ ¬ lsClean then startRecovery s die
    else
      let s1 := modPort s die fun p => { sendLc p [1, BitVec.ofNat 8 n] with swap := some ⟨n, true, none⟩ }
      faultSig s1 { fsid := 0x20, kind := 4, die := die, unit := die, action := 1, sev := 2, detail := leBytes 1 lane.val ++ leBytes 1 n }

/-- SWAPREQ (R351 step 2): the transmitter mirrors the lane onto LS and names the switch period, 16 periods ahead. -/
def execSwapreq (die : Die) (s : State) : Out :=
  withLc s die 1 fun b s =>
    modPort s die fun p =>
      let t := (p.period + 16) % 2 ^ 32
      { sendLc p ([2, BitVec.ofNat 8 (byteAt b 1), 0, 0] ++ leBytes 4 t) with swap := some ⟨byteAt b 1 % 8, false, some t⟩ }

/-- SWAPACK (R351 step 3): the receiver learns the switch period. -/
def execSwapack (die : Die) (s : State) : Out :=
  withLc s die 2 fun b s =>
    modPort s die fun p =>
      match p.swap with
      | some w => if w.receiver ∧ w.lane = byteAt b 1 then { p with swap := some { w with period := some (fieldLe b 4 4) } } else p
      | none => p

/-- A lane as the switch leaves it: of the receiver the old lane goes out of service and LS takes its number; of the transmitter the old lane
stops. -/
def moveLane (rx : Bool) (n i : Nat) (l : Lane) : Lane :=
  if rx then (if l.logical = n ∧ i ≠ 8 then { l with logical := 15, out := true } else if l.logical = 8 then { l with logical := n } else l)
  else (if l.txLogical = n ∧ i ≠ 8 then { l with txLogical := 15 } else if i = 8 then { l with txLogical := n } else l)
/-- A recovery that has succeeded with the same peer (R352): the port is up again, its kept frames are resent, and their attempts count
anew. -/
def recovered (s : State) (d : Nat) : State :=
  startReplay (modPort s d fun p =>
    { p with phase := .up, step := 6, recoverAt := none, recoverStep := 0, kept := p.kept.map (fun k => { k with resends := 0 }) }) d

/-- SWAP_SWITCH (R351 steps 4 and 5; R352): at the period the receiver takes the lane from LS, the transmitter stops the old lane;
the physical lane replaced stays out of service. Plumb starts that lane's measurement again (R360). A recovery whose first try this is
has succeeded. -/
def execSwapSwitch (die : Die) (s : State) : Out :=
  .next <|
    let p := portOf s die
    match p.swap with
    | some ⟨n, rx, some t⟩ =>
      if (p.period + 2 ^ 32 - t) % 2 ^ 32 ≥ 2 ^ 31 then s
      else
        let s1 := modPort s die fun p =>
          { p with
            lanes := (List.range 9).foldl (fun a i => mmod {} a i (moveLane rx n i)) p.lanes
            spareUsed := p.spareUsed || rx, lsMap := (if rx then n else p.lsMap), swap := none
            plumb := (match p.plumb with
              | some q => some { q with counts := mput q.counts n 0, ab := mput q.ab n 0, ba := mput q.ba n 0 }
              | none => none) }
        if rx ∧ trySwap p then recovered s1 die else s1
    | _ => s

/-- RECOVERY (R352): the next of its three tries: a lane swap where one lane is to blame and LS is clean, a fast retrain, one
full retrain. -/
def execRecovery (die : Die) (blame : Option (Fin 9)) (lsClean : Bool) (s : State) : Out :=
  .next <|
    let s0 := if (portOf s die).phase = .up then startRecovery s die else s
    let p := portOf s0 die
    if p.phase ≠ .recovery then s0
    else match p.recoverStep, blame with
      | 0, some l =>
        let n := (mget {} p.lanes l).logical
        if lsClean ∧ ¬ p.spareUsed ∧ n < 8 then
          modPort s0 die fun p => { sendLc p [1, BitVec.ofNat 8 n] with recoverStep := 1, swap := some ⟨n, true, none⟩ }
        else beginTraining (modPort s0 die fun p => { p with recoverStep := 2 }) die true .recovery
      | 0, none => beginTraining (modPort s0 die fun p => { p with recoverStep := 2 }) die true .recovery
      | 1, _ => beginTraining (modPort s0 die fun p => { p with recoverStep := 2 }) die true .recovery
      | 2, _ => beginTraining (modPort s0 die fun p => { p with recoverStep := 3 }) die false .recovery
      | _, _ => s0

/-- SURPRISE_REMOVAL (R356, R363): signal lost on all lanes for 1 µs, or the cable gone: a swap or measurement is abandoned and
recovery starts; without its cable the port's supply is off (20 R497). -/
def execSurpriseRemoval (die : Die) (cable : Bool) (s : State) : Out :=
  .next <|
    let s0 := if cable then
        modPwr s fun p => { p with cprs := p.cprs &&& ~~~(1#16 <<< die.val), cbl := p.cbl &&& ~~~(1#16 <<< die.val) }
      else s
    let p := portOf s die
    match p.phase with
    | .up | .lp1 | .lp2 | .recovery =>
      startRecovery (modPort (setFlag s0 (vlR die 0x20) 31 false) die fun p => { p with swap := none, plumb := none }) die
    | .training => modPort s0 die fun p => { p with phase := .down, step := 0 }
    | _ => s0

/-! ## Low power (R354, R355, R363) -/

/-- Whether the port may ask for low power: up, no group crossing, nothing queued, unacknowledged or outstanding. -/
def mayRest (s : State) (d : Nat) : Bool :=
  let p := portOf s d
  p.phase == .up && (groupsCross s d).isEmpty && !holdsTraffic p && p.lpAsked.isNone && !p.refuse

/-- A low-power request sent (R355). -/
def askLp (s : State) (d st : Nat) : State :=
  if mayRest s d then modPort s d fun p => { sendLc p [3, BitVec.ofNat 8 st] with lpAsked := some st } else s

/-- LP1_IDLE_EXPIRY (R355): with LP1 allowed, and no flit sent for LP1IDLE, LP1 is asked for. -/
def execLp1IdleExpiry (die : Die) (s : State) : Out :=
  .next (if flag s (vlR die 0x18) 30 ∧ (portOf s die).quietAt + 100 * fld s (vlR die 0x18) 0 16 ≤ mltNs s then askLp s die 1 else s)

/-- LPREQ (R355, R363): refused while this end holds traffic or a Cascade group crosses; requests of both ends in one period
give LP1 if either asks LP1. -/
def execLpreq (die : Die) (s : State) : Out :=
  withLc s die 3 fun b s =>
    let p := portOf s die
    let held := !(groupsCross s die).isEmpty || (p.txq.any (fun e => e.1 / 65536 != 6)) || p.outst.any (fun e => !e.2.isEmpty)
    if p.phase ≠ .up then s
    else if held then modPort s die fun p => sendLc p [5, BitVec.ofNat 8 (byteAt b 1)]
    else
      let st := match p.lpAsked with
        | some x => if x = 1 ∨ byteAt b 1 = 1 then 1 else 2
        | none => byteAt b 1
      modPort s die fun p => { sendLc p [4, BitVec.ofNat 8 st] with lpAt := some (st, (p.period + 1) % 2 ^ 32) }

/-- LPACK (R355): both directions enter the state at the next codeword period. -/
def execLpack (die : Die) (s : State) : Out :=
  withLc s die 4 fun b s =>
    modPort s die fun p => if p.lpAsked.isSome then { p with lpAt := some (byteAt b 1, (p.period + 1) % 2 ^ 32), lpAsked := none } else p

/-- LPNAK (R355): the requester stays up. -/
def execLpnak (die : Die) (s : State) : Out :=
  withLc s die 5 fun _ s => modPort s die fun p => { p with lpAsked := none }

/-- The low-power state is entered at its period, once its acknowledgement has been sent. -/
def enterLp (p : Port) : Port :=
  match p.lpAt with
  | some (st, t) =>
    if p.txq.isEmpty ∧ (p.period + 2 ^ 32 - t) % 2 ^ 32 < 2 ^ 31 then { p with phase := (if st = 1 then .lp1 else .lp2), lpAt := none, lpAsked := none }
    else p
  | none => p

/-- A port in LP1 or LP2 leaves it toward up: its flits are sent after the exit time (R354). -/
def wakePort (s : State) (d : Nat) (tone : Bool) : State :=
  let t := mltNs s
  match (portOf s d).phase with
  | .lp1 => modPort s d fun p => { p with phase := .up, quietAt := t, wakeAt := some (t + 2000000, t + 1000) }
  | .lp2 =>
    let s1 := modPort s d fun p => { p with phase := .up, quietAt := t, wakeAt := some (t + 2000000, t + 2000000) }
    if tone then send s1 (.wakeTone d) else s1
  | _ => s

/-- PORT_WAKE (R355, R363): a flit queued, or a Cascade group configured across the port, wakes it; LP2 by a tone on LS. -/
def execPortWake (die : Die) (s : State) : Out :=
  .next (if !(portOf s die).txq.isEmpty || !(groupsCross s die).isEmpty then wakePort s die true else s)

/-- WAKE_TONE (R355): the peer's tone on LS takes a port in LP2 toward up. -/
def execWakeTone (die : Die) (s : State) : Out :=
  .next (if (portOf s die).phase = .lp2 then wakePort s die false else s)

/-- WAKE_TIMEOUT (R355): the peer did not wake within 2 ms: recovery. -/
def execWakeTimeout (die : Die) (s : State) : Out :=
  .next <|
    match (portOf s die).wakeAt with
    | some (t, _) => if t ≤ mltNs s then startRecovery (modPort s die fun p => { p with wakeAt := none }) die else s
    | none => s

/-! ## Module identity (R337) -/

/-- IDUPD (R337): the peer's new module ID. -/
def execIdupd (die : Die) (s : State) : Out :=
  withLc s die 9 fun b s => modPort s die fun p => { p with peerMod := byteAt b 1 }

/-! ## Plumb (R359 to R361) -/

/-- A measurement starts (R360), or the running one starts again, for the surveys that wait for it and those named (R362). -/
def startPlumb (s : State) (d : Nat) (surveys : List Nat) : State :=
  if (portOf s d).phase = .up then
    setFlag (modPort s d fun p => { p with plumb := some { surveys := (match p.plumb with | some q => q.surveys | none => []) ++ surveys } }) (vlR d 0x20) 31 true
  else s

/-- PLUMB_TS sent for the present period: its number and the device time of its boundary, in 1/65,536 ns (R332, R358) (DEDUCED, note 47). -/
def sendTs (s : State) (d : Nat) : State :=
  modPort s d fun p => sendLc p ([6, 0, 0, 0] ++ leBytes 4 p.period ++ leBytes 8 (devFrac s % 2 ^ 64))

/-- PLUMB_SAMPLE (R360): the next sample of a running measurement begins, 10 × 2^RATE µs after the one before. -/
def execPlumbSample (die : Die) (s : State) : Out :=
  .next <|
    match (portOf s die).plumb with
    | none => s
    | some q =>
      if (portOf s die).phase ≠ .up ∨ mltNs s < q.nextAt then s
      else modPort (sendTs s die) die fun p =>
        { p with plumb := some { q with waiting := true, sentPeriod := p.period, baPending := [], nextAt := mltNs s + 10000 * 2 ^ fld s (vlR die 0x1C) 20 4 } }

/-- The means of a finished measurement in units of 0.25 ps (R359, R361), rounded down (DESIGN CHOICE, note 112). -/
def plumbResult (q : PlumbRun) : PlumbRes :=
  let mean (x : Int) : Int := x * 4000 / (65536 * 1024)
  let ab (i : Nat) : Int := mget 0 q.ab i
  let ba (i : Nat) : Int := mget 0 q.ba i
  let idx := List.range 9
  { rtt := idx.map (fun i => mean (ab i + ba i))
    local_ := idx.map (fun i => mean (ba i - ba 0))
    peer := idx.map (fun i => mean (ab i - ab 0)) }

/-- The lane pairs that drifted from the baseline by more than THR (R361). -/
def drifted (thr : Nat) (base res : PlumbRes) : List Nat :=
  (List.range 9).filter (fun i =>
    decide (thr < (res.rtt.getD i 0 - base.rtt.getD i 0).natAbs) || decide (thr < (res.local_.getD i 0 - base.local_.getD i 0).natAbs))

/-- PLUMB_LOG (R361): with CONT set, every LOGH hours, the last measurement is written to the port's ring of 512 records, compared with the
baseline and a drift reported; the first one is the baseline. -/
def execPlumbLog (die : Die) (s : State) : Out :=
  .next <|
    match (portOf s die).plumbRes with
    | none => s
    | some r =>
      if !flag s (vlR die 0x1C) 30 ∨ ((portOf s die).plumbBase.isSome ∧ mltNs s < (portOf s die).loggedAt + 3600000000000 * fld s (vlR die 0x1C) 16 4) then s
      else
        let base := (portOf s die).plumbBase.getD r
        let dr := drifted (fld s (vlR die 0x1C) 0 16) base r
        let mask := dr.foldl (fun a i => a ||| (1 <<< i)) 0
        let body := leBytes 8 (devSec s) ++ r.rtt.flatMap (fun x => leBytes 4 (encodeInt 32 x))
          ++ r.local_.flatMap (fun x => leBytes 2 (encodeInt 16 x)) ++ leBytes 2 mask
        let i := (portOf s die).plumbNext
        let s1 := flashWrite s (0x100000 + die * 32768 + i * 64) body
        let s2 := modPort s1 die fun p => { p with plumbBase := some base, plumbNext := (i + 1) % 512, loggedAt := mltNs s }
        match dr.getLast? with
        | none => s2
        | some l =>
          faultSig (setFld (setFlag s2 (vlR die 0x20) 29 true) (vlR die 0x20) 25 4 l)
            { fsid := 0x22, kind := 4, die := die, unit := die, sev := 3,
              detail := leBytes 1 l ++ leBytes 4 (encodeInt 32 (base.rtt.getD l 0)) ++ leBytes 4 (encodeInt 32 (r.rtt.getD l 0)) }

end Sys2Proof.Machine
end

