-- ==== Sys2Proof/Machine/Packet.lean ====
section
/-! DEFINITION. Transport packets of the Vidonlink: the header, routes, sending and taking a packet (14 R337, R338, R341). -/

namespace Sys2Proof.Machine

/-- A transport packet (R337): its header fields and its payload lines. -/
structure Pkt where
  typ : Nat
  dmod : Nat
  ddie : Nat
  sdie : Nat
  smod : Nat
  hops : Nat := 0
  cls : Nat := 3
  part : Nat := 0
  tag : Nat := 0
  gen : Nat := 0
  lines : Nat := 1
  status : Nat := 0
  addr : Nat := 0
  payload : List Line := []
  deriving DecidableEq, Repr

/-- The 16-byte header of R337, little-endian. -/
def pktHeader (p : Pkt) : List Byte :=
  leBytes 16
    (p.typ % 256 + p.dmod % 256 * 2 ^ 8 + p.ddie % 16 * 2 ^ 16 + p.sdie % 16 * 2 ^ 20 + p.smod % 256 * 2 ^ 24 +
      p.hops % 16 * 2 ^ 32 + p.cls % 4 * 2 ^ 36 + p.part % 64 * 2 ^ 38 + p.tag % 4096 * 2 ^ 44 + p.gen % 16 * 2 ^ 56 +
      (p.lines - 1) % 64 * 2 ^ 64 + p.status % 256 * 2 ^ 72 + p.addr % 2 ^ 32 * 2 ^ 96)
/-- The flits of a packet: the header, then the payload; unused bytes are 0 (R337). -/
def pktFlits (p : Pkt) : List Line := toLines (pktHeader p ++ p.payload.flatMap lineBytes)

/-- The header of a packet's first flit. -/
def pktOf (f : Line) : Pkt :=
  let x := f.toNat
  { typ := bitsOf x 0 8, dmod := bitsOf x 8 8, ddie := bitsOf x 16 4, sdie := bitsOf x 20 4, smod := bitsOf x 24 8
    hops := bitsOf x 32 4, cls := bitsOf x 36 2, part := bitsOf x 38 6, tag := bitsOf x 44 12, gen := bitsOf x 56 4
    lines := bitsOf x 64 6 + 1, status := bitsOf x 72 8, addr := bitsOf x 96 32 }

/-- The virtual lane of a packet type: RQ 2, RS 3, MG 4 (R332, R338). -/
def pktVl (typ : Nat) : Nat := if typ ≤ 3 then 2 else if typ ≤ 5 then 3 else 4
/-- Payload lines a packet carries (R338). -/
def payloadLines (p : Pkt) : Nat :=
  if p.typ = 2 ∨ p.typ = 3 ∨ p.typ = 6 ∨ p.typ = 7 then p.lines else if p.typ = 4 ∧ p.status = 0 then p.lines else 0
/-- Flits of a packet: a header of 16 bytes and its payload. -/
def pktLen (p : Pkt) : Nat := payloadLines p + 1

/-- The packet at the front of a lane's receive buffer, once the whole of it has come. -/
def headPkt (s : State) (d vl : Nat) : Option Pkt :=
  let q := mget [] (portOf s d).rxq vl
  match q with
  | [] => none
  | f :: _ =>
    let p := pktOf f
    if q.length < pktLen p then none
    else
      let b := (q.take (pktLen p)).flatMap lineBytes
      some { p with payload := toLines ((b.drop 16).take (64 * payloadLines p)) }

/-- A packet queued at a port. -/
def queuePkt (s : State) (d : Nat) (p : Pkt) : State :=
  modPort s d fun t => enqueue t (pktVl p.typ) (if pktVl p.typ = 4 then 0 else p.cls) (pktFlits p)

/-- The port toward a module (R341): its valid route, up, the hop limit not reached. -/
def routeOf (s : State) (d dmod hops : Nat) : Option Nat :=
  let k := vlR d (0x400 + 4 * dmod)
  let n := fld s k 0 4
  if flag s k 31 ∧ (portOf s n).phase = .up ∧ hops < 8 then some n else none

/-- A packet or express message discarded (R338, R339, R341). -/
def noRoute (s : State) (d : Nat) : State := bump s (vlR d 0x14) 0 8 1

/-- A management packet sent to the peer of a port. Its payload is the model's own (DESIGN CHOICE, note 57): a kind byte and the fields
of the rule that owns it. -/
def sendMgmt (s : State) (d : Nat) (body : List Byte) : State :=
  queuePkt s d
    { typ := 6, dmod := (portOf s d).peerMod, ddie := (portOf s d).peerPort, sdie := d, smod := modId s d
      lines := max 1 (ceilDiv body.length 64), payload := toLines body }

end Sys2Proof.Machine
end

