-- ==== Sys2Proof/Machine/OpEnd.lean ====
section
/-! DEFINITION. How an operation ends before its own end: STOP to its tiles, its code, what its record says (05 R127, R133; 16
R415, R421). -/

namespace Sys2Proof.Machine

/-- STOP reaches a tile (05 R127). -/
def stopTile (t : Tile) : Tile :=
  if t.seq.status = .idle then { t with ended := true }
  else acceptReqs { t with seq := { t.seq with reqs := { t.seq.reqs with stop := true } } }

/-- STOP to every tile of an operation but those `keep` names. -/
def stopTiles (s : State) (k : Nat) (keep : Nat → Bool) : State :=
  { s with tiles := s.tiles.map (fun e =>
      match e.2.part with
      | some c => if c.op = k ∧ ¬ keep e.1 then (e.1, stopTile e.2) else e
      | none => e) }

/-- Whether an operation is past the point where an event can end it early (16 R415, R416). -/
def decided (o : Op) : Bool := o.phase == .committed || o.phase == .recordDue

/-- What an operation's record says, with the format flags of its tiles ORed in, also of those that have not passed END (02 R57). -/
def tileFlags (s : State) (k : Nat) (i : RecInfo) : RecInfo :=
  (s.tiles.filter (fun e => match e.2.part with | some c => c.op == k | none => false)).foldl
    (fun i e => { i with nv := i.nv || e.2.nv, ovf := i.ovf || e.2.ovf, unf := i.unf || e.2.unf }) i
/-- An operation with the flags of its tiles. -/
def foldFlags (s : State) (k : Nat) : State := modOp s k fun o => { o with info := tileFlags s k o.info }

/-- Whether partition `pn` is in a lock-step pair (09 R235). -/
def inPair (s : State) (pn : Nat) : Bool := s.pairs.any (fun q => q.primary == pn || (q.module == 0xFF && q.mirror == pn))
/-- Whether an operation is one that is held and replayed (09 R221, R238): of a replay-enabled partition and of no lock-step pair. -/
def replayable (s : State) (o : Op) : Bool := !inPair s o.part && (match partOf s o.part with | some p => p.replay | none => false)
/-- Whether E_ECC only ends a run, to be held or replayed (09 R221, R225): the suspect event of the error is pending. A Cascade step completes with it
(08 R198). -/
def eccRun (s : State) (o : Op) (code : BitVec 8) : Bool :=
  code == 0x50 && o.phase == .running && byteAt o.desc 0 != 2 && (!o.runs.isEmpty || (o.suspect && replayable s o))

/-- An event ends an operation early with a code (16 R421): its tiles stop, nothing is committed, and its record is due, with SUSP where a suspect
event is pending for E_ECC (09 R221). Of an operation past its decision nothing changes. -/
def endOp (s : State) (k : Nat) (code : BitVec 8) (f : RecInfo → RecInfo) : State :=
  match opOf s k with
  | none => s
  | some o =>
    if decided o then s
    else
      let s1 := stopTiles (foldFlags s k) k (fun _ => false)
      if eccRun s o code then
        modOp s1 k fun o => { o with badRun := true, finished := true, own := if o.runs.isEmpty then code else o.own, info := f o.info }
      else modOp s1 k fun o =>
        { o with phase := .recordDue, code := code, info := { f o.info with susp := (f o.info).susp || (code == 0x50 && o.suspect) }, seedE := 0 }

/-- A partition of a group that works on a die. -/
def partOn (s : State) (g : Group) (d : Nat) : Option Nat :=
  g.parts.find? (fun pn => match partOf s pn with | some p => (spanDies p).contains d | none => false)
/-- The die on which a station's contribution of a logical tile lies: its own, or that of the replay that made it (09 R224). -/
def contribDie (s : State) (g : Group) (st : Station) (lt : Nat) : Nat :=
  match (partOn s g st.die).bind (partOf s) with | some p => mget st.die p.contribOn (ltKey st.die lt) | none => st.die
/-- Whether a group has a step in flight or a CASCADE operation that has not completed. -/
def groupBusy (s : State) (gn : Nat) : Bool :=
  s.csteps.any (fun e => e.2.group == gn) ||
    s.ops.any (fun e => byteAt e.2.desc 0 == 2 && fieldLe e.2.desc 48 2 == gn && e.2.phase != .recordDue)
/-- Whether an allocation of a logical tile holds a contribution of a Cascade step to come or in flight: it stays until the step's marker
(08 R203). -/
def contribAlloc (s : State) (d lt : Nat) (a : Alloc) : Bool :=
  s.groups.any (fun e => groupBusy s e.1 && e.2.stations.any (fun st => st.rank == e.2.myRank && contribDie s e.2 st lt == d &&
    ((e.2.map.drop st.first).take st.count).any (fun c => c.lt == lt && decide (a.first ≤ c.unit) && decide (c.unit < a.first + a.count))))

/-- A tile that no longer holds a part (05 R114): its allocations are freed but those `keep` names, a faulted tile becomes idle. -/
def clearPart (keep : Alloc → Bool) (t : Tile) : Tile :=
  { t with
    part := none, ended := false,
    seq := (if t.seq.status = .fault ∨ t.seq.status = .run ∨ t.seq.status = .held ∨ t.seq.status = .wlch then { t.seq with status := .idle } else t.seq),
    mem := { t.mem with allocs := t.mem.allocs.filter keep, array := [], wbs := [] },
    fetch := { t.fetch with running := false, pending := [], mark := none } }

/-- The tiles of an operation given back when it completes (05 R114, last paragraph). -/
def freeTiles (s : State) (k : Nat) : State :=
  { s with tiles := s.tiles.map (fun e =>
      match e.2.part with
      | some c => if c.op = k then (e.1, clearPart (contribAlloc s (e.1 / 136) c.lt) e.2) else e
      | none => e) }

/-- Whether every tile of an operation has stopped (05 R127): none is still running, saving or restoring. -/
def tilesQuiet (s : State) (k : Nat) : Bool :=
  s.tiles.all (fun e =>
    match e.2.part with
    | some c => c.op != k || (match e.2.seq.status with | .idle => true | .fault => true | .test => true | _ => false)
    | none => true)

/-- The operation's key names a context. -/
def ctxOf (k : Nat) : Nat := k / 2 ^ 33 % 2 ^ 13
/-- The operation's ring: whether it is the express ring. -/
def ringOf (k : Nat) : Bool := (k / 2 ^ 32).testBit 0

end Sys2Proof.Machine
end

