-- ==== Sys2Proof/Machine/QueueBase.lean ====
section
/-! DEFINITION. What every operation shares: the fields of its descriptor (16 R406, R407), when it may be dispatched (R414,
R417; 11 R275; 07 R175), where its addresses resolve (09 R224), how it comes to its end (16 R421). -/

namespace Sys2Proof.Machine

/-! ## Descriptor fields (R406, R407) -/

/-- A field of the descriptor. -/
def dF (o : Op) (off n : Nat) : Nat := fieldLe o.desc off n
/-- OPC. -/
def opcOf (o : Op) : Nat := byteAt o.desc 0
/-- FLAGS bit `i`: 0 IRQ, 1 RUNANY, 2 STEPEND, 3 ENT, 4 RDIG, 5 LTB, 7 GEN. -/
def opFlag (o : Op) (i : Nat) : Bool := (byteAt o.desc 1).testBit i
/-- OPID. -/
def opId (o : Op) : Nat := dF o 4 4
/-- LAUNCH. -/
def opLaunch (o : Op) : Nat := dF o 16 8
/-- The operation seed of R174: OP_SEED, xored with E where ENT = 1. -/
def opSeed (o : Op) : W64 :=
  let s := BitVec.ofNat 64 (dF o 8 8)
  if opFlag o 3 then s ^^^ o.seedE else s
/-- Whether STEPEND applies: a KERNEL or CASCADE (R417). -/
def stepEnd (o : Op) : Bool := opFlag o 2 && decide (opcOf o ≤ 2)
/-- The CAPS word of a KERNEL's dispatch record (R409). -/
def capsOf (o : Op) : Nat := if opcOf o = 1 then fieldLe o.drec 4 4 else 0

/-! ## Operand ranges and lists -/

/-- The operation a command names, with its key: of an earlier enable of the context first. -/
def named (s : State) (ctx : Fin 4096) (express : Bool) (opseq : W32) : Option (Nat × Op) :=
  s.ops.find? (fun e => e.2.ctx == ctx.val && e.2.express == express && e.2.opseq == opseq.toNat)

/-! ## Dispatch -/

/-- Whether the features of 09 R231 are refused to a partition's operations. -/
def strict (s : State) (pn : Nat) : Bool := detOn s || inPair s pn

/-- Whether the steps of R417 let an operation be dispatched: no STEPEND operation fetched before it waits for its boundary, and
the module manager waits for none. -/
def stepFree (s : State) (pn : Nat) (p : Partition) (o : Op) : Bool :=
  let pend := s.ops.any (fun e => e.2.part == pn && stepEnd e.2 && !decide (o.order ≤ e.2.order))
  let due := p.stepDue.any (fun n => decide (n < o.order))
  let anyStep := !p.stepDue.isEmpty || s.ops.any (fun e => e.2.part == pn && stepEnd e.2)
  !pend && !due && !(p.boundaryWanted && !anyStep)

/-- Whether the capabilities an operation asks for are set (11 R275). -/
def capsSet (s : State) (o : Op) : Bool := capsOf o &&& (raw s (cfgB + 4)).toNat == capsOf o

/-- Whether a ready operation may be dispatched: its capabilities, its entropy seed (07 R175), its partition's steps. -/
def mayDispatch (s : State) (o : Op) : Bool :=
  o.phase == .ready && capsSet s o && (!opFlag o 3 || o.seedDrawn || strict s o.part) &&
    (match partOf s o.part with | some p => stepFree s o.part p o | none => true)

/-- An operation dispatched to run on a die. -/
def startOp (s : State) (k d : Nat) : State :=
  modOp s k fun o =>
    { o with
      phase := .running, started := true, dispatchedAt := mltNs s, runDie := d, det := detOn s, strictAt := strict s o.part, finished := false
      startSteps := match partOf s o.part with | some p => p.steps | none => 0 }

/-- The unit that runs an operation has reached its end: its commit decision is due (09 R220). -/
def finishOp (s : State) (k : Nat) : State := modOp s k fun o => { o with finished := true }

/-- An operation completed without a commit decision (CANCEL, NOP, a management operation, one ended before it starts). -/
def completeOp (s : State) (k : Nat) (code : BitVec 8) : State :=
  modOp s k fun o => { o with phase := .recordDue, code := code, seedE := 0 }

/-- An operation ended with a code by an access to die `d`: a refused one leaves its address in XADDR (16 R419), an uncorrectable
error is a suspect event of the die (09 R219). -/
def endAddr (s : State) (k : Nat) (code : BitVec 8) (addr d : Nat) : State :=
  endOp (if code = 0x50 then suspect s d 1 else s) k code fun i => { i with xaddr := if code = 0x22 then BitVec.ofNat 32 addr else i.xaddr }

/-- The flags of 02 R57 added to an operation. -/
def opFlags (s : State) (k : Nat) (f : FlagSet) : State :=
  modOp s k fun o => { o with info := { o.info with nv := o.info.nv || f.nv, ovf := o.info.ovf || f.ovf, unf := o.info.unf || f.unf } }

/-- The die an address of spaces 0b00 and 0b01 resolves on for a unit of the run on die `d` (09 R224): weights on the run's die,
everything else on the original's. -/
def resolveDie (s : State) (pn orig d addr : Nat) : Nat :=
  match partOf s pn with
  | some p => if inWeights p addr then d else orig
  | none => d

/-! ## Bytes in lines -/

/-- Bytes `b` written from byte `off` of a line's address on: lines covered in part are read, changed and written; of a write
of which one line is refused nothing is stored; a poisoned line covered in part stays poisoned (13 R316). -/
def writeBytesFuel (s : State) (pn d : Nat) : Nat → Nat → Nat → List Byte → Status × State
  | 0, _, _, _ => (0, s)
  | n + 1, addr, off, b =>
    if b.isEmpty then (0, s)
    else
      let part := b.take (64 - off)
      let whole := decide (part.length = 64)
      let old := readLine s pn d addr
      let r : Status × State :=
        if whole then writeLine s pn d addr (lineOf part)
        else if old.1 = 0 then
          let ob := lineBytes old.2
          writeLine s pn d addr (lineOf (ob.take off ++ part ++ ob.drop (off + part.length)))
        else (old.1, s)
      let q := writeBytesFuel r.2 pn d n (addr + 1) 0 (b.drop (64 - off))
      (if r.1 = 0 then q.1 else r.1, q.2)

/-- The mirror on this module of a lock-step primary (09 R235). -/
def mirrorOf (s : State) (pn : Nat) : Option Nat := (s.pairs.find? (fun q => q.primary == pn && q.module == 0xFF)).map (fun q => q.mirror)
/-- The die of the mirror at the span position of a die of the primary. -/
def mirrorDie (s : State) (pn m d : Nat) : Option Nat :=
  match partOf s pn, partOf s m with
  | some p, some q =>
    spanDie q ((allDies.filter (fun e => p.cur.span.testBit e)).findIdx (fun e => mget e p.aliases e == d))
  | _, _ => none

/-- Bytes written from a byte offset of a line on; the mirror on this module of a lock-step primary takes what its own run gives, `bm`, at the same
address (09 R235; DEDUCED, note 159). -/
def writeBoth (s : State) (pn d addr off : Nat) (b bm : List Byte) : Status × State :=
  let n := ceilDiv (off + b.length) 64
  match writable s pn d addr n with
  | 0 =>
    let r := writeBytesFuel s pn d (n + 1) addr off b
    match mirrorOf s pn with
    | none => r
    | some m => (r.1, match mirrorDie s pn m d with | some e => (writeBytesFuel r.2 m e (n + 1) addr off bm).2 | none => r.2)
  | e => (e, s)
/-- Bytes written that are the same on both sides of a pair: host transfers, and results that depend on no memory of the partition. -/
def writeBytes (s : State) (pn d addr off : Nat) (b : List Byte) : Status × State := writeBoth s pn d addr off b b

/-! ## Destinations that hold unspecified data (05 R133 step 5; 16 R415; 09 R226) -/

/-- The die on which a tile's logical address resolves (09 R224). -/
def tileDie (s : State) (d : Nat) (c : PartCtx) (addr : Nat) : Nat :=
  resolveDie s c.part c.homeDie d addr

/-- A destination an operation has written, kept until the operation ends. -/
def addDest (s : State) (k : Nat) (x : OutRange) : State := modOp s k fun o => { o with dests := o.dests ++ [x] }

/-- Free bytes. -/
def freeBytes (n count : Nat) : List Byte := (upTo count).map (fun i => Config.freeByte (n + i))

/-- A destination takes free bytes. -/
def loosen (s : State) (x : OutRange) : State :=
  { (writeBytesFuel s x.part x.die (ceilDiv (x.off + x.bytes) 64 + 1) x.addr x.off (freeBytes s.fresh x.bytes)).2 with fresh := s.fresh + x.bytes }

/-- The destinations of the write-backs a tile has not finished. -/
def wbDests (s : State) (d p : Nat) : List OutRange :=
  match (tileOf s d p).part with
  | none => []
  | some c => (tileOf s d p).mem.wbs.map (fun b => { part := c.part, die := tileDie s d c b.addr, addr := b.addr, off := 0, bytes := 64 * b.data.length })

/-- The destinations an operation has written, and those its tiles' write-backs are on the way to, hold unspecified data: free
bytes. A write-back that lands afterwards writes free bytes too (DESIGN CHOICE, note 129). -/
def looseDests (s : State) (k : Nat) : State :=
  match opOf s k with
  | none => s
  | some o =>
    if decided o then s
    else
      let l := (o.dests ++ (tilesOfOp s k).flatMap (fun x => wbDests s x.1 x.2)).filter (fun x => writable s x.part x.die x.addr (ceilDiv (x.off + x.bytes) 64) == 0)
      modOp (l.foldl loosen s) k fun o => { o with loose := true }

/-- `n` bytes from a byte offset of a line on. -/
def readBytes (s : State) (pn d addr off n : Nat) : Status × List Byte :=
  let a := addr + off / 64
  let r := readLines s pn d a (ceilDiv (off % 64 + n) 64)
  (r.1, ((r.2.flatMap lineBytes).drop (off % 64)).take n)
/-- What the mirror of a lock-step primary reads at the same place: its own bytes; without a mirror those given (09 R235). -/
def mirrorBytes (s : State) (pn d addr off n : Nat) (own : List Byte) : List Byte :=
  match mirrorOf s pn with
  | none => own
  | some m => match mirrorDie s pn m d with | some e => (readBytes s m e addr off n).2 | none => own

end Sys2Proof.Machine
end

