-- ==== Sys2Proof/Machine/RunnelNet.lean ====
section
/-! DEFINITION. The shape of the Runnel (12 R284 to R287): where tiles and edge slots lie on the torus of routers, what each slot serves on
each plane, and the fixed route between two ports. -/

namespace Sys2Proof.Machine

/-! ## Routers (R284) -/

/-- Rows and columns of the torus of tile routers. -/
def runRows : Nat := 8
/-- Columns of the torus. -/
def runCols : Nat := 17
/-- The router of a port, by row and column: physical tile p at row p div 17 and column p mod 17; edge slot s (port 136 + s) at row 0 for
s below 17 and at row 7 above (R284, R286). -/
def routerOf (port : Nat) : Nat × Nat :=
  if port < 136 then (port / runCols, port % runCols)
  else let x := port - 136; if x < 17 then (0, x) else (7, x - 17)
/-- The neighbours of a router: columns c + 1 and c − 1 of its row, rows r + 1 and r − 1 of its column, around the torus (R284). -/
def neighboursOf (r : Nat × Nat) : List (Nat × Nat) :=
  [(r.1, (r.2 + 1) % runCols), (r.1, (r.2 + runCols - 1) % runCols), ((r.1 + 1) % runRows, r.2), ((r.1 + runRows - 1) % runRows, r.2)]

/-! ## Edge slots (R286) -/

/-- What an edge slot serves on a plane. -/
inductive SlotUse where
  | hbm (group : Nat)
  | basin (bank : Nat)
  | bridge (i : Nat)
  | d2d (dir : Nat)
  | vidonlink
  | hub
  | control
  | region (r : Nat)
  | unused
  deriving DecidableEq, Repr

/-- The four dies with a hub link (01 R21). -/
def hubDies : List Nat := [5, 6, 9, 10]
/-- The table of R286; directions of the die-to-die links are 0 column + 1, 1 column − 1, 2 row + 1, 3 row − 1. -/
def slotUse (die plane slot : Nat) : SlotUse :=
  if slot < 16 then
    match plane with
    | 0 => if slot % 4 = 0 then .d2d (slot / 4) else .unused
    | 3 => .d2d (slot / 4)
    | _ => .hbm slot
  else if slot = 16 then .control
  else match plane with
    | 0 => if slot = 17 then .vidonlink else if slot = 19 ∧ hubDies.contains die then .hub else .unused
    | 3 =>
      if slot = 17 ∨ slot = 18 then .vidonlink
      else if slot = 19 then (if hubDies.contains die then .hub else .unused)
      else if 20 ≤ slot ∧ slot < 24 then .bridge (slot - 20)
      else if 25 ≤ slot ∧ slot < 33 then .region (slot - 25)
      else .unused
    | _ => if slot < 25 then .basin (slot - 17) else if slot < 33 then .region (slot - 25) else .unused
/-- Whether a port exists on a plane: every tile port, and the edge slots that serve something there. -/
def portUsed (die plane port : Nat) : Bool :=
  decide (port < 136) || (decide (port < 170) && decide (slotUse die plane (port - 136) ≠ .unused))

/-! ## Routes (R287) -/

/-- One step around a ring of `n` from `a` toward `b`: the shorter way, a tie toward + 1. -/
def ringStep (n a b : Nat) : Nat :=
  if a = b then a
  else if 2 * ((b + n - a) % n) ≤ n then (a + 1) % n else (a + n - 1) % n
/-- Whether a step crosses the wrap link of its ring, where the dateline lies. -/
def wraps (a b : Nat) : Bool := decide (a + 1 < b) || decide (b + 1 < a)
/-- The steps around a ring of `n` from `a` to `b`, each with its virtual channel: the first before the dateline, the second from it on. -/
def ringPath (n b : Nat) : Nat → Nat → Nat → List (Nat × Nat)
  | 0, _, _ => []
  | k + 1, a, vc =>
    if a = b then []
    else
      let c := ringStep n a b
      let v := if wraps a c then 1 else vc
      (c, v) :: ringPath n b k c v
/-- The route between two ports (R287): along the row to the destination column, then along the column to the destination row (each ring
starts in its first virtual channel; DESIGN CHOICE, note 134). -/
def runRoute (src dst : Nat) : List Hop :=
  let a := routerOf src
  let b := routerOf dst
  (ringPath runCols b.2 runCols a.2 0).map (fun x => ⟨a.1, x.1, x.2⟩) ++ (ringPath runRows b.1 runRows a.1 0).map (fun x => ⟨x.1, b.2, x.2⟩)
/-- Hops of a route, with the edge hop of each end that is an edge slot (R287). -/
def runHops (src dst : Nat) : Nat := (runRoute src dst).length + b2n (decide (136 ≤ src)) + b2n (decide (136 ≤ dst))

/-! ## Die-to-die links and initiators (01 R19, R21; 06 R169; 12 R299) -/

/-- The direction of the first die-to-die hop from one die to another on a shortest path of the torus, along the row first, a tie toward
+ 1 as in R287 (DEDUCED, note 135). -/
def d2dDir (a b : Nat) : Nat :=
  if a % 4 ≠ b % 4 then (if ringStep 4 (a % 4) (b % 4) = (a % 4 + 1) % 4 then 0 else 1)
  else if ringStep 4 (a / 4) (b / 4) = (a / 4 + 1) % 4 then 2 else 3
/-- The next die in a direction. -/
def d2dNext (a dir : Nat) : Nat :=
  match dir with
  | 0 => a / 4 * 4 + (a + 1) % 4
  | 1 => a / 4 * 4 + (a + 3) % 4
  | 2 => (a + 4) % 16
  | _ => (a + 12) % 16
/-- The edge port of plane 3 by which line `addr` of another die leaves: one of the four of its direction, by the line (DESIGN CHOICE,
note 135). -/
def d2dPort (a b addr : Nat) : Nat := 136 + 4 * d2dDir a b + addr % 4
/-- The neighbours of a die in the torus with their die-to-die slots toward it (01 R19, 12 R286): the one whose column +1 it is, and so on. -/
def neighbourPorts (d : Nat) : List (Nat × List Nat) :=
  let r := d / 4
  let c := d % 4
  let four (b : Nat) : List Nat := (List.range 4).map (fun i => 136 + b + i)
  [(r * 4 + (c + 3) % 4, four 0), (r * 4 + (c + 1) % 4, four 4), ((r + 3) % 4 * 4 + c, four 8), ((r + 1) % 4 * 4 + c, four 12)]
/-- The port an initiator sits behind (R286, R299). -/
def initPort (i : Nat) : Nat :=
  if i < 136 then i else if i < 144 then 136 + 25 + (i - 136) else if i = 144 then 136 + 16 else if i = 145 then 136 + 19
  else if i = 146 then 136 + 17 else 136 + 4 * (i - 147)
/-- Whether an initiator of a die has a port on a plane (R257, R286): tiles and control on all four, a region on planes 1 to 3, the links on
planes 0 and 3, and the hub link on its four dies only. -/
def initOn (die init plane : Nat) : Bool :=
  if init < 136 ∨ init = 144 then true
  else if init < 144 then decide (plane ≠ 0)
  else (plane == 0 || plane == 3) && (init != 145 || hubDies.contains die)

end Sys2Proof.Machine
end

