-- ==== Sys2Proof/Machine/Cascade.lean ====
section
/-! DEFINITION. The Cascade: stations, pieces, schedule, commit, epochs and membership (08). -/

namespace Sys2Proof.Machine

/-! ## Groups and steps -/

/-- MLT in ps. -/
def mltPs (s : State) : Nat := s.clp.mlt * 1000 / 2 ^ 40
/-- The module ring order of R193. -/
def ringOrder : List Nat := [0, 1, 2, 3, 7, 6, 5, 4, 8, 9, 10, 11, 15, 14, 13, 12]
/-- A group. -/
def groupOf (s : State) (g : Nat) : Option Group := mfind s.groups g
/-- A group changed. -/
def modGroup (s : State) (g : Nat) (f : Group → Group) : State :=
  match mfind s.groups g with | some x => { s with groups := mput s.groups g (f x) } | none => s
/-- The key of a step. -/
def stepKey (g step : Nat) : Nat := g * 2 ^ 32 + step
/-- A step in flight. -/
def cstepOf (s : State) (g step : Nat) : Option CStep := mfind s.csteps (stepKey g step)
/-- A step changed. -/
def modStep (s : State) (g step : Nat) (f : CStep → CStep) : State :=
  match mfind s.csteps (stepKey g step) with
  | some x => { s with csteps := mput s.csteps (stepKey g step) (f x) }
  | none => s
/-- The station at a chain position. -/
def stationAt (g : Group) (pos : Nat) : Option Station := g.stations[pos]?
/-- Whether a station is a die of this module. -/
def isLocal (g : Group) (st : Station) : Bool := st.rank == g.myRank
/-- The local stations with their positions. -/
def localStations (g : Group) : List (Nat × Station) :=
  ((upTo g.stations.length).zip g.stations).filter (fun e => isLocal g e.2)
/-- The dies of a group's local stations. -/
def groupDies (g : Group) : List Nat := (localStations g).map (fun e => e.2.die)
/-- Whether the station that takes the commit decision, the last of the chain, is of this module. -/
def decides (g : Group) : Bool := match stationAt g (g.stations.length - 1) with | some st => isLocal g st | none => false
/-- Whether a group has stations of other modules. -/
def spansModules (g : Group) : Bool := g.stations.any (fun st => !isLocal g st)

/-- The fields of a CASCADE descriptor (R199; 16 R407). -/
def cscEpoch (o : Op) : Nat := dF o 32 4
/-- STEP. -/
def cscStep (o : Op) : Nat := dF o 36 4
/-- DST. -/
def cscDst (o : Op) : Nat := dF o 40 4
/-- PIECES. -/
def cscPieces (o : Op) : Nat := dF o 44 3
/-- CPATH. -/
def cscPath (o : Op) : Nat := dF o 47 1 % 4
/-- FAST. -/
def cscFast (o : Op) : Bool := (dF o 47 1).testBit 2
/-- AUTORPL. -/
def cscAuto (o : Op) : Bool := (dF o 47 1).testBit 3
/-- GROUP. -/
def cscGroup (o : Op) : Nat := dF o 48 2

/-- The CASCADE operations of this module that run a step: one for each partition of the group that has submitted it. -/
def stepOps (s : State) (g step : Nat) : List (Nat × Op) :=
  s.ops.filter (fun e => opcOf e.2 == 2 && cscGroup e.2 == g && cscStep e.2 == step && (e.2.phase == .running || e.2.phase == .held || e.2.phase == .committed))

/-! ## Schedule (R200, R205) -/

/-- A hop of a chain in one direction (R205): a die-to-die link or the cable of an outgoing port. -/
inductive CHop where
  | link (a b : Nat)
  | cable (port : Nat)
  deriving DecidableEq, Repr
/-- The die-to-die links from one die to another (01 R19), along the row first. -/
def linkPath (b : Nat) : Nat → Nat → List CHop
  | 0, _ => []
  | n + 1, a => if a = b then [] else .link a (d2dNext a (d2dDir a b)) :: linkPath b n (d2dNext a (d2dDir a b))
/-- The station before a position in the cyclic chain. -/
def prevOf (g : Group) (e : Nat × Station) : Station := (stationAt g ((e.1 + g.stations.length - 1) % g.stations.length)).getD e.2
/-- The hops of this module by which the chain enters a station, or leaves toward it from this module (R205). -/
def hopsInto (gn : Nat) (g : Group) (e : Nat × Station) : List CHop :=
  let p := prevOf g e
  if g.stations.length = 1 then []
  else if p.rank = e.2.rank then (if isLocal g e.2 then linkPath e.2.die 8 p.die else [])
  else (if isLocal g p then linkPath p.port 8 p.die ++ [.cable p.port] else []) ++ (if isLocal g e.2 then linkPath e.2.die 8 (Config.recvPort gn e.1) else [])
/-- The hops of this module that a group's chain crosses. -/
def chainHops (gn : Nat) (g : Group) : List CHop := (((upTo g.stations.length).zip g.stations).flatMap (hopsInto gn g)).eraseDups
/-- The number of groups that cross a hop in its direction (R205). -/
def crossing (s : State) (h : CHop) : Nat := max 1 (s.groups.filter (fun e => (chainHops e.1 e.2).contains h)).length
/-- Whether a chain stream crosses a die-to-die link, in either direction (R205): one of a chain-mode partition's neighbours along its chain. -/
def chainOn (s : State) (h : CHop) : Bool :=
  match h with
  | .cable _ => false
  | .link a b => s.parts.any (fun p => p.2.cur.chain &&
      (let c := ringOrder.filter (fun d => (spanDies p.2).contains d)
       (c.zip (c.drop 1 ++ c.take 1)).any (fun e => let l := linkPath e.2 8 e.1; l.contains (.link a b) || l.contains (.link b a))))
/-- The delay of a station, in ps (R200): the hop that enters it with 60 ns for each further torus hop and 5 ns for each metre of cable beyond
2 m, and one tile-to-tile hop per contributing tile. -/
def stationDelay (s : State) (gn : Nat) (g : Group) (exact : Bool) (e : Nat × Station) : Nat :=
  let p := prevOf g e
  let tiles := (((g.map.drop e.2.first).take e.2.count).map (·.lt)).eraseDups.length
  let crossed := if isLocal g e.2 then (hopsInto gn g e).any (chainOn s) else Config.remoteChain gn e.1
  let hop :=
    if g.stations.length = 1 then 0
    else if p.rank = e.2.rank then (if crossed then 200000 else 100000) + 60000 * ((linkPath e.2.die 8 p.die).length - 1)
    else (if exact then 300000 else 310000) + 5000 * Config.cableMetres gn e.1 +
      60000 * ((linkPath p.port 8 p.die).length + (linkPath e.2.die 8 (Config.recvPort gn e.1)).length)
  hop + tiles * (if exact then 120000 else 125000)
/-- The hop offset H of a step, in ps: at least the largest station delay of its chain (R200) (DESIGN CHOICE, note 58). -/
def hopOffset (s : State) (g : Group) (c : CStep) : Nat :=
  ((upTo g.stations.length).zip g.stations).foldl (fun a e => max a (stationDelay s c.group g c.exact e)) 0 + Config.hopSlack c.group c.step
/-- The groups with contributions on a logical tile of a die: they share its port (R205). -/
def tileGroups (s : State) (d lt : Nat) : Nat :=
  max 1 (s.groups.filter (fun e => (localStations e.2).any (fun x => x.2.die == d && ((e.2.map.drop x.2.first).take x.2.count).any (fun c => c.lt == lt)))).length
/-- The time of a wire piece on a hop, in ps: the fixed share of R205, shared equally among the groups that cross it. -/
def hopTime (s : State) (wire : Nat) (h : CHop) : Nat :=
  ceilDiv (wire * 1000 * crossing s h) (match h with | .cable _ => 150 | .link _ _ => if chainOn s h then 50 else 300)
/-- The period τ of a step, in ps (R200): twice the longest time of a wire piece on a hop of its chain, or one time at a tile's port. -/
def stepPeriod (s : State) (g : Group) (c : CStep) : Nat :=
  let wire := if c.exact then 4288 else 4416
  let hops := (chainHops c.group g).foldl (fun a h => max a (2 * hopTime s wire h)) 0
  let tiles := (localStations g).foldl (fun a x => (((g.map.drop x.2.first).take x.2.count).map (·.lt)).foldl (fun a lt =>
    max a (ceilDiv (wire * 10000 * tileGroups s x.2.die lt) 1024)) a) 0
  max hops tiles + Config.periodSlack c.group c.step

/-- Whether a piece runs backward (R211): an odd piece of a fast-mode step. -/
def backward (c : CStep) (k : Nat) : Bool := c.fast && k % 2 == 1
/-- The place of a position along the direction of a piece. -/
def relPos (c : CStep) (n k pos : Nat) : Nat := if backward c k then n - 1 - pos else pos
/-- The position a piece goes to next. -/
def nextPos (c : CStep) (n k pos : Nat) : Nat := if backward c k then (pos + n - 1) % n else (pos + 1) % n
/-- When an attempt starts, in ns (R201): at LAUNCH, or at once where LAUNCH was past when it was set up. -/
def startOf (c : CStep) : Nat := max c.launch c.since
/-- The time a piece leaves a position, in ps of MLT (R200): running, or final in the distribution. -/
def dueAt (s : State) (g : Group) (c : CStep) (k pos : Nat) (final : Bool) : Nat :=
  let n := g.stations.length
  let r := relPos c n k pos
  let kk := if c.fast then k / 2 else k
  let hops := if final then (if r = n - 1 then n - 1 else n + r) else r
  startOf c * 1000 + hops * hopOffset s g c + kk * stepPeriod s g c

/-! ## Contributions (R192, R195, R196) -/

/-- The end of the region that starts at a unit of a tile: the end of its allocation, or of the Cistern. -/
def regionEnd (t : Tile) (unit : Nat) : Nat :=
  match t.mem.allocs.find? (fun a => a.grant && decide (a.first ≤ unit) && decide (unit < a.first + a.count)) with
  | some a => a.first + a.count
  | none => 512
/-- The tile of a logical tile of a die. -/
def ltTile (s : State) (d lt : Nat) : Option Tile := (ptOf s d lt).map (fun m => tileOf s d m.1)
/-- An accumulator as it travels. -/
def accOut (a : Acc) : Int × Nat × Bool := (a.val, stateBits a.state, a.satd)
/-- The accumulator of a travelling value. -/
def accIn (x : Int × Nat × Bool) : Acc := ⟨x.1, stateOf x.2.1, x.2.2⟩
/-- Piece `k` of a contribution: the accumulators of at most 8 units. -/
def contribPiece (s : State) (d : Nat) (exact : Bool) (c : Contribution) (k : Nat) : PieceData :=
  match ltTile s d c.lt with
  | none => []
  | some t =>
    let u0 := c.unit + 8 * k
    let n := min 8 (regionEnd t c.unit - u0)
    let per := if exact then 32 else 64
    (upTo (n * per)).map (fun i =>
      accOut (if exact then rdWord t.mem (u0 + i / 32) (i % 32) else rdTotal t.mem (u0 + i / 64) (i % 64)))
/-- The contributions of a station, in increasing index. -/
def stationMap (g : Group) (st : Station) : List Contribution := (g.map.drop st.first).take st.count
/-- Whether the writes of every earlier MX and EW to the local regions have landed (R198; 03 R72). -/
def landed (s : State) (g : Group) (st : Station) : Bool :=
  (stationMap g st).all (fun c =>
    match ltTile s (contribDie s g st c.lt) c.lt with
    | none => false
    | some t => t.mem.array.all (fun a => !overlap a.acc a.units c.unit (regionEnd t c.unit - c.unit)))

/-- One accumulator combined with a contribution's (R196): the value, whether it saturated, NV. -/
def combineAcc (exact : Bool) (a b : Acc) : AccRes :=
  if exact then exactAdd false a ⟨b.val, b.state, false⟩
  else
    let j := joinState a.state b.state
    match j.1 with
    | .fin =>
      let v := addV (decodeF fFP64 a.val.toNat) (decodeF fFP64 b.val.toNat)
      ⟨⟨((convF fFP64 .ne false v.1).bits : Int), .fin, a.satd⟩, false, false⟩
    | st => ⟨⟨0, st, a.satd⟩, false, j.2⟩
/-- A running piece combined with a contribution's piece; the first contribution stands as it is held. -/
def combinePiece (exact : Bool) (r : PieceData × Bool × Bool) (x : PieceData) : PieceData × Bool × Bool :=
  if r.1.isEmpty then (x, r.2)
  else
    let rs := (r.1.zip x).map (fun e => combineAcc exact (accIn e.1) (accIn e.2))
    (rs.map (fun q => accOut q.acc), r.2.1 || rs.any (·.sat), r.2.2 || rs.any (·.nv))
/-- A piece with a station's contributions added, in increasing index, or decreasing for a backward piece (R196, R211). -/
def addStation (s : State) (g : Group) (c : CStep) (st : Station) (k : Nat) (x : PieceData) : PieceData × Bool × Bool :=
  let m := stationMap g st
  ((if backward c k then m.reverse else m).map (fun e => contribPiece s (contribDie s g st e.lt) c.exact e k)).foldl
    (combinePiece c.exact) (x, false, false)
/-- Whether the pieces of a station's contributions have one length, and that of the running value they join (R192). -/
def evenAt (s : State) (g : Group) (c : CStep) (st : Station) (k : Nat) (x : PieceData) : Bool :=
  let l := (stationMap g st).map (fun e => (contribPiece s (contribDie s g st e.lt) c.exact e k).length)
  let n := if x.isEmpty then l.headD 0 else x.length
  l.all (fun m => m == n)

/-! ## The wire (R195; 14 R340) -/

/-- The header and data of a wire piece. The places of the header's fields are the model's (DESIGN CHOICE, note 57): group, epoch, step,
piece, sender position, kind, accumulators, CRC-32 of the piece with the CRC field 0 (DESIGN CHOICE, note 57). -/
def wireBody (exact : Bool) (p : Piece) (crc : Nat) : List Byte :=
  let kind := b2n p.final + 2 * b2n p.marker + 4 * b2n exact + 8 * b2n p.hold + 16 * b2n p.chk
  let hdr := leBytes 2 p.group ++ leBytes 4 p.epoch ++ leBytes 4 p.step ++ leBytes 4 p.num ++ leBytes 2 p.fromPos ++ leBytes 2 p.toPos
    ++ leBytes 2 kind ++ leBytes 4 p.data.length ++ leBytes 4 crc
  let w := if exact then 16 else 8
  let dat := p.data.flatMap (fun x => leBytes w (encodeInt (8 * w) x.1))
  let tags := p.data.map (fun x => x.2.1 * 4 + b2n x.2.2 * 2)
  let tb := (upTo (ceilDiv tags.length 2)).map (fun i => BitVec.ofNat 8 (tags.getD (2 * i) 0 + 16 * tags.getD (2 * i + 1) 0))
  hdr ++ List.replicate (64 - hdr.length) 0 ++ dat ++ tb
/-- The flits of a wire piece. -/
def wireFlits (exact : Bool) (p : Piece) : List Line := toLines (wireBody exact p (crc32 (wireBody exact p 0)))
/-- Flits of the wire piece whose header flit is given. -/
def wireLen (h : List Byte) : Nat :=
  let n := fieldLe h 20 4
  let w := if (fieldLe h 18 2).testBit 2 then 16 else 8
  1 + ceilDiv (n * w + ceilDiv n 2) 64
/-- A wire piece read, with whether its CRC agrees. -/
def parseWire (b : List Byte) : Piece × Bool :=
  let kind := fieldLe b 18 2
  let exact := kind.testBit 2
  let w := if exact then 16 else 8
  let n := fieldLe b 20 4
  let tag (i : Nat) : Nat := byteAt b (64 + n * w + i / 2) / (if i % 2 = 0 then 1 else 16) % 16
  let dat := (upTo n).map (fun i =>
    let x := fieldLe b (64 + i * w) w
    ((if exact then signedOf 128 x else (x : Int)), tag i / 4, (tag i).testBit 1))
  let p : Piece :=
    { group := fieldLe b 0 2, epoch := fieldLe b 2 4, step := fieldLe b 6 4, num := fieldLe b 10 4, fromPos := fieldLe b 14 2
      toPos := fieldLe b 16 2, final := kind.testBit 0, marker := kind.testBit 1, hold := kind.testBit 3, chk := kind.testBit 4, data := dat }
  (p, crc32 (wireBody exact p 0) == fieldLe b 24 4)

/-! ## Ends of a step -/

/-- The tables of an attempt cleared: running values and stored final pieces are discarded, contribution regions kept (R208). -/
def clearAttempt (c : CStep) : CStep :=
  { c with running := [], final := [], transit := [], crcFails := [], nacked := [], sent := [], returned := [], markers := [], heard := []
           sat := false, late := [], holdAsked := false, chkAsked := false }
/-- The contribution regions of a station released (R203). -/
def releaseRegions (s : State) (g : Group) (st : Station) : State :=
  (stationMap g st).foldl (fun a c =>
    match ptOf a (contribDie a g st c.lt) c.lt with
    | none => a
    | some (p, _) => modTile a (contribDie a g st c.lt) p fun t =>
        { t with mem := { t.mem with allocs := t.mem.allocs.filter (fun x => !(decide (x.first ≤ c.unit) && decide (c.unit < x.first + x.count))) } }) s
/-- A step dropped from the books. -/
def dropStep (s : State) (g step : Nat) : State := { s with csteps := mdel s.csteps (stepKey g step) }
/-- A step ended here without a commit: its operations complete with a code, nothing is written; the contribution regions stay (R203, R208). -/
def abortStep (s : State) (g step : Nat) (code : BitVec 8) : State :=
  dropStep ((stepOps s g step).foldl (fun a e => endOp a e.1 code id) s) g step

/-! ## Between the modules of a group (R200, R208, R211, R212; 14 R332)

What the last station decides beside the commit, and what it must be told, goes around the ring of modules in management packets (DESIGN CHOICE,
notes 57 and 158): 3 a verdict, 4 and 5 a piece refused or acknowledged, 6 a step to be cancelled, 7 a piece that has returned. -/

/-- What the decision of a step can be beside the commit: the step is held, runs again in fixed order, runs again from a LAUNCH, or ends with a code. -/
inductive Verdict where
  | hold
  | fixedOrder
  | relaunch (launch : Nat)
  | ends (code : BitVec 8)
  deriving DecidableEq, Repr
/-- The last of this module's stations before the chain leaves it, with its port, and the station it reaches. -/
def boundary (g : Group) : Option (Station × Nat × Station) :=
  let n := g.stations.length
  (((localStations g).filter (fun e => match stationAt g ((e.1 + 1) % n) with | some b => !isLocal g b && e.2.port != 15 | none => false)).getLast?).bind (fun e =>
    (stationAt g ((e.1 + 1) % n)).map (fun b => (e.2, (e.1 + 1) % n, b)))
/-- A body sent to the next module of a group, unless that is the one it came from. -/
def sendOn (s : State) (g : Group) (origin : Nat) (body : List Byte) : State :=
  match boundary g with | some (a, _, b) => if b.rank = origin then s else sendMgmt s a.port body | none => s
/-- A verdict in a management packet. -/
def verdictBody (c : CStep) (origin : Nat) (v : Verdict) : List Byte :=
  let x : Nat × Nat := match v with | .hold => (0, 0) | .fixedOrder => (1, 0) | .relaunch t => (2, t) | .ends e => (3, e.toNat)
  [3] ++ leBytes 2 c.group ++ leBytes 4 c.epoch ++ leBytes 4 c.step ++ leBytes 1 x.1 ++ leBytes 1 origin ++ leBytes 8 x.2
/-- The operations of a step whose suspect events or failed checksums hold it (09 R221). -/
def stepHeld (s : State) (c : CStep) : List Nat :=
  ((stepOps s c.group c.step).filter (fun e => (e.2.suspect || e.2.chkFail) && replayable s e.2)).map (·.1)
/-- A verdict applied on this module. -/
def applyVerdict (s : State) (c : CStep) (v : Verdict) : State :=
  match v with
  | .hold => (stepHeld s c).foldl (fun a k => modOp a k fun o => { o with phase := .held }) (modStep s c.group c.step fun c => { c with phase := .held })
  | .fixedOrder => modStep s c.group c.step fun c => { clearAttempt c with fast := false, phase := .waiting, since := mltNs s }
  | .relaunch t =>
    modStep ((stepOps s c.group c.step).foldl (fun a e => modOp a e.1 fun o => { o with phase := .running, suspect := false, badRun := false, chkFail := false }) s)
      c.group c.step fun c => { clearAttempt c with phase := .waiting, launch := t, since := mltNs s, replayed := true }
  | .ends code => abortStep s c.group c.step code
/-- A verdict reached on this module and sent to the others. -/
def judgeStep (s : State) (g : Group) (c : CStep) (v : Verdict) : State := applyVerdict (sendOn s g g.myRank (verdictBody c g.myRank v)) c v
/-- A step ended on every module of its group. -/
def endStep (s : State) (gn step : Nat) (code : BitVec 8) : State :=
  match groupOf s gn, cstepOf s gn step with
  | some g, some c => judgeStep s g c (.ends code)
  | _, _ => s
/-- A step cancelled or timed out before its decision (R212): ended everywhere where the decision is taken here; else the module that takes it
is asked, and the operation goes on until its verdict comes. -/
def cancelStep (s : State) (gn step : Nat) (code : BitVec 8) : State :=
  match groupOf s gn, cstepOf s gn step with
  | some g, some c =>
    if c.phase = .decided then s
    else if decides g then judgeStep s g c (.ends code)
    else sendOn s g g.myRank ([6] ++ leBytes 2 gn ++ leBytes 4 c.epoch ++ leBytes 4 step ++ leBytes 1 code.toNat ++ leBytes 1 g.myRank)
  | _, _ => s

/-- CSC_STAT bits of the group's dies set: EPFAIL 30, FASTRUN 29. -/
def cscFlag (s : State) (g : Group) (bit : Nat) : State := (groupDies g).foldl (fun a d => setFlag a (cscB d) bit true) s
/-- CSC_STALE of a die counts a discarded piece or marker (R207). -/
def stale (s : State) (d : Nat) : State := bump s (cscB d + 8) 0 32 1

/-- Whether every final piece of a step is stored at this module's stations that are left. -/
def storedHere (g : Group) (c : CStep) : Bool :=
  (localStations g).all (fun e => g.lost.contains e.1 || (upTo c.pieces).all (fun k => mhas c.final (e.1 * 2 ^ 24 + k)))
/-- A change of membership of a group (R208): every step before its commit decision fails its epoch; with AUTORPL = 0, or after
three attempts, it completes with E_MEMBERSHIP; otherwise it waits for the new list. A step whose decision is another module's and whose final pieces
are all stored here waits for the list too, with its results: it may have been committed (R210). -/
def failEpoch (s : State) (gn : Nat) (lost : List Nat) : State :=
  match groupOf s gn with
  | none => s
  | some g =>
    let steps := s.csteps.filter (fun e => e.2.group == gn && (e.2.phase == .waiting || e.2.phase == .running || e.2.phase == .held))
    let s1 := if steps.isEmpty then s else cscFlag s g 30
    let s2 := steps.foldl (fun a e =>
      let run (a : State) : State := (stepOps a gn e.2.step).foldl (fun a x => modOp a x.1 fun o => { o with phase := if o.phase = .held then .running else o.phase }) a
      if !decides g ∧ storedHere g e.2 then modStep (run a) gn e.2.step fun c => { c with phase := .failed, attempts := c.attempts + 1 }
      else if e.2.autorpl ∧ e.2.attempts < 2 then
        modStep (run a) gn e.2.step fun c => { clearAttempt c with phase := .failed, attempts := c.attempts + 1 }
      else abortStep a gn e.2.step 0x13) s1
    modGroup s2 gn fun g => { g with lost := (g.lost ++ lost).eraseDups, changed := true }

/-- Every group with a station on a die of this module, and the positions there. -/
def groupsOn (s : State) (d : Nat) : List (Nat × List Nat) :=
  (s.groups.map (fun e => (e.1, ((localStations e.2).filter (fun x => x.2.die == d)).map (·.1)))).filter (fun e => !e.2.isEmpty)

/-! ## CASCADE (R199) -/

/-- Whether the list and the map keep the rules of R192 and R194: at most 65,536 contributions, the ranges contiguous and ascending, and on each die
ascending with the logical tiles. -/
def mapOk (g : Group) : Bool :=
  let firsts := g.stations.foldl (fun (a : Nat × Bool) st => (a.1 + st.count, a.2 && st.first == a.1)) (0, true)
  let asc (l : List Nat) : Bool := (l.zip (l.drop 1)).all (fun e => decide (e.1 ≤ e.2))
  firsts.2 && firsts.1 == g.contributions && decide (g.contributions ≤ 65536) && g.map.length == g.contributions &&
    g.stations.all (fun st => asc ((stationMap g st).map (·.lt)))
/-- Whether stations are in the order of R193: modules by rank; within a module its dies once each, in module ring order from some die on, and in a
group's first list from its home die, the lowest-numbered (DEDUCED, note 150). -/
def orderOk (first : Bool) (l : List Station) : Bool :=
  let asc (l : List Nat) : Bool := (l.zip (l.drop 1)).all (fun e => decide (e.1 ≤ e.2))
  let dies (r : Nat) : List Nat := (l.filter (fun st => st.rank == r)).map (·.die)
  let ring (d0 : Nat) (ds : List Nat) : List Nat :=
    let i := ringOrder.findIdx (fun d => d == d0)
    (ringOrder.drop i ++ ringOrder.take i).filter (fun d => ds.contains d)
  asc (l.map (·.rank)) && ((l.map (·.rank)).eraseDups).all (fun r =>
    let ds := dies r
    ring (ds.headD 0) ds == ds && (!first || ds.all (fun d => decide (ds.headD 0 ≤ d))))

/-- Steps in flight that have a station on a die. -/
def stepsOn (s : State) (d : Nat) : Nat :=
  (s.csteps.filter (fun e => match groupOf s e.2.group with | some g => (groupDies g).contains d | none => false)).length

/-- The lines of a step's result at a station: 8 for each unit of its contributions, at least one more than the whole pieces before the last where
their region is not known (R195, R203). -/
def resultLines (s : State) (g : Group) (st : Station) (pieces : Nat) : Nat :=
  match (stationMap g st).head?.bind (fun c => (ltTile s (contribDie s g st c.lt) c.lt).bind (fun t =>
      (t.mem.allocs.find? (fun a => a.grant && decide (a.first ≤ c.unit) && decide (c.unit < a.first + a.count))).map (fun a => a.first + a.count - c.unit))) with
  | some n => max ((pieces - 1) * 64 + 1) (8 * min n (8 * pieces))
  | none => (pieces - 1) * 64 + 1
/-- Whether a step may not start, and with which code (R194, R199, R211; 09 R231; R25 for an epoch already past; R202 for a number not above the last
committed, note 152) (DEDUCED, note 59). -/
def cascadeFault (s : State) (o : Op) : Option (BitVec 8) :=
  match groupOf s (cscGroup o) with
  | none => some 0x13
  | some g =>
    let chain := g.parts.any (fun pn => match partOf s pn with | some p => p.cur.chain | none => false)
    let refused := (localStations g).any (fun e =>
      match partOn s g e.2.die with
      | some pn => pn == o.part && writable s pn e.2.die (cscDst o) (resultLines s g e.2 (cscPieces o)) != 0
      | none => false)
    if 2 ≤ cscPath o ∨ cscPieces o = 0 ∨ refused ∨ !mapOk g ∨ (cscFast o ∧ chain) ∨ (cscFast o ∧ cscPath o = 1 ∧ strict s o.part) ∨
      g.lastStep.any (fun n => decide (cscStep o ≤ n)) = true
    then some 0x22
    else if cscEpoch o < g.epoch then some 0x13
    else none

/-- CASCADE (R199, R200): a ready operation of a partition is dispatched and its step is set up, to run from LAUNCH, or joined where another
partition's has set it up; with 64 other steps in flight on a die, or before the group's list reaches its epoch, it is held. -/
def execCascade (ctx : Fin 4096) (express : Bool) (opseq : W32) (s : State) : Out :=
  .next <|
    match named s ctx express opseq with
    | none => s
    | some (k, o) =>
      if opcOf o ≠ 2 ∨ !mayDispatch s o then s
      else match cascadeFault s o with
        | some code => endOp s k code id
        | none =>
          let gn := cscGroup o
          match groupOf s gn with
          | none => s
          | some g =>
            if g.epoch < cscEpoch o ∨ ((cstepOf s gn (cscStep o)).isNone ∧ (groupDies g).any (fun d => decide (64 ≤ stepsOn s d))) then s
            else
              let s1 := startOp s k o.home
              match cstepOf s1 gn (cscStep o) with
              | some _ => s1
              | none =>
                let c : CStep :=
                  { group := gn, epoch := g.epoch, step := cscStep o, exact := cscPath o == 0, fast := cscFast o
                    autorpl := cscAuto o, launch := opLaunch o, pieces := cscPieces o, dst := cscDst o, since := mltNs s }
                { s1 with csteps := mput s1.csteps (stepKey gn (cscStep o)) c }

/-! ## Pieces (R198, R200, R201, R207) -/

/-- The key of a piece on its way from a position. -/
def pieceKey (pos k : Nat) (final : Bool) : Nat := (pos * 2 + b2n final) * 2 ^ 24 + k
/-- Whether a local station's own operation runs the step. -/
def stationReady (s : State) (g : Group) (c : CStep) (st : Station) : Bool :=
  match partOn s g st.die with
  | some pn => (stepOps s c.group c.step).any (fun e => e.2.part == pn && e.2.phase == .running)
  | none => false

/-- The port by which a piece leaves this module (R206, R211, R340): the outgoing port of its sender, 0xF naming none, or for a backward piece
the port by which the chain enters its sender. -/
def wayOut (g : Group) (c : CStep) (p : Piece) : Option Nat :=
  if backward c p.num && !p.marker then some (Config.recvPort c.group p.fromPos).val
  else (stationAt g p.fromPos).bind (fun a => if a.port = 15 then none else some a.port)
/-- The port by which a piece has come, back to its sender. -/
def wayBack (g : Group) (c : CStep) (p : Piece) : Option Nat :=
  if backward c p.num then (stationAt g p.toPos).bind (fun a => if a.port = 15 then none else some a.port) else some (Config.recvPort c.group p.toPos).val
/-- A piece put on its way: to a local station, or out of the port the list names (R340). The sender keeps it until it is acknowledged (R198). -/
def launchPiece (s : State) (g : Group) (c : CStep) (p : Piece) : State :=
  let s1 := modStep s c.group c.step fun c =>
    { c with transit := mput c.transit (pieceKey p.fromPos p.num p.final) p, nacked := c.nacked.filter (· != pieceKey p.fromPos p.num p.final) }
  match stationAt g p.toPos with
  | some b => if isLocal g b then s1 else match wayOut g c p with | some port => modPort s1 port fun t => enqueue t 1 c.group (wireFlits c.exact p) | none => s1
  | none => s1
/-- A piece of another module refused (4) or acknowledged (5). -/
def answerPiece (s : State) (g : Group) (c : CStep) (p : Piece) (kind : Byte) : State :=
  match (stationAt g p.fromPos).map (isLocal g), wayBack g c p with
  | some false, some port => sendMgmt s port ([kind] ++ leBytes 2 c.group ++ leBytes 4 c.epoch ++ leBytes 4 c.step ++ leBytes 6 (pieceKey p.fromPos p.num p.final))
  | _, _ => s

/-- Whether an earlier step of the group is open (R202): in flight and without its decision, or waiting for its dispatch here. -/
def earlierOpen (s : State) (c : CStep) : Bool :=
  s.csteps.any (fun e => e.2.group == c.group && decide (e.2.step < c.step) &&
    (e.2.phase == .waiting || e.2.phase == .running || e.2.phase == .held || e.2.phase == .failed)) ||
  s.ops.any (fun e => opcOf e.2 == 2 && cscGroup e.2 == c.group && decide (cscStep e.2 < c.step) &&
    (e.2.phase == .fetched || e.2.phase == .admitted || e.2.phase == .ready))
/-- The key of a station's schedule. -/
def lateKey (pos : Nat) (final : Bool) : Nat := pos * 2 + b2n final
/-- What a station's own run asks of the decision (R212): to hold the step, or to end it for a failed checksum. -/
def asks (s : State) (g : Group) (c : CStep) (st : Station) : Bool × Bool :=
  let own := (stepOps s c.group c.step).filter (fun e => partOn s g st.die == some e.2.part)
  (own.any (fun e => (e.2.suspect || e.2.chkFail) && replayable s e.2), own.any (fun e => e.2.chkFail && !replayable s e.2))

/-- PIECE_FORWARD (R200 to R202): a local station sends a piece at its time, shifted by its lateness, or later once it is ready, which CSC_LATE counts
and the pieces after it follow; a step replayed under a new membership after its predecessor (DEDUCED, note 64). Contributions of unequal length end
the step (note 149). -/
def execPieceForward (group : Fin 65536) (step : W32) (pos : Fin 4096) (piece : Fin 16777216) (final : Bool) (s : State) : Out :=
  .next <|
    match groupOf s group, cstepOf s group step.toNat with
    | some g, some c =>
      match stationAt g pos with
      | none => s
      | some st =>
        let n := g.stations.length
        let r := relPos c n piece pos
        let key := pieceKey pos piece final
        let due := dueAt s g c piece pos final + mget 0 c.late (lateKey pos final)
        let first := !final && r == 0
        let have_ : Option (PieceData × Bool × Bool) :=
          if final then (mfind c.final (pos * 2 ^ 24 + piece)).map (fun x => (x, false, false))
          else if r = 0 then (if landed s g st then some (addStation s g c st piece []) else none)
          else (mfind c.running (pos * 2 ^ 24 + piece)).map (fun x => (x, false, false))
        match have_ with
        | none => s
        | some v =>
          if !isLocal g st ∨ !stationReady s g c st ∨ c.pieces ≤ piece.val ∨ c.sent.contains key ∨ mltPs s < due ∨
            !(c.phase == .waiting || c.phase == .running) ∨ c.epoch ≠ g.epoch ∨ (final ∧ n = 1) ∨ (!final ∧ r = n - 1 ∧ n ≠ 1) ∨
            (0 < c.attempts ∧ earlierOpen s c) then s
          else if first ∧ !evenAt s g c st piece [] then endStep s group step.toNat 0x22
          else
            let isLate := decide (due < mltPs s)
            let s1 := if isLate then bump s (cscB st.die + 4) 0 32 1 else s
            let s2 := if v.2.2 then (stepOps s1 group step.toNat).foldl (fun a e => opFlags a e.1 { nv := true }) s1 else s1
            let ask := asks s g c st
            let s3 := modStep s2 group step.toNat fun c =>
              { c with
                phase := .running, sent := key :: c.sent, sat := c.sat || v.2.1
                running := mdel c.running (if final then 2 ^ 60 else pos * 2 ^ 24 + piece)
                late := if isLate then mput c.late (lateKey pos final) (mget 0 c.late (lateKey pos final) + (mltPs s - due)) else c.late }
            if n = 1 then modStep s3 group step.toNat fun c =>
              { c with final := mput c.final piece v.1, returned := piece.val :: c.returned, sat := c.sat || v.1.any (fun x => x.2.2) }
            else launchPiece s3 g c
              { group := group, epoch := g.epoch, step := step.toNat, num := piece, fromPos := pos, toPos := nextPos c n piece pos
                final := final, hold := c.holdAsked || ask.1, chk := c.chkAsked || ask.2, data := v.1 }
    | _, _ => s

/-- A final piece that has returned to the end of its direction (R200 step 5, R211), with whether the step has saturated: known to the module that
takes the decision. -/
def pieceBack (s : State) (g : Group) (c : CStep) (k : Nat) (sat : Bool) : State :=
  if decides g then modStep s c.group c.step fun c => { c with returned := if c.returned.contains k then c.returned else k :: c.returned, sat := c.sat || sat }
  else sendOn s g g.myRank ([7] ++ leBytes 2 c.group ++ leBytes 4 c.epoch ++ leBytes 4 c.step ++ leBytes 4 k ++ leBytes 1 (b2n sat) ++ leBytes 1 g.myRank)

/-- A piece whose CRC has passed taken by the local station it goes to (R196, R200): a running value absorbs the station's
contributions and is final at the last position; a final one is stored, or has returned. A saturation anywhere on its way shows in its tags (R197;
DEDUCED, note 151). -/
def takePiece (s : State) (g : Group) (c : CStep) (st : Station) (p : Piece) : State :=
  let n := g.stations.length
  let r := relPos c n p.num p.toPos
  let key := p.toPos * 2 ^ 24 + p.num
  let tags (x : PieceData) : Bool := c.exact && x.any (fun y => y.2.2)
  let s1 := modStep (answerPiece s g c p 5) c.group c.step fun c =>
    { c with transit := mdel c.transit (pieceKey p.fromPos p.num p.final), heard := mput c.heard p.toPos (mltNs s)
             holdAsked := c.holdAsked || p.hold, chkAsked := c.chkAsked || p.chk }
  if p.final then
    if r = n - 1 then pieceBack s1 g c p.num (c.sat || tags p.data)
    else modStep s1 c.group c.step fun c => { c with final := mput c.final key p.data, sat := c.sat || tags p.data }
  else if !evenAt s g c st p.num p.data then endStep s1 c.group c.step 0x22
  else
    let v := addStation s1 g c st p.num p.data
    let s2 := if v.2.2 then (stepOps s1 c.group c.step).foldl (fun a e => opFlags a e.1 { nv := true }) s1 else s1
    modStep s2 c.group c.step fun c =>
      if r = n - 1 then { c with final := mput c.final key v.1, sat := c.sat || v.2.1 || tags v.1 }
      else { c with running := mput c.running key v.1, sat := c.sat || v.2.1 || tags v.1 }

/-- A failed CRC check (R198): the piece is to be sent again, twice at most; a third failure raises a suspect event and the step
completes with E_ECC, on every module. -/
def badPiece (s : State) (g : Group) (c : CStep) (st : Station) (p : Piece) : State :=
  let key := pieceKey p.fromPos p.num p.final
  let n := mget 0 c.crcFails key + 1
  if 3 ≤ n then endStep (suspect s st.die 2) c.group c.step 0x50
  else modStep (answerPiece s g c p 4) c.group c.step fun c => { c with crcFails := mput c.crcFails key n, nacked := key :: c.nacked }

/-! ## Markers (R200 step 6, R203) -/

/-- The result of a step written to DST on a station's die, piece after piece, 8 lines per unit (R203). -/
def writeResult (s : State) (g : Group) (c : CStep) (pos : Nat) (st : Station) : Status × State :=
  match partOn s g st.die with
  | none => (0, s)
  | some pn =>
    let w := if c.exact then 16 else 8
    let b := (upTo c.pieces).flatMap (fun k => (mget [] c.final (pos * 2 ^ 24 + k)).flatMap (fun x => leBytes w (encodeInt (8 * w) x.1)))
    writeBytes s pn st.die c.dst 0 ((toLines b).flatMap lineBytes)

/-- The code of a step that has committed (16 R421). -/
def stepCode (c : CStep) (replayed : Bool) : BitVec 8 := if c.sat then 0x30 else if replayed || c.replayed then 0x32 else 0

/-- The operations of a step whose surviving stations here all have the marker complete (R210, R226): with SUSP after a suspect event in a partition
that is not replay-enabled, with the runs and the die of the last after a replay, which HLT_RPLY_OK counts. A DST refused since the step's start
has left its code (note 154). -/
def completeStep (s : State) (g : Group) (c : CStep) (ms : List Nat) : State :=
  let mine (pn : Nat) : List Nat := ((localStations g).filter (fun e => !g.lost.contains e.1 && partOn s g e.2.die == some pn)).map (·.1)
  (stepOps s c.group c.step).foldl (fun a e =>
    if (mine e.2.part).all (fun p => ms.contains p) then
      let again := !e.2.runs.isEmpty
      let a1 := if again then bump a (hltB + 0x2300) 0 32 1 else a
      modOp a1 e.1 fun o =>
        { o with
          phase := .recordDue, seedE := 0, satSeen := o.satSeen || c.sat
          code := (if o.code ≠ 0 then o.code else stepCode c again)
          info := { o.info with susp := o.suspect && !replayable a o, runs := o.runs.length + 1, cdie := if again then o.runDie else o.info.cdie } }
    else a) s

/-- The marker at a local station (R200 step 6, R203): the result is written, the regions are released, the marker goes on to another module's station;
when every station of an operation's partition has it, the operation completes. -/
def markStation (s : State) (gn step pos : Nat) : State :=
  match groupOf s gn, cstepOf s gn step with
  | some g, some c =>
    match stationAt g pos with
    | none => s
    | some st =>
      if c.markers.contains pos then s
      else
        let n := g.stations.length
        let w := writeResult s g c pos st
        let s1 := releaseRegions w.2 g st
        let ms := pos :: c.markers
        let s2 := modStep s1 gn step fun c => { c with markers := ms, phase := .decided }
        let s3 := modGroup s2 gn fun g => { g with lastStep := some (max step (g.lastStep.getD 0)) }
        let nx := (pos + 1) % n
        let s4 := match stationAt g nx with
          | some b =>
            if isLocal g b ∨ nx = n - 1 then s3
            else launchPiece s3 g c { group := gn, epoch := g.epoch, step := step, num := 0, fromPos := pos, toPos := nx, final := true, marker := true }
          | none => s3
        let s5 := completeStep (if w.1 = 0 then s4 else (stepOps s4 gn step).foldl (fun a e =>
          if partOn s g st.die = some e.2.part then modOp a e.1 fun o => { o with code := w.1 } else a) s4) g c ms
        if (localStations g).all (fun e => ms.contains e.1 || g.lost.contains e.1) then dropStep s5 gn step else s5
  | _, _ => s
/-- Whether a marker may be taken at a local station: the decision was taken here, or the station of another module's decision holds every final
piece. -/
def markerDue (g : Group) (c : CStep) (pos : Nat) : Bool :=
  c.phase == .decided || (!decides g && (c.phase == .running || c.phase == .waiting) && (upTo c.pieces).all (fun k => mhas c.final (pos * 2 ^ 24 + k)))

/-- A piece or a marker reaches a local station (R198, R207): its epoch is compared with the station's own, then its CRC. A piece of the
present epoch whose station has not its own step, or its own writes, yet is left where it is (`none`). -/
def arrive (s : State) (p : Piece) (ok : Bool) : Option State :=
  match groupOf s p.group with
  | none => some s
  | some g =>
    match stationAt g p.toPos with
    | none => some s
    | some st =>
      if p.epoch < g.epoch then some (stale s st.die)
      else if g.epoch < p.epoch then some (modGroup s p.group fun g => { g with held := g.held ++ [(mltNs s, { p with ok := ok })] })
      else match cstepOf s p.group p.step with
        | none => if p.marker then some s else none
        | some c =>
          if p.marker then
            (if !ok then some (answerPiece s g c p 4) else if markerDue g c p.toPos then some (markStation (answerPiece s g c p 5) c.group c.step p.toPos) else none)
          else if !stationReady s g c st ∨ !(c.phase == .running || c.phase == .waiting) then none
          else if !ok then some (badPiece s g c st p)
          else if !p.final ∧ !landed s g st then none
          else some (takePiece (modStep s c.group c.step fun c => { c with phase := .running }) g c st p)
/-- The pieces held for an epoch that a group has reached, each taken once its station can take it. -/
def retryHeld (s : State) (gn : Nat) : State :=
  match groupOf s gn with
  | none => s
  | some g => (g.held.filter (fun e => decide (e.2.epoch ≤ g.epoch))).foldl (fun a e =>
      match arrive a e.2 e.2.ok with
      | some b => modGroup b gn fun g => { g with held := delFirst (fun x => x == e) g.held }
      | none => a) s

/-- PIECE_RECEIVE from a station of this module: the piece on its way, damaged or not. -/
def receiveLocal (s : State) (g step pos k : Nat) (final ok : Bool) : State :=
  match cstepOf s g step with
  | none => s
  | some c =>
    match mfind c.transit (pieceKey pos k final) with
    | none => s
    | some p => if c.nacked.contains (pieceKey pos k final) then s else (arrive s p ok).getD s

/-- PIECE_RECEIVE from a port: the piece at the front of its Cascade buffer, once the whole of it has come (14 R340). -/
def receivePort (s : State) (d : Nat) : State :=
  let q := mget [] (portOf s d).rxq 1
  match q with
  | [] => s
  | f :: _ =>
    let n := wireLen (lineBytes f)
    if q.length < n then s
    else
      let w := parseWire ((q.take n).flatMap lineBytes)
      match arrive s w.1 w.2 with
      | some s1 => popFlits s1 d 1 n
      | none => s

/-- PIECE_RECEIVE (R196, R198, R207). -/
def execPieceReceive (src : PieceSource) (s : State) : Out :=
  .next (match src with
    | .chain g step pos k final ok => receiveLocal (retryHeld s g) g step.toNat pos k final ok
    | .port d => (s.groups.map (·.1)).foldl retryHeld (receivePort s d))

/-- PIECE_RESEND (R198): the upstream station sends again a piece whose check failed. -/
def execPieceResend (group : Fin 65536) (step : W32) (pos : Fin 4096) (piece : Fin 16777216) (final : Bool) (s : State) : Out :=
  .next <|
    match groupOf s group, cstepOf s group step.toNat with
    | some g, some c =>
      let key := pieceKey pos piece final
      match mfind c.transit key with
      | some p => if c.nacked.contains key then launchPiece s g c p else s
      | none => s
    | _, _ => s

/-- EPOCH_HOLD_EXPIRY (R207): pieces and markers held for 3 s are discarded and counted. -/
def execEpochHoldExpiry (group : Fin 65536) (s : State) : Out :=
  .next <|
    match groupOf s group with
    | none => s
    | some g =>
      let old (e : Nat × Piece) : Bool := decide (e.1 + 3000000000 ≤ mltNs s)
      let s1 := (g.held.filter old).foldl (fun a e =>
        match stationAt g e.2.toPos with | some st => stale a st.die | none => a) s
      modGroup s1 group fun g => { g with held := g.held.filter (fun e => !old e) }

/-! ## Commit (R200, R202, R203, R211; 09 R221) -/

/-- CASCADE_COMMIT (R200 step 5, R202, R211, R212): with every final piece returned, at the last position, here, and no earlier
step open: a step that a suspect event or a checksum of a replay-enabled partition puts in doubt, here or at a station on the way, is held; one that
failed a checksum otherwise completes with E_CHECKSUM; a fast exact step that saturated runs again in fixed order; else the decision is taken. -/
def execCascadeCommit (group : Fin 65536) (step : W32) (s : State) : Out :=
  .next <|
    match groupOf s group, cstepOf s group step.toNat with
    | some g, some c =>
      if !decides g ∨ c.phase ≠ .running ∨ earlierOpen s c ∨ !(upTo c.pieces).all (fun k => c.returned.contains k) then s
      else
        let ops := stepOps s group step.toNat
        if !(stepHeld s c).isEmpty ∨ c.holdAsked then judgeStep s g c .hold
        else if ops.any (fun e => e.2.chkFail) ∨ c.chkAsked then judgeStep s g c (.ends 0x31)
        else if c.fast ∧ c.exact ∧ c.sat then judgeStep (cscFlag s g 29) g c .fixedOrder
        else
          ops.foldl (fun a e => modOp a e.1 fun o => { o with phase := .committed, satSeen := o.satSeen || c.sat })
            (modStep (modGroup s group fun g => { g with lastStep := some (max step.toNat (g.lastStep.getD 0)) }) group step.toNat
              fun c => { c with phase := .decided, markers := [] })
    | _, _ => s

/-- COMMIT_MARKER (R200 step 6, R203, R207): the marker of an epoch reaches a local station: after the decision taken here, or
from the module that took it, once every final piece is held. -/
def execCommitMarker (group : Fin 65536) (epoch step : W32) (pos : Fin 4096) (s : State) : Out :=
  .next <|
    match groupOf s group with
    | none => s
    | some g =>
      match stationAt g pos with
      | none => s
      | some st =>
        if !isLocal g st then s
        else if epoch.toNat < g.epoch then stale s st.die
        else if g.epoch < epoch.toNat then
          modGroup s group fun g =>
            { g with held := g.held ++ [(mltNs s, { group := group, epoch := epoch.toNat, step := step.toNat, num := 0, fromPos := pos, toPos := pos, final := true, marker := true })] }
        else match cstepOf s group step.toNat with
          | none => s
          | some c => if markerDue g c pos then markStation s group step.toNat pos else s

/-! ## Progress, loss, membership (R206 to R210; 01 R25) -/

/-- The transaction timeout in ns, of the die's VL_TIMEOUT (14 R343). -/
def timeoutNs (s : State) (d : Nat) : Nat := fld s (vlR d 0xC) 0 10 * 1000000

/-- CASCADE_PROGRESS_MESSAGE (R209): the running local stations tell the next station downstream that they live. -/
def execCascadeProgressMessage (group : Fin 65536) (step : W32) (s : State) : Out :=
  .next <|
    match groupOf s group, cstepOf s group step.toNat with
    | some g, some c =>
      if c.phase ≠ .running then s
      else (localStations g).foldl (fun a e =>
        if stationReady a g c e.2 then
          let nx := (e.1 + 1) % g.stations.length
          match stationAt g nx with
          | some b =>
            if isLocal g b then modStep a group step.toNat fun c => { c with heard := mput c.heard nx (mltNs a) }
            else if e.2.port = 15 then a
            else sendMgmt a e.2.port ([1] ++ leBytes 2 group ++ leBytes 4 step.toNat ++ leBytes 2 nx)
          | none => a
        else a) s
    | _, _ => s

/-- UPSTREAM_LOST (R209): neither a piece nor a progress message has come for the transaction timeout, counted at the earliest from the start of
the attempt: the upstream station is reported lost. -/
def execUpstreamLost (group : Fin 65536) (step : W32) (pos : Fin 4096) (s : State) : Out :=
  .next <|
    match groupOf s group, cstepOf s group step.toNat with
    | some g, some c =>
      match stationAt g pos with
      | none => s
      | some st =>
        let n := g.stations.length
        let last := max (startOf c) (mget 0 c.heard pos)
        if isLocal g st ∧ c.phase = .running ∧ last + timeoutNs s st.die ≤ mltNs s then failEpoch s group [(pos + n - 1) % n]
        else s
    | _, _ => s

/-- MEMBERSHIP_CHANGE (R208): stations of a group drop out. -/
def execMembershipChange (group : Fin 65536) (lost : List (Fin 4096)) (s : State) : Out :=
  .next (failEpoch s group (lost.map (·.val)))

/-- The list without its lost stations: each one's indices pass to the next survivor of its module, or to the one before it
(R194) (DEDUCED, note 65). -/
def survivors (g : Group) : List Station :=
  let idx := upTo g.stations.length
  let gone (i : Nat) : Bool := g.lost.contains i
  let heir (i : Nat) : Option Nat :=
    ((idx.filter (fun j => decide (i < j) && !gone j)).head?).or ((idx.filter (fun j => decide (j < i) && !gone j)).getLast?)
  (idx.zip g.stations).filterMap (fun e =>
    if gone e.1 then none
    else
      let own := e.1 :: (idx.filter (fun j => gone j && heir j == some e.1))
      let sts := own.filterMap (fun j => g.stations[j]?)
      some { e.2 with first := sts.foldl (fun a x => min a x.first) e.2.first, count := sts.foldl (fun a x => a + x.count) 0 })

/-- The entries of a membership list in the layout of R206. -/
def listStations (b : List Byte) : List Station :=
  (upTo (fieldLe b 2 2)).map (fun i =>
    let x := fieldLe b (16 + 16 * i) 8
    ⟨bitsOf x 0 8, bitsOf x 8 4, bitsOf x 12 4, bitsOf x 16 16, bitsOf x 32 17⟩)
/-- Whether a list is one of R206 for a group: of the next epoch where the group has one already (R207), in the order of R193. -/
def listOk (b : List Byte) (g : Nat) (old : Option Group) : Bool :=
  let n := fieldLe b 2 2
  fieldLe b 0 2 == g && decide (1 ≤ n) && decide (n ≤ 4096) && b.length == 16 + 16 * n && byteAt b 11 == 1 && decide (fieldLe b 12 4 ≤ 65536) &&
    (match old with | some o => fieldLe b 4 4 == o.epoch + 1 | none => true) && (upTo n).all (fun i => fieldLe b (16 + 16 * i) 8 / 2 ^ 49 == 0) &&
    orderOk old.isNone (listStations b)
/-- Whether the dies of a group's local stations have a slot for it (R206): one per partition, at most 64 a die. -/
def slotsFree (s : State) (gn : Nat) (g : Group) : Bool :=
  (groupDies g).all (fun d =>
    let others := s.groups.filter (fun e => e.1 != gn && (groupDies e.2).contains d)
    decide (others.length < 64) && !others.any (fun e => match partOn s e.2 d with | some pn => g.parts.contains pn | none => false))

/-- A step that has been committed, as the survivors know (R210): every surviving station here that holds the result commits it. -/
def commitHere (s : State) (gn step : Nat) (old : Group) : State :=
  let s1 := (((localStations old).map (·.1)).filter (fun i => !old.lost.contains i)).foldl (fun a pos => markStation a gn step pos) s
  match cstepOf s1 gn step with
  | some c => dropStep (completeStep s1 old c (upTo old.stations.length)) gn step
  | none => s1
/-- What a new list does to a step (R202, R208, R210): one that is decided, or that a survivor knows to be committed, is written everywhere; a failed one
runs again under the new epoch, from a LAUNCH already past, or completes with E_MEMBERSHIP; one whose map breaks R194 completes with E_VERSION. A decision taken
here stands also where no survivor has its marker yet (DEDUCED, note 156). -/
def renewStep (gn : Nat) (old : Group) (known : List W32) (s : State) (c : CStep) : State :=
  if c.phase = .decided ∨ (known.any (fun k => k.toNat == c.step) ∧ storedHere old c) then commitHere s gn c.step old
  else if c.phase ≠ .failed then s
  else if !c.autorpl ∨ 2 < c.attempts then abortStep s gn c.step 0x13
  else s
/-- The failed steps of a group set up again under its new list. -/
def restartStep (gn : Nat) (s : State) (c : CStep) : State :=
  match groupOf s gn, cstepOf s gn c.step with
  | some g, some x =>
    if x.phase ≠ .failed then s
    else if !mapOk g then abortStep s gn c.step 0x22
    else
      (groupDies g).foldl (fun a d => bump a (cscB d + 12) 0 32 1)
        (modStep s gn c.step fun c => { clearAttempt c with phase := .waiting, epoch := g.epoch, attempts := c.attempts, since := mltNs s })
  | _, _ => s
/-- A new list takes effect (R207, R208, R210, R477): the steps of the old one are committed, ended or set up again, what was held for the epoch is
taken; module event 5. `known` are the steps that survivors of other modules know to be committed. -/
def newEpoch (s : State) (gn : Nat) (old g : Group) (known : List W32) : State :=
  let steps := (s.csteps.filter (fun e => e.2.group == gn)).map (·.2)
  let s1 := steps.foldl (renewStep gn old known) s
  let last := (groupOf s1 gn).bind (·.lastStep)
  let s2 := { s1 with groups := mput s1.groups gn { g with lastStep := last } }
  moduleEvent (retryHeld (steps.foldl (restartStep gn) s2) gn) 5

/-- Whether a list joins this module, while its launch time is in conflict, to others: no new membership takes it (15 R388). -/
def mltConflict (s : State) (rank : Nat) (l : List Station) : Bool :=
  flag s clpB 25 && l.any (fun st => st.rank == rank) && l.any (fun st => st.rank != rank)
/-- MEMBERSHIP_REBUILD (R206 to R208, R210; 01 R25; 15 R388): the module manager installs a new list, one of R206 with its contribution
map, its module's rank and its partitions, or, where no list is given, the one its own survivors make, with a new map where one is given; `known` are
the steps that the managers of other modules report as committed (R210). -/
def execMembershipRebuild (group : Fin 65536) (list : List Byte) (map : List (Fin 128 × Fin 512)) (rank : Fin 256)
    (parts : List (Fin 64)) (s : State) (known : List W32 := []) : Out :=
  .next <|
    let g := (groupOf s group).getD {}
    let cs : List Contribution := map.map (fun e => ⟨e.1, e.2⟩)
    if list.isEmpty then
      let lost := if mltConflict s g.myRank (survivors g) then
          g.lost ++ (upTo g.stations.length).filter (fun i => match g.stations[i]? with | some st => st.rank == g.myRank | none => false) else g.lost
      if !g.changed then s
      else newEpoch s group g
        { g with stations := survivors { g with lost := lost }, epoch := g.epoch + 1, map := (if cs.length = g.contributions then cs else g.map), lost := [], changed := false } known
    else if !listOk list group (groupOf s group) then s
    else
      let g1 : Group :=
        { g with
          epoch := fieldLe list 4 4, version := BitVec.ofNat 32 (fieldLe list 8 4), contributions := fieldLe list 12 4, myRank := rank
          stations := listStations list, map := cs, parts := parts.map (·.val), lost := [], changed := false }
      if !slotsFree s group g1 || mltConflict s rank g1.stations then s
      else
        let s0 := if (groupOf s group).isSome ∧ !g.changed then failEpoch s group [] else s
        let old := (groupOf s0 group).getD {}
        newEpoch s0 group old { g1 with held := old.held } known

end Sys2Proof.Machine
end

