-- ==== Sys2Proof/Machine/Fountain.lean ====
section
/-! DEFINITION. The Fountain unit: random tensors and the token sampler (07). -/

namespace Sys2Proof.Machine

/-! ## Generating tensors (R177, R178) -/

/-- The 24 bits m of a word as m × 2^-24. -/
def mFrac (w : W64) : FVal := .fin false (fountain24 w) (-24)
/-- u1 of a normal tensor and u of a Gumbel draw: (2 × w[63:41] + 1) × 2^-24 (R173). -/
def uFrac (w : W64) : FVal := .fin false (2 * (w.toNat / 2 ^ 41) + 1) (-24)
/-- LOG2 of u, correctly rounded. -/
def log2U (w : W64) : W32 × FlagSet := log2V (round32 (uFrac w)).bits (uFrac w)

/-- The value of a UNIFORM element (R178). -/
def uniformElem (lo hi : W32) (w : W64) : W32 × FlagSet :=
  let d := op32 (addV (val32 hi) (negV (val32 lo)))
  let x := mulV (val32 d.1) (mFrac w)
  let y := addV (val32 lo) x.1
  let v := op32 (y.1, x.2 || y.2)
  (v.1, flagOr d.2 v.2)

/-- The value of a NORMAL element (R178). -/
def normalElem (mean sd : W32) (w : W64) : W32 × FlagSet :=
  let a := log2U w
  let b := op32 (mulV (negV (val32 0x3FB17218)) (val32 a.1))
  let r := sqrtV (val32 b.1)
  let c := cosTurn (w.toNat / 2 ^ 17 % 2 ^ 24)
  let z := op32 (mulV (val32 r.1) (val32 c.1))
  let x := mulV (val32 sd) (val32 z.1)
  let y := addV (val32 mean) x.1
  let v := op32 (y.1, x.2 || y.2)
  (v.1, flagOr (flagOr (flagOr a.2 b.2) (flagOr r.2 c.2)) (flagOr z.2 v.2))

/-- The parameters of a GENERATE descriptor (R177). -/
structure GenArgs where
  die : Nat
  gmode : Nat
  ofmt : Nat
  stream : Nat
  first : Nat
  count : Nat
  p0 : W32
  p1 : W32
  keep : Nat
  dst : Nat
  deriving DecidableEq, Repr

/-- GENERATE's body (16 R407). -/
def genArgs (o : Op) : GenArgs :=
  { die := dF o 59 1 % 16, gmode := dF o 59 1 / 16 % 8, ofmt := dF o 60 1 % 16, stream := dF o 56 3, first := dF o 32 4
    count := dF o 36 4, p0 := BitVec.ofNat 32 (dF o 40 4), p1 := BitVec.ofNat 32 (dF o 44 4), keep := dF o 52 4 % 2 ^ 25
    dst := dF o 48 4 }

/-- What R177 and 16 R408 accept. -/
def genOk (g : GenArgs) : Bool :=
  decide (g.gmode ≤ 4) && (if 3 ≤ g.gmode then ofmtOk g.ofmt else g.ofmt == 0) && decide (1 ≤ g.count) &&
    decide (g.first + g.count ≤ 2 ^ 32) && decide (g.keep ≤ 2 ^ 24)

/-- One element: its bytes (of MASK1, its bit) and its flags. -/
def genElem (g : GenArgs) (w : W64) : List Byte × FlagSet :=
  match g.gmode with
  | 0 => (leBytes 8 w.toNat, {})
  | 1 => ([if fountain24 w < g.keep then 1 else 0], {})
  | 2 => ([if fountain24 w < g.keep then 1 else 0], {})
  | _ =>
    let v := if g.gmode = 3 then uniformElem g.p0 g.p1 w else normalElem g.p0 g.p1 w
    let c := convOut g.ofmt 0 .ne true (val32 v.1)
    (leBytes (ofmtBytes g.ofmt) c.bits, flagOr v.2 c.flags)

/-- Bits packed eight to a byte, the first in bit 0. -/
def packBits : Nat → List Byte → List Byte
  | 0, _ => []
  | n + 1, l =>
    if l.isEmpty then [] else
      (List.range 8).foldl (fun a i => if (l.getD i 0) = 1 then a ||| (1 <<< i) else a) 0 :: packBits n (l.drop 8)

/-- The bytes of a tensor and the flags of its elements. -/
def genBytes (seed : W64) (g : GenArgs) : List Byte × FlagSet :=
  let es := (upTo g.count).map (fun e => genElem g (fountainWord seed g.stream (g.first + e)))
  let b := es.flatMap (·.1)
  (if g.gmode = 1 then packBits g.count b else b, es.foldl (fun a e => flagOr a e.2) {})

/-! ## The sampler (R180 to R188) -/

/-- A row parameter block (R181). -/
structure RowArgs where
  seed : W64
  scale : W32
  src : Bool
  massRef : Bool
  method : Nat
  stream : Nat
  k : Nat
  p : Nat
  logits : Nat
  ok : Bool
  deriving DecidableEq, Repr

/-- The block of 32 bytes read. -/
def rowArgs (b : List Byte) : RowArgs :=
  let c := fieldLe b 12 4
  let m := c / 2 ^ 24 % 4
  let k := fieldLe b 16 2
  let p := fieldLe b 20 4
  { seed := BitVec.ofNat 64 (fieldLe b 0 8), scale := BitVec.ofNat 32 (fieldLe b 8 4), src := c.testBit 27
    massRef := c.testBit 26, method := m, stream := c % 2 ^ 24, k := k, p := p, logits := fieldLe b 24 4
    ok := decide (m < 3) && decide (c < 2 ^ 28) && decide (k ≤ 1024) && decide (p ≤ 2 ^ 24) && fieldLe b 18 2 == 0 &&
      fieldLe b 28 4 == 0 }

/-- What a row writes (R188). -/
structure RowOut where
  token : Nat
  prob : W32
  kept : Nat
  flags : Nat
  ymax : W32
  deriving DecidableEq, Repr

/-- A value's binary32 encoding. -/
def bits32 (v : FVal) : W32 := BitVec.ofNat 32 (round32 v).bits

/-- Whether a value is neither NaN nor −Inf (R182). -/
def eligible : FVal → Bool
  | .nan => false
  | .inf s => !s
  | _ => true
/-- a > b among eligible values. -/
def above (a b : FVal) : Bool :=
  match a, b with
  | .inf _, .inf _ => false
  | .inf _, _ => true
  | _, .inf _ => false
  | _, _ => ltFin b a

/-- An element of a row: its index and its value. -/
abbrev RowElem := Nat × FVal

/-- The first element, in the order given, that none after it is above (DEDUCED, note 55). -/
def firstBest : List RowElem → Option RowElem
  | [] => none
  | x :: r => match firstBest r with
    | none => some x
    | some y => if above y.2 x.2 then some y else some x

/-- An element put into a list in sampler order, behind those of equal value (R184). -/
def insertElem (x : RowElem) : List RowElem → List RowElem
  | [] => [x]
  | y :: r => if above x.2 y.2 then x :: y :: r else y :: insertElem x r
/-- The first `n` elements in sampler order. -/
def topSet (n : Nat) (l : List RowElem) : List RowElem := l.foldl (fun a x => (insertElem x a).take n) []

/-- W of R183: EXP2 of the rounded difference to the maximum, in units of 2^-31, rounded to an integer. -/
def weightOf (y ymax : FVal) : Nat :=
  let d := (op32 (addV y (negV ymax))).1
  let e := (exp2V d.toNat (val32 d)).1
  (convI 64 .ne (scaleF 31 (val32 e))).bits

/-- A quotient rounded to binary32. -/
def quotient32 (a b : Nat) : W32 := bits32 (.fin false (stickyDiv (a * 2 ^ 120) b) (-121))

/-- The first index of a list of weights whose running sum exceeds r. -/
def firstOver (r : Nat) : Nat → List (Nat × Nat) → Option (Nat × Nat)
  | _, [] => none
  | c, (i, w) :: t => if r < c + w then some (i, w) else firstOver r (c + w) t

/-- How many elements a cut at Θ keeps (R185): up to the first running sum that reaches it. -/
def cutCount (theta : Nat) : Nat → List Nat → Option Nat
  | _, [] => none
  | c, w :: t => if theta ≤ c + w then some 1 else (cutCount theta (c + w) t).map (· + 1)

/-- g of R186 for an element. -/
def gumbelOf (seed : W64) (stream : Nat) (x : RowElem) : FVal :=
  let a := (log2U (fountainWord seed stream x.1)).1
  let na := negV (val32 a)
  let b := (log2V (bits32 na).toNat na).1
  val32 (op32 (addV x.2 (negV (val32 b)))).1
/-- The element of the largest g, the lower index where two are equal. -/
def gumbelPick (seed : W64) (stream : Nat) (l : List RowElem) : Option Nat :=
  let g := l.map (fun x => (x.1, gumbelOf seed stream x))
  (g.foldl (fun (a : Option RowElem) x => match a with
    | none => some x
    | some y => if above x.2 y.2 || (!above y.2 x.2 && decide (x.1 < y.1)) then some x else some y) none).map (·.1)

/-- A row with no eligible element (R182). -/
def emptyRow (fl : Nat) : RowOut := ⟨0xFFFFFFFF, 0, 0, 16 ||| fl, 0⟩

/-- The draw over a kept set with its weights, in sampler order (R186). -/
def drawKept (seed : W64) (a : RowArgs) (kept : List RowElem) (ws : List Nat) (fl : Nat) (ymax : FVal) : RowOut :=
  let s' := ws.foldl (· + ·) 0
  let iw := (kept.map (·.1)).zip ws
  let t : Nat :=
    if a.method = 2 then
      let m := fountain24 (fountainWord seed a.stream 0xFFFFFFFF)
      ((firstOver (m * s' / 2 ^ 24) 0 iw).map (·.1)).getD 0
    else (gumbelPick seed a.stream kept).getD 0
  ⟨t, quotient32 (((iw.find? (fun e => e.1 == t)).map (·.2)).getD 0) s', kept.length, fl, bits32 ymax⟩

/-- The draw with no top set (R187). -/
def drawAll (seed : W64) (a : RowArgs) (el : List RowElem) (fl : Nat) (ymax : FVal) : RowOut :=
  if a.method = 1 then ⟨(gumbelPick seed a.stream el).getD 0, 0, 0, fl, bits32 ymax⟩
  else
    let iw := el.map (fun x => (x.1, weightOf x.2 ymax))
    let s' := iw.foldl (fun c e => c + e.2) 0
    let m := fountain24 (fountainWord seed a.stream 0xFFFFFFFF)
    let t := (firstOver (m * s' / 2 ^ 24) 0 iw).getD (0, 0)
    ⟨t.1, quotient32 t.2 s', min el.length 0xFFFF, fl, bits32 ymax⟩

/-- Whether the cumulative cut is on (R181). -/
def cutOn (a : RowArgs) : Bool := a.p != 0 && a.p != 2 ^ 24

/-- A row drawn by Gumbel or inverse-CDF over its eligible scaled elements, in index order (R183 to R187). -/
def drawRow (seed : W64) (a : RowArgs) (el : List RowElem) (fl : Nat) (ymax : FVal) : RowOut :=
  if a.k = 0 ∧ !cutOn a then drawAll seed a el fl ymax
  else
    let top := topSet (if a.k = 0 then 1024 else a.k) el
    let ws := top.map (fun x => weightOf x.2 ymax)
    if !cutOn a then drawKept seed a top ws fl ymax
    else
      let ref := if a.massRef then el.foldl (fun c x => c + weightOf x.2 ymax) 0 else ws.foldl (· + ·) 0
      let theta := ceilDiv (a.p * ref) (2 ^ 24)
      match cutCount theta 0 ws with
      | some n => drawKept seed a (top.take n) (ws.take n) fl ymax
      | none => drawKept seed a top ws (if a.k = 0 then fl ||| 4 else fl) ymax

/-- One row (R182 to R187): the row seed, its parameters, its logits in index order. -/
def sampleRow (seed : W64) (a : RowArgs) (ls : List FVal) : RowOut :=
  let nv := b2n (ls.any (fun v => decide (v = .nan)))
  let l : List RowElem := (upTo ls.length).zip ls
  let sc := val32 a.scale
  if a.method = 0 ∨ sc = .inf false then
    match firstBest (l.filter (fun x => eligible x.2)) with
    | none => emptyRow nv
    | some (i, v) => ⟨i, 0, 0, nv, bits32 v⟩
  else
    let bad := match sc with | .nan => true | .inf _ => true | .fin s m _ => s || m == 0
    if bad then emptyRow 1
    else
      let ys : List (RowElem × Bool) := l.map (fun x => let r := op32 (mulV x.2 sc); ((x.1, val32 r.1), r.2.ovf))
      let fl := nv ||| (if ys.any (·.2) then 2 else 0)
      let el := (ys.map (·.1)).filter (fun x => eligible x.2)
      match el.find? (fun x => decide (x.2 = .inf false)) with
      | some (i, _) => ⟨i, 0x3F800000, 1, fl ||| 8, 0x7F800000⟩
      | none =>
        match firstBest el with
        | none => emptyRow fl
        | some (_, ymax) => drawRow seed a el fl ymax

/-- The record of R188. -/
def rowRecord (r : RowOut) : List Byte :=
  leBytes 4 r.token ++ leBytes 4 r.prob.toNat ++ leBytes 2 r.kept ++ leBytes 2 r.flags ++ leBytes 4 r.ymax.toNat

/-! ## Running in a unit (R190) -/

/-- The Fountain of a die changed. -/
def modFtn (s : State) (d : Nat) (f : Fountain → Fountain) : State := modDie s d fun e => { e with fountain := f e.fountain }
/-- An operation leaves the unit of a die. -/
def leaveFtn (s : State) (d k : Nat) : State :=
  modFtn s d fun f =>
    { f with
      row := if f.queue.head? = some k then 0 else f.row
      queue := f.queue.filter (· != k), heldOps := f.heldOps.filter (· != k) }

/-- A dispatched operation enters the unit, which holds at most 8; beyond, the queue processor holds it (R190). -/
def enterFtn (s : State) (d k : Nat) : State :=
  modFtn (startOp s k d) d fun f =>
    if f.queue.length < 8 ∧ f.heldOps = [] then { f with queue := f.queue ++ [k] } else { f with heldOps := f.heldOps ++ [k] }

/-- FOUNTAIN_QUEUE_RELEASE (R190): a held operation enters the unit once it holds fewer than 8. -/
def execFountainQueueRelease (die : Die) (s : State) : Out :=
  .next <| modFtn s die fun f =>
    match f.heldOps with
    | k :: r => if f.queue.length < 8 then { f with queue := f.queue ++ [k], heldOps := r } else f
    | [] => f

/-- An operation that an error of an access to die `ed` ends leaves its unit with the code of the access (R190; 06 R161). -/
def failFtn (s : State) (d k : Nat) (code : Status) (addr ed : Nat) : State := endAddr (leaveFtn s d k) k code addr ed

/-- The tensor of a GENERATE written (R177, R178). -/
def runGenerate (s : State) (k d : Nat) (o : Op) : State :=
  let g := genArgs o
  match (partOf s o.part).bind (fun p => spanDie p g.die) with
  | none => failFtn s d k 0x10 0 d
  | some orig =>
    let r := genBytes (opSeed o) g
    let td := resolveDie s o.part orig d g.dst
    let w := writeBytes s o.part td g.dst 0 r.1
    if w.1 = 0 then finishOp (opFlags (addDest (leaveFtn w.2 d k) k { part := o.part, die := td, addr := g.dst, off := 0, bytes := r.1.length }) k r.2) k
    else failFtn w.2 d k w.1 g.dst td

/-- A running GENERATE is ended (R190): each line of its destination holds its generated contents or what it held before; which is
free (DESIGN CHOICE, note 129). -/
def someLines (s : State) (k : Nat) (o : Op) : State :=
  let g := genArgs o
  match (partOf s o.part).bind (fun p => spanDie p g.die) with
  | none => s
  | some orig =>
    let b := (genBytes (opSeed o) g).1
    let td := resolveDie s o.part orig o.runDie g.dst
    let n := ceilDiv b.length 64
    if o.phase = .running ∧ (dieOf s o.runDie).fountain.queue.head? = some k ∧ genOk g ∧ writable s o.part td g.dst n = 0 then
      { (upTo n).foldl (fun a i => if (Config.freeValue (s.fresh + i)).getLsbD 0 then (writeBytes a o.part td (g.dst + i) 0 ((b.drop (64 * i)).take 64)).2 else a) s with
        fresh := s.fresh + n }
    else s

/-- The fields of a SAMPLE descriptor (16 R407). -/
def smpParams (o : Op) : Nat := dF o 32 4
/-- RESULT. -/
def smpResult (o : Op) : Nat := dF o 36 4
/-- V. -/
def smpV (o : Op) : Nat := dF o 40 4 % 2 ^ 25
/-- ROWS. -/
def smpRows (o : Op) : Nat := dF o 44 2 % 2 ^ 13
/-- DIE. -/
def smpDie (o : Op) : Nat := dF o 46 1 % 16
/-- LFMT. -/
def smpFmt (o : Op) : Nat := dF o 46 1 / 16

/-- The values of the logits' bytes (R180, R182): exact, subnormals kept. -/
def logitVals (fmt : Nat) (b : List Byte) (n : Nat) : List FVal :=
  let w := if fmt = 6 then 4 else 2
  let f := if fmt = 4 then fFP16 else if fmt = 5 then fBF16 else fFP32
  (upTo n).map (fun i => decodeF f (leNat ((b.drop (w * i)).take w)))

/-- The row seed's E (R175, R181): the operation's; where none was drawn, the spec states no value and it is free (DESIGN CHOICE, note 54). -/
def drawnE (s : State) (k : Nat) (o : Op) : State × W64 :=
  if o.seedDrawn then (s, o.seedE)
  else
    let e := Config.freeValue s.fresh
    (modOp { s with fresh := s.fresh + 1 } k fun o => { o with seedE := e, seedDrawn := true }, e)

/-- SAMPLER_ROW (R180 to R190): the next row is read, drawn and its record written; the last row ends the operation. -/
def sampleOne (s : State) (k d : Nat) : State :=
  match opOf s k with
  | none => s
  | some o =>
    let r := (dieOf s d).fountain.row
    match (partOf s o.part).bind (fun p => spanDie p (smpDie o)) with
    | none => failFtn s d k 0x10 0 d
    | some orig =>
      let res (a : Nat) : Nat := resolveDie s o.part orig d a
      let pa := smpParams o + r / 2
      let pr := readBytes s o.part (res pa) pa (r % 2 * 32) 32
      if pr.1 ≠ 0 then failFtn s d k pr.1 pa (res pa)
      else
        let a := rowArgs pr.2
        if !a.ok ∨ (a.src ∧ o.strictAt) then failFtn s d k 0x22 0 d
        else
          let n := smpV o * (if smpFmt o = 6 then 4 else 2)
          let lr := readBytes s o.part (res a.logits) a.logits 0 n
          if lr.1 ≠ 0 then failFtn s d k lr.1 a.logits (res a.logits)
          else
            let e : State × W64 := if a.src then drawnE s k o else (s, 0)
            let row := sampleRow (a.seed ^^^ e.2) a (logitVals (smpFmt o) lr.2 (smpV o))
            let am := rowArgs (mirrorBytes s o.part (res pa) pa (r % 2 * 32) 32 pr.2)
            let lm := mirrorBytes s o.part (res am.logits) am.logits 0 n lr.2
            let rowm := sampleRow am.seed am (logitVals (smpFmt o) lm (smpV o))
            let ra := smpResult o + r / 4
            let w := writeBoth e.1 o.part (res ra) ra (r % 4 * 16) (rowRecord row) (rowRecord rowm)
            if w.1 ≠ 0 then failFtn w.2 d k w.1 ra (res ra)
            else
              let s1 := opFlags w.2 k { nv := row.flags.testBit 0, ovf := row.flags.testBit 1 }
              let s2 := modOp (addDest s1 k { part := o.part, die := res ra, addr := ra, off := r % 4 * 16, bytes := 16 }) k fun o => { o with seedSrcUsed := o.seedSrcUsed || a.src }
              let s3 := bump (setRaw s2 (ftnB d + 8) (raw s2 (ftnB d + 8) ||| BitVec.ofNat 32 row.flags)) (ftnB d + 4) 0 32 1
              if smpRows o ≤ r + 1 then finishOp (leaveFtn s3 d k) k
              else modFtn s3 d fun f => { f with row := r + 1 }

/-- Rows drawn one after another, while the operation runs in the unit. -/
def sampleMany (s : State) (k d : Nat) : Nat → State
  | 0 => s
  | n + 1 => if (dieOf s d).fountain.queue.head? = some k then sampleMany (sampleOne s k d) k d n else s

/-- A ready Fountain operation dispatched to the unit of its die; ENT = 1 under determinism mode or lock-step, and a die outside
the span, end it first (09 R231; 16 R408). -/
def dispatchFtn (s : State) (k : Nat) (o : Op) (pos : Nat) : State :=
  if !mayDispatch s o then s
  else if opFlag o 3 && strict s o.part then endOp s k 0x22 id
  else match (partOf s o.part).bind (fun p => spanDie p pos) with
    | none => endOp s k 0x10 id
    | some d => enterFtn s d k

/-- GENERATE (R177 to R179, R190): a ready operation is dispatched to its unit; at the unit's head its tensor is written; `ecc`: an uncorrectable error
in the unit ends the run with E_ECC (09 R217). -/
def execGenerate (ctx : Fin 4096) (express : Bool) (opseq : W32) (s : State) (ecc : Bool := false) : Out :=
  .next <|
    match named s ctx express opseq with
    | none => s
    | some (k, o) =>
      if opcOf o ≠ 3 then s
      else
        let s1 := if o.phase = .ready then dispatchFtn s k o (genArgs o).die else s
        match opOf s1 k with
        | none => s1
        | some o =>
          if o.phase = .running ∧ (dieOf s1 o.runDie).fountain.queue.head? = some k then
            if ecc then failFtn s1 o.runDie k 0x50 0 o.runDie
            else if genOk (genArgs o) then runGenerate s1 k o.runDie o else failFtn s1 o.runDie k 0x22 0 o.runDie
          else s1

/-- SAMPLE (R180 to R190): a ready operation is dispatched to its unit; at the unit's head up to `rows` of its rows are drawn (DESIGN CHOICE, note 56);
`ecc`: an uncorrectable error in the unit then ends the run with E_ECC (09 R217). -/
def execSample (ctx : Fin 4096) (express : Bool) (opseq : W32) (rows : Nat) (s : State) (ecc : Bool := false) : Out :=
  .next <|
    match named s ctx express opseq with
    | none => s
    | some (k, o) =>
      if opcOf o ≠ 4 then s
      else
        let s1 := if o.phase = .ready then dispatchFtn s k o (smpDie o) else s
        match opOf s1 k with
        | none => s1
        | some o =>
          if o.phase ≠ .running then s1
          else
            let s2 := sampleMany s1 k o.runDie rows
            if ecc ∧ (dieOf s2 o.runDie).fountain.queue.head? = some k then failFtn s2 o.runDie k 0x50 0 o.runDie else s2

/-- ENTROPY_SEED_DRAW (R175): E is drawn once for an ENT = 1 operation that waits for dispatch, while the source is healthy. -/
def execEntropySeedDraw (ctx : Fin 4096) (express : Bool) (opseq : W32) (s : State) : Out :=
  .next <|
    match named s ctx express opseq with
    | none => s
    | some (k, o) =>
      if o.phase = .ready ∧ opFlag o 3 ∧ !o.seedDrawn ∧ s.ks.entropyOk then
        modOp { s with fresh := s.fresh + 1 } k fun o => { o with seedE := Config.freeValue s.fresh, seedDrawn := true }
      else s

/-- ENTROPY_HEALTH_TEST (R175): KS_STAT.ENTOK follows the health test of the entropy source. -/
def execEntropyHealthTest (passed : Bool) (s : State) : Out := .next <| modKs s fun k => { k with entropyOk := passed }

end Sys2Proof.Machine
end

