-- ==== Sys2Proof/Machine/ArrayUnit.lean ====
section
/-! DEFINITION. The matrix array (03): the words WLD, MX and EW with their fault checks (R83) and issue rule (R67), the
weight blocks (R63 to R66), and the landing of one vector of sums in the Cistern (R71, R85, 04 R94 to R101) with its
checksum (09 R214 to R216). -/

namespace Sys2Proof.Machine

/-! ## Weight blocks (R63 to R66, R80) -/

/-- SHAPE of an array word. -/
def aShape (w : BitVec 56) : Nat := wf w 52 4
/-- FMT of an array word. -/
def aFmt (w : BitVec 56) : Nat := wf w 48 4
/-- Operand-buffer lines a WLD reads (R80). -/
def wldLines (w : BitVec 56) : Nat := ceilDiv (shapeE (aShape w) * wBits (aFmt w)) 512
/-- The stored elements of the block a WLD names. -/
def wldElems (m : TileMem) (w : BitVec 56) : List Nat :=
  (List.range (shapeE (aShape w))).map fun i => bufElem m (wf w 0 13) (wBits (aFmt w)) i

/-- The fault of an array word's codes (R83): RSV, FMT, SHAPE, a grouped shape on a chunk path (DEDUCED, note 18). -/
def codesFault (rsv : Nat) (shape fmt : Nat) : Option Nat :=
  if rsv ≠ 0 then some 0x01
  else if !ifmtOk fmt || !shapeOk shape then some 0x02
  else if grouped shape && !fmtExact fmt then some 0x03
  else none

/-- The logical source of a line of the operand buffer that a slot of a ring holds. -/
def lineSource (f : Fetcher) (l : Nat) : Option Nat :=
  f.rings.findSome? fun (_, r) =>
    if r.first ≤ l ∧ l < r.first + r.slots * r.slotLines then
      match r.live.find? (fun x => x.1 == (l - r.first) / r.slotLines) with
      | some x => x.2.srcs[(l - r.first) % r.slotLines]?
      | none => none
    else none
/-- The logical sources of the lines a WLD reads (R66): none where one of them is a line no FETCH brought. -/
def wldSources (f : Fetcher) (w : BitVec 56) : List Nat :=
  let l := (List.range (wldLines w)).map fun i => lineSource f (wf w 0 13 + i)
  if l.all Option.isSome then l.filterMap id else []

/-- The wait of an array word while blocks of a saved or moved tile are still to be rebuilt (R66): for the lines of the next one, or for
its load. -/
def rebuildHold (m : TileMem) : Option HoldWhy :=
  if m.rebuild.isEmpty then none else if m.loadLines.isSome then some .shadow else some .opnd

/-- WLD (R63 to R65, R80): the shadow block is written; the load in progress, if any, stops. Blocks still to be rebuilt go before it (DESIGN
CHOICE, note 22). -/
def issueWld (w : BitVec 56) (t : Tile) : Issue :=
  let src := wf w 0 13
  let n := wldLines w
  match codesFault (wf w 13 3) (aShape w) (aFmt w) with
  | some c => .fault c
  | none =>
    if 8192 < src + n then .fault 0x07
    else match rebuildHold t.mem with
    | some h => .hold h
    | none =>
      if !linesValid t.mem src n then .hold .opnd
      else
        issued { t with
          mem := settleExpress { t.mem with shadow := some ⟨w, wldElems t.mem w, false, wldSources t.fetch w⟩, loadLines := some (src, n) } }

/-- The lines of a WLD that is issued again are there (R66): those of its logical sources, or valid lines of the operand buffer. -/
def rebuildReady (m : TileMem) (r : Rebuild) : Bool :=
  if r.kept.isSome then true
  else if r.srcs.isEmpty then linesValid m (wf r.word 0 13) (wldLines r.word) else r.lines.length == r.srcs.length
/-- The elements of a block that is rebuilt; of one whose lines came from the staging ring, where they may be gone, those it had (DEDUCED,
note 22). -/
def rebuildElems (m : TileMem) (r : Rebuild) : List Nat :=
  match r.kept with
  | some l => l
  | none =>
  if r.srcs.isEmpty then wldElems m r.word
  else
    let obuf : SMap Line := (r.lines.zipIdx).foldl (fun a x => mset 0 a x.2 x.1) []
    (List.range (shapeE (aShape r.word))).map fun i => bufElem { m with obuf := obuf } 0 (wBits (aFmt r.word)) i
/-- The next WLD of a saved or moved tile is issued again, once its lines are there (R66, R67). -/
def startRebuild (m : TileMem) : TileMem :=
  match m.rebuild with
  | [] => m
  | r :: _ =>
    if m.loadLines.isSome ∨ !rebuildReady m r then m
    else
      { m with
        shadow := some ⟨r.word, rebuildElems m r, false, r.srcs⟩
        loadLines := some (if r.srcs.isEmpty ∧ r.kept.isNone then (wf r.word 0 13, wldLines r.word) else (0, 0)) }
/-- A block rebuilt is promoted where it was the active one. -/
def rebuilt (m : TileMem) : TileMem :=
  match m.rebuild with
  | [] => m
  | r :: rest => startRebuild { m with rebuild := rest, active := if r.promote then m.shadow else m.active, shadow := if r.promote then none else m.shadow }

/-- The shadow load ends (R65): the block is complete, the lines it read count a use (06 R157), express lines that waited for it are
written; a block that is rebuilt counts no use, and the next one follows (R66). -/
def shadowDone (t : Tile) : Tile :=
  match t.mem.shadow, t.mem.loadLines with
  | some b, some r =>
    let m := { t.mem with shadow := some { b with complete := true }, loadLines := none }
    { t with mem := rebuilt (settleExpress m), fetch := if t.mem.rebuild.isEmpty then useLines t.fetch r.1 r.2 else t.fetch }
  | _, _ => t
/-- The blocks of a tile that was preempted or has moved (R66): both are discarded, and the WLDs that produced them are to be issued
again, the active one's first; lines a FETCH had brought are read from their logical sources. -/
def discardBlocks (t : Tile) : Tile :=
  let staged (b : WBlock) : Bool := b.srcs.any (fun a => a / 2 ^ 30 == 2)
  let redo (p : Bool) (b : WBlock) : Rebuild :=
    { word := b.word, promote := p, srcs := if staged b then [] else b.srcs, kept := if staged b then some b.elems else none }
  let rs := if t.mem.rebuild.isEmpty then t.mem.shadow.toList.map (redo false) else t.mem.rebuild.map fun r => { r with lines := [] }
  { t with mem := { t.mem with active := none, shadow := none, loadLines := none, rebuild := t.mem.active.toList.map (redo true) ++ rs } }

/-! ## MX (R81 to R83) -/

/-- The block an MX reads: the shadow with SWAP, else the active one. -/
def mxBlock (w : BitVec 56) (m : TileMem) : Option WBlock := if bitAt w.toNat 45 then m.shadow else m.active
/-- First logical chunk index of an MX on a block (R82, R77). -/
def mxChunk (axis : Bool) (b : WBlock) : Nat := if axis then wf b.word 16 16 else wf b.word 32 16
/-- Chunks of one vector (R96). -/
def mxChunks (shape : Nat) (axis : Bool) : Nat := ceilDiv (inLen shape axis) 32
/-- Operand-buffer lines of one input vector (R81). -/
def vecInLines (len fmt : Nat) : Nat := ceilDiv (len * inBits fmt) 512

/-- Whether an accumulating write into a region is refused by PATH (R82, R83, R104): a unit of another path, or one not
written since its allocation. -/
def pathFault (m : TileMem) (path : BitVec 2) (first count : Nat) : Bool :=
  (List.range count).any fun i => (descOf m (first + i)).path != path

/-- Whether a chunk index is out of order for a region (R82). -/
def chunkFault (m : TileMem) (chunk first count : Nat) : Bool :=
  (List.range count).any fun i =>
    let d := descOf m (first + i)
    d.hwmv && decide (chunk ≤ d.hwm.toNat)

/-- The units an MX has written (R91). -/
def mxDescs (m : TileMem) (zero : Bool) (path : BitVec 2) (hi first count : Nat) : TileMem :=
  setDescs m first count fun d =>
    if zero then ⟨path, true, BitVec.ofNat 17 hi⟩
    else ⟨d.path, true, if d.hwm.toNat < hi then BitVec.ofNat 17 hi else d.hwm⟩

/-- The wait of an array word that writes a region (R67, conditions 1 to 4, in the counting order of R90: a wait for operand lines counts only
where nothing else holds the word). -/
def arrayHold (m : TileMem) (first count : Nat) (shadowBusy opnd : Bool) : Option HoldWhy :=
  let busy := readingOver m first count || m.array.any broadcasting
  if pendingOver m first count then some .acc
  else if shadowBusy then some .shadow
  else if opnd then some (if busy then .other else .opnd)
  else if busy then some .other
  else none

/-- MX (R60, R66, R67, R71, R75, R81 to R83). -/
def issueMx (w : BitVec 56) (t : Tile) : Issue :=
  let m := t.mem
  let shape := aShape w
  let fmt := aFmt w
  let axis := bitAt w.toNat 47
  let zero := bitAt w.toNat 46
  let swap := bitAt w.toNat 45
  let rows := wf w 34 8 + 1
  let inA := wf w 21 13
  let acc := wf w 12 9
  let exact := fmtExact fmt
  let vl := vecInLines (inLen shape axis) fmt
  let ru := rowUnits (outLen shape axis) exact
  let units := rows * ru
  match codesFault (wf w 42 3 + wf w 0 12) shape fmt with
  | some c => .fault c
  | none =>
    match rebuildHold m, mxBlock w m with
    | some h, _ => .hold h
    | none, none => .fault 0x04
    | none, some b =>
      let ch := mxChunk axis b
      let hi := ch + mxChunks shape axis - 1
      if aShape b.word ≠ shape ∨ aFmt b.word ≠ fmt then .fault 0x05
      else if 512 < acc + units then .fault 0x06
      else if 8192 < inA + rows * vl then .fault 0x07
      else if !coveredBy (fun _ => true) m acc units then .fault 0x08
      else if !zero && (pathFault m (fmtPath fmt) acc units || (!exact && chunkFault m ch acc units)) then .fault 0x09
      else
        match arrayHold m acc units (swap && !b.complete) (!linesValid m inA (rows * vl)) with
        | some h => .hold h
        | none =>
          let ins := (List.range rows).map fun r =>
            (List.range (inLen shape axis)).map fun i => bufElem m (inA + r * vl) (inBits fmt) i
          let tail := ceilDiv (mxLatency fmt) (mxCycles fmt axis)
          let op : ArrayOp := ⟨.mx b axis zero ins, fmt, acc, units, rows, 0, tail, [(inA, rows * vl)]⟩
          let m1 := if swap then { m with active := some b, shadow := none } else m
          let m2 := mxDescs { m1 with array := m1.array ++ [op] } zero (fmtPath fmt) hi acc units
          issued { t with mem := m2, fetch := if rows ≤ tail then useLines t.fetch inA (rows * vl) else t.fetch }

/-! ## EW (R84 to R86) -/

/-- The units an EW has written (R91): MUL replaces, the others leave HWMV and HWM. -/
def ewDescs (m : TileMem) (mul : Bool) (path : BitVec 2) (first count : Nat) : TileMem :=
  if mul then setDescs m first count fun _ => ⟨path, false, 0⟩ else m

/-- EW (R84). -/
def issueEw (w : BitVec 56) (t : Tile) : Issue :=
  let m := t.mem
  let eop := wf w 52 4
  let fmt := aFmt w
  let rows := wf w 40 8 + 1
  let aA := wf w 27 13
  let bA := wf w 14 13
  let acc := wf w 5 9
  let vl := vecInLines 64 fmt
  let units := rows * rowUnits 64 (fmtExact fmt)
  let useB := decide (eop ≤ 1)
  if wf w 0 5 ≠ 0 then .fault 0x01
  else if !ifmtOk fmt || fmt == 3 || decide (4 ≤ eop) then .fault 0x02
  else if 512 < acc + units then .fault 0x06
  else if 8192 < aA + rows * vl ∨ (useB ∧ 8192 < bA + rows * vl) then .fault 0x07
  else if !coveredBy (fun _ => true) m acc units then .fault 0x08
  else if eop ≠ 0 ∧ pathFault m (fmtPath fmt) acc units then .fault 0x09
  else
    match arrayHold m acc units false
        (!linesValid m aA (rows * vl) || (useB && !linesValid m bA (rows * vl))) with
    | some h => .hold h
    | none =>
      let vecs (a : Nat) := (List.range rows).map fun r =>
        (List.range 64).map fun i => bufElem m (a + r * vl) (inBits fmt) i
      let tail := ceilDiv (ewLatency fmt) (ewCycles fmt)
      let held := (aA, rows * vl) :: (if useB then [(bA, rows * vl)] else [])
      let op : ArrayOp := ⟨.ew eop (vecs aA) (if useB then vecs bA else vecs aA), fmt, acc, units, rows, 0, tail, held⟩
      let m1 := ewDescs { m with array := m.array ++ [op] } (eop == 0) (fmtPath fmt) acc units
      issued { t with mem := m1, fetch := if rows ≤ tail then useRanges t.fetch held else t.fetch }

/-! ## The landing of one vector (R71, R72, 04 R94 to R101) -/

/-- What landing one vector changes: the Cistern, SAT and the flags. -/
structure LandRes where
  mem : TileMem
  sat : Bool
  flags : FlagSet
  deriving DecidableEq, Repr

/-- The exact column or row result of one vector as a contribution (R60, R75, 02 R48). R48 fixes the state of the sum without an order; whether
NV is set where the products hold a NaN and both infinities depends on one, and the products enter in rising index (DESIGN CHOICE,
note 133). -/
def treeOut (fmt shape : Nat) (axis : Bool) (elems xs : List Nat) (o : Nat) : Contrib :=
  (if axis then colsOf shape o else rowsOf shape o).foldl (fun a i =>
    let wv := weightVal fmt (elems.getD (if axis then cellIdx shape o i else cellIdx shape i o) 0)
    contribAdd a (contribOf (mulV (operandVal fmt (xs.getD i 0)) wv))) contribZero

/-- The three passes of an FP32 product, and one of BF16, as pairs of parts (04 R100): weight part, input part, skipped. -/
def passParts (fmt pass w x : Nat) : FVal × FVal × Bool :=
  if fmt = 5 then (operandVal 5 w, operandVal 5 x, false)
  else
    let a := split32 w
    let b := split32 x
    match pass with
    | 0 => (a.hi, b.hi, false)
    | 1 => (a.hi, b.lo, a.void || b.void)
    | _ => (a.lo, b.hi, a.void || b.void)

/-- Passes of a chunk path. -/
def passes (fmt : Nat) : Nat := if fmt = 6 then 3 else 1

/-- Products of one chunk of one output, in logical order (R96, R97); a skipped one is +0 (R100). -/
def chunkProds (fmt shape : Nat) (axis : Bool) (elems xs : List Nat) (o c pass : Nat) : List (FVal × Bool) :=
  ((if axis then colsOf shape o else rowsOf shape o).filter fun i => i / 32 == c).map fun i =>
    let p := passParts fmt pass (elems.getD (if axis then cellIdx shape o i else cellIdx shape i o) 0) (xs.getD i 0)
    if p.2.2 then (.fin false 0 0, false) else mulV p.1 p.2.1

/-- The chunk results of one output of one vector, in the order they enter the total (R101). -/
def chunksOut (fmt shape : Nat) (axis : Bool) (elems xs : List Nat) (o : Nat) : List ChunkRes :=
  (List.range (mxChunks shape axis)).flatMap fun c =>
    (List.range (passes fmt)).map fun p => chunkOf (chunkProds fmt shape axis elems xs o c p)

/-- Chunk results entering a total in order; the first replaces it under ZERO (R99, R82). -/
def totalChunks (zero : Bool) (a : Acc) (cs : List ChunkRes) : Acc × Bool × FlagSet :=
  (cs.foldl (fun (st : Bool × Acc × Bool × FlagSet) c =>
    let r := totalAdd st.1 st.2.1 c.val c.satd
    (false, r.1, st.2.2.1 || c.satd, flagOr st.2.2.2 { nv := c.nv || r.2, unf := c.unf })) (zero, a, false, {})).2

/-- An exact tree output with its upset. -/
def upsetX (u : Option Upset) (o : Nat) (x : Int) : Int :=
  match u with
  | some u => if u.out.val = o then (BitVec.ofInt 128 x ^^^ u.flip).toInt else x
  | none => x

/-- A chunk result with its upset, in its binary32 bits. -/
def upsetR (u : Option Upset) (o : Nat) (c : ChunkRes) : ChunkRes :=
  match u with
  | some u =>
    if u.out.val = o then
      { c with val := decodeF fFP32 ((BitVec.ofNat 32 (convF fFP32 .ne false c.val).bits ^^^ u.flip.extractLsb' 0 32)).toNat }
    else c
  | none => c

/-- Sum of values, with the states of R48. -/
def sumV (l : List FVal) : FVal := l.foldl (fun a v => (addV a v).1) (.fin false 0 0)

/-- The outcome of a checksum comparison (R216): passed, passed with nothing compared, failed. -/
inductive Check where
  | pass | skip | fail
  deriving DecidableEq, Repr

/-- The comparison of Q with the results and their sum Y (R216); `tol` is none on the exact path. -/
def checkQ (q : FVal) (rs : List FVal) (tol : Option FVal) : Check :=
  let rfin := rs.all isFin
  if isFin q && rfin then
    let y := sumV rs
    match tol with
    | none => if eqFin y q then .pass else .fail
    | some a =>
      let d := absV (addV y (negV q)).1
      let lim := (addV (scaleF (-20) a) (.fin false 1 (-143))).1
      if ltFin lim d then .fail else .pass
  else if !isFin q && !rfin then .skip
  else .fail

/-- Weight part of cell (k, n) in a pass, +0 where the pass skips it (R214). -/
def partW (fmt pass w : Nat) : FVal :=
  if fmt = 6 then
    let a := split32 w
    match pass with
    | 0 => a.hi
    | 1 => if a.void then .fin false 0 0 else a.hi
    | _ => if a.void then .fin false 0 0 else a.lo
  else weightVal fmt w

/-- Input part of an element in a pass (R215). -/
def partX (fmt pass x : Nat) : FVal :=
  if fmt = 6 then
    let b := split32 x
    match pass with
    | 0 => b.hi
    | 1 => if b.void then .fin false 0 0 else b.lo
    | _ => if b.void then .fin false 0 0 else b.hi
  else operandVal fmt x

/-- The check value Q and the magnitude A of one vector in one pass (R214 to R216). -/
def checkValue (fmt shape : Nat) (axis : Bool) (elems xs : List Nat) (pass : Nat) : FVal × FVal :=
  let rnd (v : FVal) : FVal := if fmtExact fmt then v else round64 v
  let lane (i : Nat) : List FVal :=
    (if axis then rowsOf shape i else colsOf shape i).map fun j =>
      partW fmt pass (elems.getD (if axis then cellIdx shape j i else cellIdx shape i j) 0)
  let x (i : Nat) : FVal := partX fmt pass (xs.getD i 0)
  let idx := List.range (inLen shape axis)
  (sumV (idx.map fun i => (mulV (x i) (rnd (sumV (lane i)))).1),
   sumV (idx.map fun i => (mulV (absV (x i)) (rnd (sumV ((lane i).map absV)))).1))

/-- A contribution's value, for the sum Y. -/
def contribVal (c : Contrib) : FVal :=
  match c.state with
  | .fin => .fin (decide (c.x < 0)) c.x.natAbs (-48)
  | .pinf => .inf false
  | .ninf => .inf true
  | .nan => .nan

/-- Vector r of an MX on the exact path written (R94), with its check (DEDUCED, note 25). -/
def landMxExact (m : TileMem) (op : ArrayOp) (b : WBlock) (axis zero : Bool) (xs : List Nat) (r : Nat) (u : Option Upset) :
    LandRes × List Check :=
  let shape := aShape b.word
  let base := op.acc + r * rowUnits (outLen shape axis) true
  let outs := (List.range (outLen shape axis)).map fun o =>
    let c := treeOut op.fmt shape axis b.elems xs o
    { c with x := upsetX u o c.x }
  let res := (List.range outs.length).foldl (fun (a : LandRes) o =>
    let e := exactAdd zero (rdAcc a.mem true base o) (outs.getD o contribZero)
    ⟨wrAcc a.mem true base o e.acc, a.sat || e.sat, flagOr a.flags { nv := e.nv }⟩) ⟨m, false, {}⟩
  let q := checkValue op.fmt shape axis b.elems xs 0
  (res, [checkQ q.1 (outs.map contribVal) none])

/-- Vector r of an MX on a chunk path written (R99, R101), with the check of every pass, each a vector of its own (09 R215). -/
def landMxChunk (m : TileMem) (op : ArrayOp) (b : WBlock) (axis zero : Bool) (xs : List Nat) (r : Nat) (u : Option Upset) :
    LandRes × List Check :=
  let shape := aShape b.word
  let base := op.acc + r * rowUnits (outLen shape axis) false
  let outs := (List.range (outLen shape axis)).map fun o =>
    (chunksOut op.fmt shape axis b.elems xs o).map (upsetR u o)
  let res := (List.range outs.length).foldl (fun (a : LandRes) o =>
    let e := totalChunks zero (rdAcc a.mem false base o) (outs.getD o [])
    ⟨wrAcc a.mem false base o e.1, a.sat || e.2.1, flagOr a.flags e.2.2⟩) ⟨m, false, {}⟩
  let np := passes op.fmt
  let chk := (List.range np).map fun p =>
    let q := checkValue op.fmt shape axis b.elems xs p
    let rs := outs.flatMap fun cs => (List.range (cs.length / np)).map fun c => (cs.getD (c * np + p) ⟨.nan, false, false, false⟩).val
    checkQ q.1 rs (some q.2)
  (res, chk)

/-- The terms an EW element adds, in order (R84, R85). -/
def ewTerms (fmt eop a b : Nat) : List (FVal × Bool) :=
  if fmt = 6 then
    let x := split32 a
    let y := split32 b
    let z : FVal × Bool := (.fin false 0 0, false)
    if eop = 2 then [(x.hi, false), if x.void then z else (x.lo, false)]
    else [mulV x.hi y.hi, if x.void || y.void then z else mulV x.hi y.lo, if x.void || y.void then z else mulV x.lo y.hi]
  else if eop = 2 then [(operandVal fmt a, false)]
  else [mulV (operandVal fmt a) (operandVal fmt b)]

/-- One element of an EW entering its accumulator (R84, R85). -/
def ewElem (exact : Bool) (fmt eop : Nat) (acc : Acc) (a b : Nat) : AccRes :=
  let ts := ewTerms fmt eop a b
  let zero := decide (eop = 0)
  if exact then exactAdd zero acc (contribOf (ts.getD 0 (.nan, false)))
  else if fmt = 5 then
    let p := ts.getD 0 (.nan, false)
    if zero then ⟨totalAcc (round64 p.1) false, false, p.2⟩
    else let r := addV (totalVal acc) p.1; ⟨totalAcc (round64 r.1) acc.satd, false, p.2 || r.2⟩
  else
    let s := (ts.drop 1).foldl (fun (st : FVal × Bool) p =>
      let r := addV st.1 p.1
      (round64 r.1, st.2 || p.2 || r.2)) (round64 (ts.getD 0 (.nan, false)).1, (ts.getD 0 (.nan, false)).2)
    if zero then ⟨totalAcc s.1 false, false, s.2⟩
    else let r := totalAdd false acc s.1 false; ⟨r.1, false, s.2 || r.2⟩

/-- Row r of an EW written. -/
def landEwRow (m : TileMem) (op : ArrayOp) (eop : Nat) (as bs : List Nat) (r : Nat) : LandRes :=
  let exact := fmtExact op.fmt
  let base := op.acc + r * rowUnits 64 exact
  (List.range 64).foldl (fun (a : LandRes) i =>
    let e := ewElem exact op.fmt eop (rdAcc a.mem exact base i) (as.getD i 0) (bs.getD i 0)
    ⟨wrAcc a.mem exact base i e.acc, a.sat || e.sat, flagOr a.flags { nv := e.nv }⟩) ⟨m, false, {}⟩

/-- The next vector of the oldest array operation lands (R71, R72): its sums enter the Cistern, its lines count their
use when its broadcasting has ended, express lines that waited for it are written (R69), the operation leaves when all its vectors have
landed. -/
def landVector (t : Tile) (u : Option Upset) : Option (Tile × List Check) :=
  match t.mem.array with
  | [] => none
  | op :: rest =>
    let r := op.done
    let res : LandRes × List Check :=
      match op.kind with
      | .mx b axis zero ins =>
        if fmtExact op.fmt then landMxExact t.mem op b axis zero (ins.getD r []) r u
        else landMxChunk t.mem op b axis zero (ins.getD r []) r u
      | .ew eop as bs => (landEwRow t.mem op eop (as.getD r []) (bs.getD r []) r, [])
    let op1 := { op with done := r + 1 }
    let mem := settleExpress { res.1.mem with array := if op.rows ≤ r + 1 then rest else op1 :: rest }
    let fetch := if broadcasting op && !broadcasting op1 then useRanges t.fetch op.lines
                 else t.fetch
    some (addFlags { t with mem := mem, fetch := fetch, sat := t.sat || res.1.sat } res.1.flags, res.2)

end Sys2Proof.Machine
end

