-- ==== Sys2Proof/Machine/RunnelOps.lean ====
section
/-! DEFINITION. The Runnel: requests and credits, arbitration, Sluices, redirection, statistics (12). -/

namespace Sys2Proof.Machine

/-- The Runnel of a die changed. -/
def modRun (s : State) (d : Nat) (f : Runnel → Runnel) : State := modDie s d fun e => { e with runnel := f e.runnel }
/-- The Sluice of a port: tile ports 0 to 135, edge slots from 136 (R293). -/
def sluiceOf (s : State) (d port : Nat) : Sluice := mget {} (dieOf s d).runnel.sluices port
/-- A region of a die. -/
def regionOf (s : State) (d r : Nat) : Region := mget {} (dieOf s d).mortar.regions r
/-- The Sluice of a region's attach point and Basin port: edge slot 25 + r (R286). -/
def regionPort (r : Nat) : Nat := 136 + 25 + r

/-! ## Where lines are served (R286; 06 R162) -/

/-- The port and plane at which a line of a partition is served for an initiator of die `d`, where its address resolves on die `e`: its HBM
group or Basin bank, by plane 1 for a read and plane 2 for a write, or the die-to-die slot toward its die on plane 3. A staging
ring lies in the Basin (06 R168). -/
def accessPort (s : State) (d e pn addr : Nat) (write : Bool) : Nat × Nat :=
  if e ≠ d then (d2dPort d e addr, 3)
  else
    let plane := if write then 2 else 1
    match (partOf s pn).map (fun p => place p pn addr) with
    | some (.hbm k) => (136 + k / 2 ^ 18 % 64 / 4, plane)
    | some (.basin k) => (136 + 17 + (Config.basinBank k).val, plane)
    | _ => (136 + 17 + (Config.basinBank (2 ^ 40 + pn * 2 ^ 30 + addr % 2 ^ 30)).val, plane)
/-- The die that holds a line a tile's part on die `d` names: a staging line lies on its own die. -/
def lineDie (s : State) (d : Nat) (c : PartCtx) (a : Nat) : Nat := if a / 2 ^ 30 = 2 then d else tileDie s d c a
/-- The ports and planes at which lines that a tile's part names are served. -/
def linePorts (s : State) (d : Nat) (c : PartCtx) (write : Bool) (l : List Nat) : List (Nat × Nat) :=
  (l.map (fun a => accessPort s d (lineDie s d c a) c.part a write)).eraseDups

/-! ## Credits (R289, R303) -/

/-- The credits of a class at a target on a plane. -/
def classCredits (plane cls : Nat) : Nat :=
  if plane = 0 then (match cls with | 0 => 12 | 1 => 12 | 3 => 8 | _ => 0) else if cls < 2 then 24 else 8
/-- The activity class of a partition: 0 serving, 1 training. -/
def partCls (s : State) (pn : Nat) : Nat := match partOf s pn with | some p => b2n p.cur.training | none => 0
/-- The partitions of a class with a span on the die: number and credit share. -/
def classParts (s : State) (d cls : Nat) : List (Nat × Nat) :=
  (s.parts.filter (fun p => decide ((if p.2.cur.training then 1 else 0) = cls) && (spanDies p.2).contains d)).map (fun p => (p.1, p.2.cur.credit))
/-- A partition's credits of its class (R289): in proportion to its share, at least one, the remainder to the lowest-numbered. Where the
least of one makes the divisions exceed the class's credits, the class's own bound holds beside them (DEDUCED, note 48). -/
def partCredits (ps : List (Nat × Nat)) (c pn : Nat) : Nat :=
  let total := max 1 (ps.foldl (fun a p => a + p.2) 0)
  let q (p : Nat × Nat) : Nat := max 1 (c * p.2 / total)
  let used := ps.foldl (fun a p => a + q p) 0
  match ps.find? (fun p => p.1 == pn) with
  | none => 0
  | some p => q p + (if ps.head? = some p then c - used else 0)
/-- The credits a tile's own traffic holds: for each of its reads and write-backs one at every port that has lines of it still to come
(DEDUCED, note 48). -/
def tileCredits (s : State) (d : Nat) (t : Tile) (c : PartCtx) : List (Nat × Nat) :=
  (t.fetch.pending.filter (fun r => r.credited)).flatMap (fun r => linePorts s d c false (r.srcs.drop r.arrived)) ++
    t.mem.wbs.flatMap (fun b => linePorts s d c true ((upTo b.data.length).map (b.addr + ·)))
/-- The Vidonlink port of plane 0, where express messages leave the die: slot 17 (R286). -/
def expressPort : Nat := 136 + 17
/-- The partition that owns a logical tile of a die, by number. -/
def ltPart (s : State) (d lt : Nat) : Option Nat := (s.parts.find? (fun p => p.2.tiles.contains (ltKey d lt))).map (·.1)
/-- The credits of express messages of a die's own tiles that wait in its Vidonlink port (05 R146, 14 R339): a flit that comes from another
die or module holds none. -/
def expressCredits (s : State) (d : Nat) : List (Nat × Nat × Nat) :=
  (mget [] (portOf s d).txq (txKey 0 0)).filterMap (fun pkt =>
    match pkt with
    | x :: _ =>
      let n := x.toNat
      if bitsOf n 51 8 = modId s d ∧ bitsOf n 47 4 = d then (ltPart s d (bitsOf n 40 7)).map (fun pn => (pn, expressPort, 0)) else none
    | [] => none)
/-- The credits held by the traffic of a die's tiles, by their express messages and by the staging pieces it has sent: partition, port, plane. -/
def movedCredits (s : State) (d : Nat) : List (Nat × Nat × Nat) :=
  expressCredits s d ++
  (s.tiles.filter (fun e => e.1 / 136 == d)).flatMap (fun e =>
      match e.2.part with | some c => (tileCredits s d e.2 c).map (fun q => (c.part, q)) | none => []) ++
    s.dies.flatMap (fun e => e.2.staging.flatMap (fun g =>
      (g.2.incoming.filter (fun x => x.sender == d && e.1 != d)).map (fun x => (g.1, d2dPort d e.1 x.slice, 3))))
/-- The credits taken at a target on a plane by a class, or by one partition of it. -/
def taken (s : State) (d target plane cls : Nat) (part : Option Nat) : Nat :=
  ((dieOf s d).runnel.reqs.filter (fun q => q.credited && q.target == target && q.plane == plane && q.cls == cls && (part.isNone || q.part == part))).length +
    ((movedCredits s d).filter (fun x => partCls s x.1 == cls && (part.isNone || part == some x.1) && x.2 == (target, plane))).length
/-- Whether the partitions of a class outnumber its credits, which then form one pool (R289). -/
def pooled (s : State) (d plane cls : Nat) : Bool := decide (cls < 2) && decide (classCredits plane cls < (classParts s d cls).length)
/-- Whether a request may take a credit (R289): of its partition's division, of the pool where the partitions outnumber the
credits, of its class otherwise. -/
def creditFree (s : State) (d target plane cls : Nat) (part : Option Nat) : Bool :=
  let c := classCredits plane cls
  let whole := decide (taken s d target plane cls none < c)
  match part with
  | some pn => if cls < 2 ∧ !pooled s d plane cls then decide (taken s d target plane cls part < partCredits (classParts s d cls) c pn) && whole else whole
  | none => whole
/-- Whether a tile's part holds a credit at every port that serves some lines. -/
def creditsFor (s : State) (d : Nat) (c : PartCtx) (write : Bool) (l : List Nat) : Bool :=
  (linePorts s d c write l).all (fun q => creditFree s d q.1 q.2 (partCls s c.part) (some c.part))
/-- Credits taken on a plane by a class over all targets (RUN_AUDIT_n). -/
def auditRun (s : State) (d plane cls : Nat) : Nat :=
  ((dieOf s d).runnel.reqs.filter (fun q => q.credited && q.plane == plane && q.cls == cls)).length +
    ((movedCredits s d).filter (fun x => partCls s x.1 == cls && x.2.2 == plane)).length

/-! ## Statistics (R299 to R301) -/

/-- The key of an initiator's statistics on a plane. -/
def statKey (init plane : Nat) : Nat := init * 4 + plane
/-- The histogram bin of a latency (R300). -/
def latBin (c : Nat) : Nat :=
  if c < 16 then 0 else (((upTo 14).find? (fun b => decide (c < 16 * 2 ^ (b + 1)))).map (· + 1)).getD 15
/-- A counter of 32 bits, saturating. -/
def sat32 (n : Nat) : Nat := min n 0xFFFFFFFF
/-- CK_RUN cycles in a time of whole ns. -/
def runCycles (ns : Nat) : Nat := ns * 8 / 5
/-- A latency, in CK_RUN cycles, added. -/
def addLatency (x : RunStat) (c : Nat) : RunStat :=
  { x with
    min := min x.min (sat32 c), max := max x.max (sat32 c), sum := x.sum + c, count := sat32 (x.count + 1)
    hist := mput x.hist (latBin c) (sat32 (mget 0 x.hist (latBin c) + 1)) }
/-- Bytes sent, saturating at 64 bits. -/
def addSent (x : RunStat) (n : Nat) : RunStat := { x with sent := min (x.sent + n) (2 ^ 64 - 1) }
/-- Bytes received. -/
def addReceived (x : RunStat) (n : Nat) : RunStat := { x with received := min (x.received + n) (2 ^ 64 - 1) }
/-- Statistics of an initiator and plane changed. -/
def modStat (r : Runnel) (init plane : Nat) (f : RunStat → RunStat) : Runnel := { r with stats := mmod {} r.stats (statKey init plane) f }
/-- The same for several ports of one tile's request. -/
def statAll (s : State) (d init : Nat) (l : List (Nat × Nat)) (f : RunStat → RunStat) : State :=
  modRun s d fun r => l.foldl (fun a q => modStat a init q.2 f) r
/-- SNAP (R301): the selected statistics are copied and then cleared. -/
def snapshot (s : State) (d : Nat) : State :=
  let k := statKey (fld s (runB d + 0x100) 0 8) (fld s (runB d + 0x100) 8 2)
  modRun s d fun r => { r with snap := mget {} r.stats k, stats := mdel r.stats k }

/-! ## Requests (R288 to R292) -/

/-- Whether two requests are of one flow: one initiator, target, plane and class (R292). -/
def sameFlow (a b : RunReq) : Bool := a.init == b.init && a.target == b.target && a.plane == b.plane && a.cls == b.cls
/-- A request by its number. -/
def reqOf (r : Runnel) (id : Nat) : Option RunReq := r.reqs.find? (fun q => q.id == id)
/-- A request changed. -/
def modReq (r : Runnel) (id : Nat) (f : RunReq → RunReq) : Runnel := { r with reqs := r.reqs.map (fun q => if q.id = id then f q else q) }

/-- A request to a logical tile goes to the physical tile of the map, stamped with its GEN (R288); one to an edge port goes there. -/
def aim (s : State) (d : Nat) (q : RunReq) : Option RunReq :=
  match q.lt with
  | none => some q
  | some l => (ptOf s d l).map (fun m => { q with target := m.1, gen := m.2 })
/-- A request that has its credit is sent on its route (R287, R289): a read with its receive space reserved (R290). -/
def sendReq (s : State) (d : Nat) (q : RunReq) : State :=
  let k := (q.target * 4 + q.plane) * 4 + q.cls
  modRun s d fun r =>
    modStat
      { r with
        reqs := r.reqs.map (fun x =>
          if x.id = q.id then
            { q with place := .transit, credited := true, sentAt := mltNs s, space := if q.write then 0 else q.lines, path := runRoute (initPort q.init) q.target }
          else x)
        granted := match q.part with | some pn => mput r.granted k pn | none => r.granted }
      q.init q.plane (fun x => addSent x (64 * (if q.write then q.lines else 1)))
/-- The waiting requests that may be sent: the oldest of their flow, with a credit free. -/
def sendable (s : State) (d : Nat) : List RunReq :=
  let rs := (dieOf s d).runnel.reqs
  (rs.filter (fun q => q.place == .waiting && !rs.any (fun x => x.place == .waiting && sameFlow x q && decide (x.id < q.id)))).filterMap (fun q =>
    (aim s d q).bind (fun q => if creditFree s d q.target q.plane q.cls q.part then some q else none))
/-- How far a partition stands behind the last one granted, in round-robin order. -/
def turn (last : Nat) (q : RunReq) : Nat := match q.part with | some pn => (pn + 127 - last) % 64 | none => 64
/-- Of the requests that may be sent the next one: the oldest, or in a pool the one whose partition is next in round-robin order (R289). -/
def nextSend (s : State) (d : Nat) : Option RunReq :=
  match sendable s d with
  | [] => none
  | q :: rest =>
    if pooled s d q.plane q.cls then
      let last := mget 63 (dieOf s d).runnel.granted ((q.target * 4 + q.plane) * 4 + q.cls)
      some ((rest.filter (fun x => x.target == q.target && x.plane == q.plane && x.cls == q.cls)).foldl
        (fun a x => if turn last x < turn last a then x else a) q)
    else some q
/-- Waiting requests sent while credits are free. -/
def grantFuel : Nat → State → Nat → State
  | 0, s, _ => s
  | n + 1, s, d => match nextSend s d with | some q => grantFuel n (sendReq s d q) d | none => s
/-- Waiting requests sent while credits are free. -/
def grantWaiting (s : State) (d : Nat) : State := grantFuel (dieOf s d).runnel.reqs.length s d

/-- Whether a port of memory serves a line of a partition on a plane (R286): its HBM group or Basin bank on planes 1 and 2, any memory bridge
on plane 3. -/
def portServes (s : State) (d pn plane target addr : Nat) : Bool :=
  match slotUse d plane (target - 136) with
  | .bridge _ => true
  | _ => accessPort s d d pn addr (plane == 2) == (target, plane)
/-- Whether a request can be sent as it stands (R162, R257, R286, R288): both ends have a port on the plane, a tile is named by its logical
number, plane 1 reads and plane 2 writes, the class has credits there, a partition's request has its class, a memory port serves the lines. -/
def requestOk (s : State) (d : Nat) (q : RunReq) : Bool :=
  let memory := match slotUse d q.plane (q.target - 136) with | .hbm _ => true | .basin _ => true | .bridge _ => true | _ => false
  initOn d q.init q.plane && portUsed d q.plane q.target && (q.lt.isSome == decide (q.target < 136)) && (q.plane != 1 || !q.write) && (q.plane != 2 || q.write) &&
    decide (0 < classCredits q.plane q.cls) &&
    (match q.part with
     | some pn => (decide (1 < q.cls) || q.cls == partCls s pn) &&
         (q.target < 136 || !memory || (upTo (if q.write then q.data.length else q.lines)).all (fun i =>
           (match partOf s pn with | some p => place p pn (q.addr + i) == .refused | none => true) || portServes s d pn q.plane q.target (q.addr + i)))
     | none => decide (q.target < 136) || !memory) &&
    (decide (136 ≤ q.init) || (match (tileOf s d q.init).part, q.part with | some c, some pn => c.part == pn | _, _ => true))

/-- A request that is answered without being sent: by the Sluice in front of it, or by a region's attach point. -/
def answered (q : RunReq) (st : Status) : RunReq := { q with place := .response, status := st, credited := false, data := [] }
/-- Whether a region sends requests: released and not isolated (10 R247). -/
def regionSends (s : State) (d r : Nat) : Bool := (regionOf s d r).phase == .released && !(regionOf s d r).isolated
/-- The place a request takes as it is issued: a region that is isolated sends none, one bound to no partition is answered ADDR, one of
another partition's addresses is none of its own (10 R257, R258); the hub's raised Sluice answers (R295). -/
def admitReq (s : State) (d : Nat) (q : RunReq) : Option RunReq :=
  if 136 ≤ q.init ∧ q.init < 144 then
    let r := q.init - 136
    if !regionSends s d r then none
    else match (regionOf s d r).boundTo with
      | none => some (answered { q with part := none } 0x22)
      | some pn => if q.part = some pn ∧ requestOk s d q then some q else none
  else if !requestOk s d q then none
  else if q.init = 145 ∧ (dieOf s d).hubSluice.phase ≠ .opened then some (answered q 0x10)
  else some q

/-- RUNNEL_REQUEST (R288 to R290): a request issues, waits for its credit and is sent with it; one to a logical tile goes to the physical
tile of the map with its GEN. To an unmapped tile, or where it cannot be sent as it stands, nothing issues (DEDUCED, note 93). -/
def execRunnelRequest (die : Die) (init : Fin 151) (target : Fin 170) (plane cls : Fin 4) (part : Option (Fin 64)) (write : Bool)
    (addr lines : Nat) (data : List Line) (lt : Option (Fin 128)) (s : State) : Out :=
  .next <|
    let q0 : RunReq :=
      { id := (dieOf s die).runnel.nextId, init := init, target := if lt.isSome then 0 else target, plane := plane, cls := cls, part := part.map (·.val), write := write
        addr := addr, lines := if write then data.length else lines, data := data, lt := lt.map (·.val), gen := 0, issued := mltNs s, place := .waiting, credited := false }
    match (aim s die q0).bind (admitReq s die) with
    | none => s
    | some q => grantWaiting (modRun s die fun r => { r with reqs := r.reqs ++ [q], nextId := r.nextId + 1 }) die

/-- A Sluice answers a request with E_TARGET_OFF; its credit returns with the answer (R294). -/
def sluiceAnswer (q : RunReq) : RunReq := answered q 0x10

/-- The access itself: at a memory port of planes 1 to 3 lines are read or written for the request's partition, through its Basin window or
bank set (06 R152); any other target takes the request inside. -/
def serve (s : State) (d : Nat) (q : RunReq) : State × RunReq :=
  let memory := decide (136 ≤ q.target) && (match slotUse d q.plane (q.target - 136) with | .hbm _ => true | .basin _ => true | .bridge _ => true | _ => false)
  match q.part, memory with
  | some pn, true =>
    if q.write then
      let r := writeLines s pn d q.addr q.data
      (r.2, { q with place := .inside, status := r.1 })
    else
      let r := readLines s pn d q.addr q.lines
      (s, { q with place := .inside, status := r.1, data := r.2 })
  | _, _ => (s, { q with place := .inside })

/-- Whether a request has come to its target's port: its longest transit has passed (R291, in ns). -/
def atPort (s : State) (q : RunReq) : Bool :=
  decide (q.sentAt + (if q.plane = 0 then (if q.cls < 2 then 15 else 25) else 35) ≤ mltNs s)
/-- Whether a class goes before another at a port whose last grant went to class `last` (R291): on plane 0 express before control, else
round-robin. -/
def clsBefore (plane last a b : Nat) : Bool :=
  if plane = 0 ∧ (a < 2 ∧ 2 ≤ b ∨ b < 2 ∧ 2 ≤ a) then decide (a < b) else decide ((a + 7 - last) % 4 < (b + 7 - last) % 4)
/-- Whether a request must wait at its port for one of another class (R291). -/
def outranked (s : State) (r : Runnel) (q : RunReq) : Bool :=
  let last := mget 3 r.lastCls (q.target * 4 + q.plane)
  r.reqs.any (fun x => x.place == .transit && x.target == q.target && x.plane == q.plane && x.cls != q.cls && atPort s x && clsBefore q.plane last x.cls q.cls)

/-- RUNNEL_REQUEST_ARRIVAL (R289, R291 to R294, R297): in issue order of its flow and in turn of its class the request reaches its target: an
open Sluice passes it, DRAIN and CLOSED answer E_TARGET_OFF, REDIRECT forwards it to the new tile. -/
def execRunnelRequestArrival (die : Die) (id : Nat) (s : State) : Out :=
  .next <|
    let r := (dieOf s die).runnel
    match reqOf r id with
    | none => s
    | some q =>
      if q.place ≠ .transit ∨ r.reqs.any (fun x => sameFlow x q && x.place == .transit && decide (x.id < id)) ∨ outranked s r q then s
      else
        let sl := sluiceOf s die q.target
        let s1 := modRun s die fun r => { r with lastCls := mput r.lastCls (q.target * 4 + q.plane) q.cls }
        match sl.phase with
        | .opened =>
          let a := serve s1 die q
          modRun a.1 die fun r => modReq r id (fun _ => a.2)
        | .redirect => modRun s1 die fun r => modReq r id (fun q => { q with target := sl.newPt, path := q.path ++ runRoute q.target sl.newPt })
        | _ => grantWaiting (modRun s1 die fun r => modReq r id sluiceAnswer) die

/-- Whether the side of an initiator is isolated, so that its Sluice absorbs a response (R293, R297; 10 R258 of a region). -/
def absorbs (s : State) (d init : Nat) : Bool :=
  (match (sluiceOf s d (initPort init)).phase with | .closed => true | .redirect => true | _ => false) ||
    (decide (136 ≤ init) && decide (init < 144) && (regionOf s d (init - 136)).isolated)

/-- The status a region's logic sees (10 R258): OK, ADDR, OFF, ECC. -/
def respStatus (st : Status) : BitVec 2 := if st = 0 then 0 else if st = 0x10 then 2 else if st = 0x50 then 3 else 1
/-- A response reaches a region's logic: its status, and one other than OK counted in MOR_REG_r.ERRS (10 R258): regions are initiators
136 to 143. -/
def countErr (s : State) (d init : Nat) (st : Status) : State :=
  if 136 ≤ init ∧ init < 144 then
    let s1 := modDie s d fun e => { e with mortar := { e.mortar with regions := mmod {} e.mortar.regions (init - 136) fun x => { x with lastResp := respStatus st } } }
    if st ≠ 0 then bump s1 (morB d + 0x100 + 4 * (init - 136)) 0 16 1 else s1
  else s

/-- RUNNEL_RESPONSE (R290, R292, R294, R299): the response of a served or answered request reaches its initiator, in the order
of its flow: its credit and its receive space are back, its latency counted; an isolated initiator's Sluice absorbs it. -/
def execRunnelResponse (die : Die) (id : Nat) (s : State) : Out :=
  .next <|
    let r := (dieOf s die).runnel
    match reqOf r id with
    | none => s
    | some q =>
      if q.place = .transit ∨ q.place = .waiting ∨ r.reqs.any (fun x => sameFlow x q && decide (x.id < id)) then s
      else
        let s1 := modRun s die fun r => { r with reqs := r.reqs.filter (fun x => x.id != id) }
        let s2 :=
          if absorbs s die q.init then bump s1 (runB die) 0 16 1
          else modRun (countErr s1 die q.init q.status) die fun r =>
            modStat r q.init q.plane (fun x => addReceived (addLatency x (runCycles (mltNs s - q.issued))) (if q.write then 0 else 64 * q.data.length))
        grantWaiting s2 die

/-! ## Sluices (R293 to R298) -/

/-- The Sluice of a port raised: OPEN to DRAIN; in DRAIN no effect; REDIRECT to CLOSED (R298). -/
def raiseOne (now : Nat) (x : Sluice) : Sluice :=
  match x.phase with
  | .opened => { x with phase := .drain, raisedAt := now }
  | .redirect => { x with phase := .closed }
  | _ => x
/-- Whether a raise changes nothing: a domain under isolation has these ports already (R298). -/
def raisedAlready (r : Runnel) (ports : List Nat) : Bool := r.domains.any (fun x => ports.all x.contains)
/-- The Sluices of a domain raised (R295 steps 1 and 2) (DESIGN CHOICE, note 49). -/
def raiseSluices (s : State) (d : Nat) (ports : List Nat) : State :=
  if raisedAlready (dieOf s d).runnel ports then s
  else
    setFlag (modRun s d fun r =>
      { r with sluices := ports.foldl (fun a p => mmod {} a p (raiseOne (mltNs s))) r.sluices, domains := ports :: r.domains }) (runB d) 30 false
/-- Every port of a die. -/
def allPorts : List Nat := upTo 170

/-- SLUICE_RAISE (R295): the module manager raises the Sluices of the ports that lead into a domain. -/
def execSluiceRaise (die : Die) (ports : List Nat) (s : State) : Out :=
  if ports.any (fun p => decide (170 ≤ p)) then .fault .illFormed else .next (raiseSluices s die ports)

/-- Whether nothing is left inside a domain, its responses delivered (R295 step 3). -/
def domainQuiet (s : State) (d : Nat) (ports : List Nat) : Bool :=
  (dieOf s d).runnel.reqs.all (fun q => !ports.contains q.target || q.place == .transit || q.place == .waiting) &&
    (movedCredits s d).all (fun x => !ports.contains x.2.1)
/-- Whether the drain of a Sluice is over (R295): 20 µs after its raise, or once nothing is left inside a domain it leads into. -/
def drainOver (s : State) (d port : Nat) : Bool :=
  let x := sluiceOf s d port
  x.phase == .drain && (decide (x.raisedAt + 20000 ≤ mltNs s) || (dieOf s d).runnel.domains.any (fun l => l.contains port && domainQuiet s d l))
/-- The drain of Sluices ends: what is unanswered inside is answered with E_TARGET_OFF, and they close (R295 step 4). -/
def endDrain (s : State) (d : Nat) (ended : Nat → Bool) : State :=
  modRun s d fun r =>
    { r with
      reqs := r.reqs.map (fun q => if ended q.target && q.place == .inside then sluiceAnswer q else q)
      sluices := r.sluices.map (fun e => if ended e.1 then (e.1, { e.2 with phase := .closed }) else e) }
/-- The hub's Sluice toward a die after its drain (R295). -/
def hubDrain (s : State) (d : Nat) : State :=
  let x := (dieOf s d).hubSluice
  if x.phase = .drain ∧ (x.raisedAt + 20000 ≤ mltNs s ∨ !(dieOf s d).runnel.reqs.any (fun q => q.init == 145)) then
    modDie s d fun e => { e with hubSluice := { x with phase := .closed } }
  else s

/-- SLUICE_DRAIN_EXPIRY (R295 steps 3 and 4): each Sluice 20 µs after its raise, or once nothing is left inside its domain. -/
def execSluiceDrainExpiry (die : Die) (s : State) : Out :=
  .next (grantWaiting (hubDrain (endDrain s die (drainOver s die)) die) die)

/-- A tile as its die loses power: its registers of MT_ and SEQ_ keep what they count until they are read (03 R90; 05 R150). -/
def darkTile (t : Tile) : Tile :=
  { seq := { lovr := t.seq.lovr, faultValid := t.seq.faultValid, faultCause := t.seq.faultCause, faultPc := t.seq.faultPc, maxWait := t.seq.maxWait }
    mem := { waitOpnd := t.mem.waitOpnd, waitAcc := t.mem.waitAcc, waitShadow := t.mem.waitShadow } }
/-- A die powered down (19 R465 step 6): its tiles, its stored lines and its unit states are lost. -/
def powerDownDie (s : State) (d : Nat) : State :=
  let s1 := modDie s d fun e =>
    { runnel := e.runnel, fenced := e.fenced, masked := e.masked, hubSluice := e.hubSluice
      lastMap := e.ltMap.foldl (fun a m => match m.2 with | some x => mput a m.1 x | none => a) e.lastMap }
  { s1 with tiles := s1.tiles.map (fun e => if e.1 / 136 = d then (e.1, darkTile e.2) else e), ports := mdel s1.ports d }

/-- Whether a domain has come to step 6 of R295: its Sluices are closed, no request to it or of it is open, its credits are back. -/
def domainSafe (s : State) (d : Nat) (ports : List Nat) : Bool :=
  let r := (dieOf s d).runnel
  ports.all (fun p => (sluiceOf s d p).phase == .closed) &&
    r.reqs.all (fun q => !ports.contains q.target && !ports.contains (initPort q.init)) &&
    (movedCredits s d).all (fun x => !ports.contains x.2.1) &&
    ports.all (fun p => decide (136 ≤ p) || ((tileOf s d p).fetch.pending.isEmpty && (tileOf s d p).mem.wbs.isEmpty))
/-- Whether the ports of a die's neighbours and of the hub toward it are closed and nothing waits in them. -/
def aroundSafe (s : State) (d : Nat) : Bool :=
  (neighbourPorts d).all (fun n => !dieUp s n.1 || n.2.all (fun p => (sluiceOf s n.1 p).phase == .closed) &&
      (dieOf s n.1).runnel.reqs.all (fun q => !n.2.contains q.target)) &&
    ((dieOf s d).hubSluice.phase == .closed || !hubDies.contains d)

/-- The end of an isolation (R295 steps 5 to 7): a domain that has come to step 6 is done; SAFE is set with the last isolated one; a fenced
die is then powered down. -/
def sluiceSafe (s : State) (die : Nat) : State :=
  let l := (dieOf s die).runnel.domains
  let safe := l.filter (domainSafe s die)
  let dark := (dieOf s die).fenced && safe.any (fun x => allPorts.all x.contains)
  if safe.isEmpty || (dark && !aroundSafe s die) then s
  else
    let s1 := modRun s die fun r => { r with domains := r.domains.filter (fun x => !safe.contains x) }
    let s2 := if (match l with | x :: _ => safe.contains x | [] => false) then setFlag s1 (runB die) 30 true else s1
    if dark then powerDownDie s2 die else s2

/-- A Sluice returned to OPEN with fresh credits (R296). -/
def openSluice (s : State) (d port : Nat) : State :=
  modRun s d fun r =>
    { r with
      sluices := mdel r.sluices port, domains := (r.domains.map (fun x => x.filter (· != port))).filter (fun x => !x.isEmpty)
      reqs := r.reqs.map (fun q => if q.target = port then { q with credited := false } else q) }

/-- The Runnel ports whose traffic waits on a clock domain of a die (15 R387) (DEDUCED, note 107). -/
def domainPorts (s : State) (d dom : Nat) : List Nat :=
  match dom with
  | 1 => upTo 136
  | 2 => allPorts
  | 3 => ((upTo 8).filter (fun r => (regionOf s d r).clks.testBit 0)).map regionPort
  | 4 => ((upTo 8).filter (fun r => (regionOf s d r).clks.testBit 1)).map regionPort
  | 5 => ((upTo 8).filter (fun r => (regionOf s d r).clks.testBit 2)).map regionPort
  | 6 => (upTo 16).map (· + 136) ++ (upTo 4).map (· + 156)
  | 7 => (upTo 16).map (· + 136) ++ (upTo 4).map (· + 156)
  | 8 => [153, 154]
  | _ => []
/-- Whether what lies behind a port can answer again (R296): its die is up and no stopped clock holds the port; a tile has a role (R297), a
region is released, a die-to-die slot leads to a die that is up. -/
def canAnswer (s : State) (d port : Nat) : Bool :=
  dieUp s d && !s.hub.stopped.any (fun x => x.1 == d && (domainPorts s d x.2).contains port) &&
    (if port < 136 then (dieOf s d).ltMap.any (fun m => match m.2 with | some x => x.1 == port | none => false)
     else if port < 152 then dieUp s (d2dNext d ((port - 136) / 4))
     else if 161 ≤ port ∧ port < 169 then regionSends s d (port - 161)
     else true)

/-- SLUICE_OPEN (R296): a closed Sluice opens again once the domain behind it can answer. -/
def execSluiceOpen (die : Die) (port : Fin 170) (s : State) : Out :=
  .next (if (sluiceOf s die port).phase = .closed ∧ canAnswer s die port then grantWaiting (openSluice s die port) die else s)

/-- REDIRECT_END (R297): after 256 CK_RUN cycles, 160 ns, REDIRECT becomes CLOSED. -/
def execRedirectEnd (die : Die) (pt : PT) (s : State) : Out :=
  .next <|
    let sl := sluiceOf s die pt
    if sl.phase = .redirect ∧ sl.raisedAt + 160 ≤ mltNs s then
      modRun s die fun r => { r with sluices := mput r.sluices pt { sl with phase := .closed } }
    else s

/-- A tile's Sluice put into REDIRECT toward its logical tile's new place (R297). -/
def redirect (s : State) (d old new : Nat) : State :=
  modRun s d fun r => { r with sluices := mput r.sluices old ⟨.redirect, mltNs s, new⟩ }

/-! ## The traffic of a tile (06 R162; 12 R289 to R294) -/

/-- Whether the Sluice in front of a line passes a request that issued at a time (R293, R294): OPEN, or DRAIN where it was inside by then. -/
def gateOpen (s : State) (d : Nat) (c : PartCtx) (a : Nat) (write : Bool) (issued : Nat) : Bool :=
  let sl := sluiceOf s d (accessPort s d (lineDie s d c a) c.part a write).1
  match sl.phase with | .opened => true | .drain => decide (issued < sl.raisedAt) | _ => false
/-- A read of a tile's fetch engine issued: bytes sent, one request of 64 bytes at each port (R300). -/
def sentRead (s : State) (d p : Nat) (c : PartCtx) (l : List Nat) : State :=
  statAll s d p (linePorts s d c false l) (fun x => addSent x 64)
/-- A line of a read arrived: with the first its latency, with each its bytes (R299, R300). -/
def receivedLine (s : State) (d p : Nat) (c : PartCtx) (r : FetchReq) (a : Nat) : State :=
  statAll s d p [accessPort s d (lineDie s d c a) c.part a false] (fun x =>
    addReceived (if r.arrived = 0 then addLatency x (runCycles (mltNs s - r.issued)) else x) 64)

end Sys2Proof.Machine
end

