-- ==== Sys2Proof/Machine/Feed.lean ====
section
/-! DEFINITION. The fetch engine of a tile (06): list lines, the entries SETUP, FETCH, MARK and END, fetched data, marks and
the staging ring of chain streaming. -/

namespace Sys2Proof.Machine

/-! ## The list -/

/-- The fetch-list entry the engine is at, where its line has arrived (R153): words 0 and 1. -/
def entryAt (f : Fetcher) : Option (Nat × Nat) :=
  match f.linesHeld with
  | [] => none
  | l :: _ => let x := l.toNat >>> (128 * (f.entry % 4)); some (x % 2 ^ 64, (x >>> 64) % 2 ^ 64)
/-- TYPE of an entry: 0 FETCH, 1 MARK, 2 SETUP, 3 END. -/
def entryType (e : Nat × Nat) : Nat := bitsOf e.1 62 2
/-- The engine moves to the next entry; a list line whose four entries are done is given up. -/
def nextEntry (f : Fetcher) : Fetcher :=
  { f with entry := f.entry + 1, linesHeld := if f.entry % 4 = 3 then f.linesHeld.drop 1 else f.linesHeld }

/-- A tile's operation ended by its fetch engine (R152, R154, R161, R168): every tile stops, the record names the tile and, for a
refused access, its address. -/
def failTile (s : State) (d : Nat) (c : PartCtx) (code : BitVec 8) (addr : Nat) : State :=
  endOp (looseDests s c.op) c.op code fun i => { i with lt := c.lt, fdie := d, xaddr := BitVec.ofNat 32 addr }

/-- A tile of a running part faulted (05 R133) or its address was refused (06 R152): its other tiles stop and the operation
completes with E_VERSION, naming the cause or the address and the logical tile. -/
def endByTile (s : State) (d p : Nat) (code : BitVec 8) (cause : Nat) (xaddr : Nat) : State :=
  match (tileOf s d p).part with
  | none => s
  | some c =>
    match opOf s c.op with
    | none => s
    | some o =>
      if decided o then s
      else
        let s1 := stopTiles (looseDests s c.op) c.op (fun k => k == tileKey d p)
        modOp s1 c.op fun o =>
          { o with
            phase := .recordDue, code := code, seedE := 0,
            info := { o.info with cause := BitVec.ofNat 8 cause, xaddr := BitVec.ofNat 32 xaddr, lt := c.lt, fdie := d } }

/-- A tile whose engine can act on an entry of a type: it runs, no MARK holds it, the entry has come. -/
def atEntry (s : State) (d p typ : Nat) : Option (Tile × PartCtx × (Nat × Nat)) :=
  let t := tileOf s d p
  match t.part, entryAt t.fetch with
  | some c, some e => if t.fetch.running ∧ t.fetch.mark = none ∧ entryType e = typ then some (t, c, e) else none
  | _, _ => none

/-- The staging ring of a partition on a die. -/
def stagingOf (s : State) (d pn : Nat) : Staging := mget {} (dieOf s d).staging pn
/-- A staging ring changed. -/
def modStaging (s : State) (d pn : Nat) (f : Staging → Staging) : State :=
  modDie s d fun e => { e with staging := mmod {} e.staging pn f }
/-- A staging line of a layer, where its piece has arrived and is held. -/
def stagingLine (s : State) (d pn layer a : Nat) : Option Line :=
  ((stagingOf s d pn).pieces.find? (fun x => x.layer == layer && x.idx == a / pieceLines)).map
    (fun x => x.lines.getD (a % pieceLines) 0)

/-- Whether a tile's port lets new requests out: its Sluice is open. -/
def portOpen (s : State) (d p : Nat) : Bool := (sluiceOf s d p).phase == .opened
/-- Whether an END stands among the entries held, the engine's own and those after it. -/
def endHeld (f : Fetcher) : Bool :=
  f.linesHeld.zipIdx.any (fun l => (upTo 4).any (fun i => (decide (f.entry % 4 ≤ i) || decide (0 < l.2)) && l.1.toNat >>> (128 * i + 62) % 4 == 3))
/-- The engine requests the next line of its list over plane 1 (R153, R162): one at a time, while it holds fewer than two, the entry's own
line among them (DESIGN CHOICE, note 137), none past END, each with its credit (12 R289). -/
def askList (s : State) (d p : Nat) : State :=
  let t := tileOf s d p
  match t.part with
  | none => s
  | some c =>
    let f := t.fetch
    let a := f.listAddr + f.entry / 4 + f.linesHeld.length
    if !f.running || decide (2 ≤ f.linesHeld.length) || f.pending.any (fun r => r.kind == .list) || endHeld f || !portOpen s d p || !creditsFor s d c false [a] then s
    else
      let r : FetchReq := { dst := 0, srcs := [a], arrived := 0, kind := .list, layer := f.layer, issued := mltNs s }
      sentRead (modTile s d p fun t => { t with fetch := { t.fetch with pending := t.fetch.pending ++ [r] } }) d p c [a]

/-- What comes back for the next line of a read: none where it has not come to it, since an older read of the tile waits at the same port (12
R292) or its staging piece is not there; else the status and the line, E_TARGET_OFF from a raised Sluice (R161; 12 R294). -/
def readAnswer (s : State) (d : Nat) (c : PartCtx) (older : List FetchReq) (r : FetchReq) : Option (Status × Line) :=
  let a := r.srcs.getD r.arrived 0
  let q := accessPort s d (lineDie s d c a) c.part a false
  if older.any (fun x => (linePorts s d c false (x.srcs.drop x.arrived)).contains q) then none
  else if !gateOpen s d c a false r.issued then some (0x10, 0)
  else if a / 2 ^ 30 = 2 then
    match partOf s c.part with
    | some p => if p.cur.chain then (stagingLine s d c.part r.layer (a % 2 ^ 30)).map (fun x => (0, x)) else some (0x22, 0)
    | none => some (0x10, 0)
  else some (readLine s c.part (lineDie s d c a) a)
/-- Reads of a tile changed. -/
def modPending (s : State) (d p : Nat) (f : List FetchReq → List FetchReq) : State :=
  modTile s d p fun t => { t with fetch := { t.fetch with pending := f t.fetch.pending } }
/-- A read whose answer carries an error, or whose response an isolated tile's Sluice absorbs (12 R294): it is gone. -/
def absorbRead (s : State) (d p : Nat) (k : FetchReq → Bool) : State := bump (modPending s d p (delFirst k)) (runB d) 0 16 1
/-- An error of a read ends the operation (R161): an uncorrectable one is a suspect event of its die. -/
def failRead (s : State) (d : Nat) (c : PartCtx) (e : Status) (a : Nat) : State :=
  failTile (if e = 0x50 then suspect s (lineDie s d c a) 1 else s) d c e (if e = 0x22 then a else 0)
/-- A read of the list. -/
def isList (r : FetchReq) : Bool := r.kind == .list

/-- FETCH_LIST_LINE_ARRIVAL (R153): the line of the list that was requested arrives, and the next is requested; where none was for want of
a credit, it is requested now. -/
def execFetchListLineArrival (die : Die) (pt : PT) (s : State) : Out :=
  let d := die.val
  let p := pt.val
  let t := tileOf s d p
  match t.part, t.fetch.pending.find? isList with
  | some c, some r =>
    if absorbs s d p then .next (absorbRead s d p isList)
    else
      match readAnswer s d c ((t.fetch.pending.takeWhile (fun x => !isList x)).filter (·.sent)) r with
      | none => .next s
      | some (0, x) =>
        let s1 := modPending (receivedLine s d p c r (r.srcs.getD 0 0)) d p (delFirst isList)
        .next (askList (modTile s1 d p fun t => { t with fetch := { t.fetch with linesHeld := t.fetch.linesHeld ++ [x] } }) d p)
      | some (e, _) => .next (failRead (modPending s d p (delFirst isList)) d c e (r.srcs.getD 0 0))
  | _, _ => .next (askList s d p)

/-! ## SETUP (R153 to R155) -/

/-- The ring a SETUP defines. -/
def setupRing (e : Nat × Nat) : Ring :=
  { first := bitsOf e.1 26 13, slotLines := bitsOf e.1 39 13 + 1, slots := bitsOf e.1 52 4 }
/-- RING of a SETUP or FETCH. -/
def entryRing (e : Nat × Nat) : Nat := bitsOf e.1 60 2
/-- Whether a SETUP meets R154. -/
def setupOk (f : Fetcher) (e : Nat × Nat) : Bool :=
  let r := setupRing e
  let n := r.slots * r.slotLines
  e.2 == 0 && bitsOf e.1 0 26 == 0 && !mhas f.rings (entryRing e) && (!f.rings.isEmpty || entryRing e == 0)
    && decide (2 ≤ r.slots) && decide (r.slots ≤ 9) && decide (r.first + n ≤ 8192)
    && f.rings.all (fun q => !overlap q.2.first (q.2.slots * q.2.slotLines) r.first n)

/-- SETUP: the ring, and from ring 0 MODE and LEAD; every line of the ring becomes invalid. -/
def execSetup (die : Die) (pt : PT) (s : State) : Out :=
  match atEntry s die.val pt.val 2 with
  | none => .next s
  | some (t, c, e) =>
    if !setupOk t.fetch e then .next (failTile s die.val c 0x22 0)
    else
      let r := setupRing e
      let f := nextEntry { t.fetch with rings := mput t.fetch.rings (entryRing e) r }
      let f1 := if entryRing e = 0 then { f with mode420 := bitAt e.1 59, lead := bitsOf e.1 56 3 + 1 } else f
      .next (askList (modTile s die.val pt.val fun t => { t with fetch := f1, mem := invalidate t.mem r.first (r.slots * r.slotLines) }) die.val pt.val)

/-! ## FETCH (R153 to R157, R164, R165, R168) -/

/-- LINES of a FETCH. -/
def fetchLines (e : Nat × Nat) : Nat := bitsOf e.1 32 13 + 1
/-- The rows of a FETCH: the source line each starts at, and its lines (R153). Row starts wrap at 32 bits. -/
def fetchRows (e : Nat × Nat) : List (Nat × Nat) :=
  let n := fetchLines e
  let rl := bitsOf e.2 32 16
  let src := bitsOf e.1 0 32
  if rl = 0 then [(src, n)]
  else (upTo (ceilDiv n rl)).map (fun i => ((src + i * bitsOf e.2 0 32) % 2 ^ 32, min rl (n - i * rl)))
/-- The source line of each line of a FETCH. -/
def fetchSrcs (e : Nat × Nat) : List Nat := (fetchRows e).flatMap (fun r => (upTo r.2).map (fun i => r.1 + i))
/-- Whether a FETCH meets R154. -/
def fetchOk (f : Fetcher) (e : Nat × Nat) : Bool :=
  match mfind f.rings (entryRing e) with
  | none => false
  | some r => decide (fetchLines e ≤ r.slotLines) && bitsOf e.1 45 8 != 0 && bitsOf e.2 48 16 == 0
/-- MC of a FETCH. -/
def fetchMc (e : Nat × Nat) : Bool := bitAt e.1 59

/-- Whether a line is refused to a fetch (R152). -/
def fetchRefused (p : Partition) (pn a : Nat) : Bool :=
  if a / 2 ^ 30 = 2 then !p.cur.chain else place p pn a == .refused
/-- SRC of a FETCH. -/
def fetchSrc (e : Nat × Nat) : Nat := bitsOf e.1 0 32
/-- Whether a FETCH is a staging FETCH: its address lies in space 0b10. -/
def isStaging (e : Nat × Nat) : Bool := fetchSrc e / 2 ^ 30 == 2
/-- The address a FETCH is refused at: that of a row with a refused line, or of a staging FETCH below an earlier one of the layer (R168). -/
def fetchBad (p : Partition) (pn : Nat) (f : Fetcher) (e : Nat × Nat) : Option Nat :=
  if isStaging e ∧ fetchSrc e % 2 ^ 30 < f.lastStaging then some (fetchSrc e)
  else ((fetchRows e).find? (fun r => (upTo r.2).any (fun i => fetchRefused p pn (r.1 + i)))).map Prod.fst

/-- The staging lines a FETCH reads. -/
def stagingLines (e : Nat × Nat) : List Nat := ((fetchSrcs e).filter (fun a => a / 2 ^ 30 == 2)).map (fun a => a % 2 ^ 30)

/-- Whether slot and lead let a FETCH issue on a tile (R155, R156), with no issued instruction holding its lines (03 R68). -/
def fetchFree (t : Tile) (e : Nat × Nat) : Bool :=
  match mfind t.fetch.rings (entryRing e) with
  | none => false
  | some r =>
    let k := r.fetches
    let i := k % r.slots
    let free := match mfind r.live i with | some x => x.released | none => true
    let c := ((r.live.filter (fun x => !x.2.released)).map (fun x => x.2.fetchIdx)).foldl min k
    free && (t.fetch.mode420 || decide (k - c ≤ t.fetch.lead)) && !linesHeld t.mem (r.first + i * r.slotLines) (fetchLines e)
/-- Whether the pieces a FETCH reads have arrived (R168). -/
def fetchHere (s : State) (d pn : Nat) (t : Tile) (e : Nat × Nat) : Bool :=
  (stagingLines e).all (fun a => (stagingLine s d pn t.fetch.layer a).isSome)

/-- A FETCH issues on a tile: the slot is taken, its lines become invalid, its lines are requested; `own`: by this tile's own request and
not by that of another member of its multicast group. -/
def fetchIssue (now : Nat) (own : Bool) (t : Tile) (e : Nat × Nat) : Tile :=
  match mfind t.fetch.rings (entryRing e) with
  | none => t
  | some r =>
    let k := r.fetches
    let i := k % r.slots
    let dst := r.first + i * r.slotLines
    let slot : RingSlot := ⟨k, t.fetch.entry, fetchLines e, fetchSrcs e, bitsOf e.1 45 8, false⟩
    let r1 := { r with fetches := k + 1, live := mput r.live i slot }
    let f := nextEntry { t.fetch with
      rings := mput t.fetch.rings (entryRing e) r1
      pending := t.fetch.pending ++ [{ dst := dst, srcs := fetchSrcs e, arrived := 0, layer := t.fetch.layer, issued := now, credited := own }]
      lastStaging := if isStaging e then max t.fetch.lastStaging (fetchSrc e % 2 ^ 30) else t.fetch.lastStaging }
    { t with fetch := f, mem := invalidate t.mem dst (fetchLines e) }

/-- The tiles of a die that hold a part of an operation of a partition. -/
def partTiles (s : State) (d pn : Nat) : List (Nat × Tile) :=
  (upTo 136).filterMap (fun p =>
    let t := tileOf s d p
    match t.part with
    | some c => if c.part = pn then some (p, t) else none
    | none => none)
/-- Whether a fetch engine has passed a piece (R168). -/
def passedPiece (f : Fetcher) (x : StagePiece) : Bool :=
  !f.running || decide (x.layer < f.layer) || (f.layer == x.layer && (f.mark.isSome || decide ((x.idx + 1) * pieceLines ≤ f.lastStaging)))
/-- Whether a FETCH that has issued still reads a piece. -/
def readsPiece (f : Fetcher) (x : StagePiece) : Bool :=
  f.pending.any (fun r => r.layer == x.layer && (r.srcs.drop r.arrived).any (fun a => a / 2 ^ 30 == 2 && a % 2 ^ 30 / pieceLines == x.idx))
/-- Pieces forwarded, or needing none, and passed by every engine of the partition on the die are freed (R168), once what the engines have
requested of them is there. -/
def freePieces (s : State) (d pn : Nat) : State :=
  let ts := partTiles s d pn
  if ts.isEmpty then s
  else modStaging s d pn fun g =>
    { g with pieces := g.pieces.filter (fun x => !(x.forwarded && ts.all (fun t => passedPiece t.2.fetch x && !readsPiece t.2.fetch x))) }

/-- The members of a multicast group on a die (R164): physical tiles. -/
def mcMembers (s : State) (d : Nat) (c : PartCtx) (group : Nat) : List Nat :=
  (mget [] (dieOf s d).mcGroups (c.op * 64 + group)).filterMap (fun lt => (ptOf s d lt).map Prod.fst)

/-- What R164 and R165 say of one member while another stands at entry `n` with `e`: it waits, agrees, or differs. -/
def mcMember (t : Tile) (n : Nat) (e : Nat × Nat) : Option Bool :=
  if t.fetch.running ∧ t.fetch.entry < n then none
  else if t.fetch.running ∧ t.fetch.entry = n then
    match entryAt t.fetch with
    | none => none
    | some x =>
      if bitsOf x.1 62 2 = 0 ∧ bitsOf x.1 53 7 = bitsOf e.1 53 7 ∧ bitsOf x.1 0 45 = bitsOf e.1 0 45 ∧ x.2 = e.2 then some true
      else some false
  else some false

/-- FETCH with MC = 1: it issues once, for every member, when all have reached it and their slots are free; the read is that of the tile `pt`
that issues it. -/
def fetchMulticast (s : State) (d pn pt : Nat) (p : Partition) (t : Tile) (c : PartCtx) (e : Nat × Nat) : State :=
  let ms := mcMembers s d c (bitsOf e.1 53 6)
  let st := ms.map (fun p => (p, mcMember (tileOf s d p) t.fetch.entry e))
  match st.find? (fun x => x.2 == some false) with
  | some x =>
    match (tileOf s d x.1).part with
    | some c2 => failTile s d c2 0x22 0
    | none => failTile s d c 0x22 0
  | none =>
    let es := ms.map (fun p => (p, tileOf s d p, (entryAt (tileOf s d p).fetch).getD e))
    match es.find? (fun x => !fetchOk x.2.1.fetch x.2.2 || (fetchBad p pn x.2.1.fetch x.2.2).isSome) with
    | some x => (match x.2.1.part with | some c2 => failTile s d c2 0x22 ((fetchBad p pn x.2.1.fetch x.2.2).getD 0) | none => s)
    | none =>
      if st.all (fun x => x.2 == some true) ∧ es.all (fun x => fetchFree x.2.1 x.2.2 && fetchHere s d pn x.2.1 x.2.2) ∧ portOpen s d pt ∧
          creditsFor s d c false (fetchSrcs e) then
        let s1 := es.foldl (fun a x => modTile a d x.1 (fun t => fetchIssue (mltNs s) (x.1 == pt) t x.2.2)) s
        freePieces (es.foldl (fun a x => askList a d x.1) (sentRead s1 d pt c (fetchSrcs e))) d pn
      else s

/-- FETCH: the checks of R154 and R152, then its issue, alone or with the members of its group. -/
def execFetch (die : Die) (pt : PT) (s : State) : Out :=
  let d := die.val
  match atEntry s d pt.val 0 with
  | none => .next s
  | some (t, c, e) =>
    let pn := c.part
    match partOf s pn with
    | none => .next s
    | some p =>
      if !fetchOk t.fetch e then .next (failTile s d c 0x22 0)
      else
        match fetchBad p pn t.fetch e with
        | some a => .next (failTile s d c 0x22 a)
        | none =>
          if fetchMc e then .next (fetchMulticast s d pn pt.val p t c e)
          else if fetchFree t e && fetchHere s d pn t e && portOpen s d pt.val && creditsFor s d c false (fetchSrcs e) then
            let s1 := sentRead (modTile s d pt.val fun t => fetchIssue (mltNs s) true t e) d pt.val c (fetchSrcs e)
            .next (freePieces (askList s1 d pt.val) d pn)
          else .next s

/-- A read of lines for the operand buffer or for a weight block that has been sent. -/
def isData (r : FetchReq) : Bool := r.kind != .list && r.sent
/-- The first read that waits to be sent goes out with its credits (12 R289). -/
def sendRead (s : State) (d p : Nat) : State :=
  let t := tileOf s d p
  match t.part, t.fetch.pending.find? (fun r => !r.sent) with
  | some c, some r =>
    if portOpen s d p && creditsFor s d c false r.srcs then
      sentRead (modPending s d p (updFirst (fun r => !r.sent) (fun r => { r with sent := true, credited := true, issued := mltNs s }))) d p c r.srcs
    else s
  | _, _ => s
/-- Reads that wait to be sent, in their order. -/
def sendReads (s : State) (d p : Nat) : State := (tileOf s d p).fetch.pending.foldl (fun a _ => sendRead a d p) s
/-- A read one line further, gone with its last. -/
def nextLine : List FetchReq → List FetchReq
  | [] => []
  | r :: rest =>
    if isData r then (if r.arrived + 1 < r.srcs.length then { r with arrived := r.arrived + 1 } :: rest else rest) else r :: nextLine rest
/-- A line a read brings: into the operand buffer, valid (R155), or to the weight block that is rebuilt (03 R66). -/
def takeLine (t : Tile) (r : FetchReq) (x : Line) : Tile :=
  let m :=
    match r.kind with
    | .weights => { t.mem with rebuild := updFirst (fun b => b.kept.isNone && decide (b.lines.length < b.srcs.length)) (fun b => { b with lines := b.lines ++ [x] }) t.mem.rebuild }
    | _ => wrLine t.mem (r.dst + r.arrived) x
  { t with mem := startRebuild m }

/-- FETCH_DATA_ARRIVAL (R155, R161; 03 R66): the next line of the oldest read is there; an error ends the operation, and an
uncorrectable one is a suspect event of its die. -/
def execFetchDataArrival (die : Die) (pt : PT) (s : State) : Out :=
  let d := die.val
  let p := pt.val
  let t := tileOf s d p
  match t.part, t.fetch.pending.find? isData with
  | some c, some r =>
    let a := r.srcs.getD r.arrived 0
    if absorbs s d p then .next (absorbRead s d p isData)
    else
      match readAnswer s d c ((t.fetch.pending.takeWhile (fun x => !isData x)).filter (·.sent)) r with
      | none => .next s
      | some (0, x) =>
        let s1 := modPending (if r.credited then receivedLine s d p c r a else s) d p nextLine
        .next (freePieces (sendReads (modTile s1 d p fun t => takeLine t r x) d p) d c.part)
      | some (e, _) => .next (failRead (modPending s d p (delFirst isData)) d c e a)
  | _, _ => .next (sendReads s d p)

/-! ## MARK and END (R153, R158, R159) -/

/-- MARK: the engine stops until its conditions hold. -/
def execMark (die : Die) (pt : PT) (s : State) : Out :=
  let d := die.val
  match atEntry s d pt.val 1 with
  | none => .next s
  | some (t, c, e) =>
    if t.fetch.rings.isEmpty ∨ e.2 ≠ 0 ∨ bitsOf e.1 0 37 ≠ 0 then .next (failTile s d c 0x22 0)
    else
      .next (freePieces (modTile s d pt.val fun t =>
        { t with fetch := { t.fetch with mark := some ⟨bitAt e.1 61, bitsOf e.1 53 8, bitsOf e.1 37 16⟩ } }) d (c.part))

/-- Conditions 1 and 2 of R158: WBN write-backs acknowledged since dispatch, every slot released. -/
def markReady (t : Tile) (m : MarkWait) : Bool :=
  decide (m.wbn ≤ t.mem.wbAcked) && t.fetch.rings.all (fun r => r.2.live.all (fun x => x.2.released))
/-- How many MARKs of an identifier a tile has met: those it has passed, and the one it stands at once conditions 1 and 2 hold. -/
def marksMet (id : Nat) (t : Tile) : Nat :=
  mget 0 t.fetch.marks id + (match t.fetch.mark with | some m => b2n (m.markId == id && markReady t m) | none => 0)
/-- A MARK passed: the next entry, a new layer. -/
def passMark (t : Tile) (m : MarkWait) : Tile :=
  { t with fetch := { nextEntry t.fetch with mark := none, marks := mmod 0 t.fetch.marks m.markId (· + 1), layer := t.fetch.layer + 1, lastStaging := 0 } }
/-- Condition 3 of R158: every tile of the operation on the die has met as many MARKs of this MARKID as this tile with the one it stands at;
a tile whose kernel ended before the present one has none to meet (DEDUCED, note 138). -/
def scopeMet (s : State) (d : Nat) (c : PartCtx) (t : Tile) (m : MarkWait) : Bool :=
  ((tilesOfOp s c.op).filter (fun x => x.1 == d)).all (fun x =>
    let u := tileOf s d x.2
    decide (mget 0 t.fetch.marks m.markId < marksMet m.markId u) ||
      (match u.part with | some c2 => decide (c2.kernel < c.kernel) && u.ended | none => true))

/-- MARK_RELEASE (R158): the conditions of the MARK hold, with SCOPE = 1 those of every tile of the operation on the die; the engine goes on. -/
def execMarkRelease (die : Die) (pt : PT) (s : State) : Out :=
  let d := die.val
  let t := tileOf s d pt.val
  match t.part, t.fetch.mark with
  | some c, some m =>
    if !t.fetch.running || !markReady t m || (m.scope && !scopeMet s d c t m) then .next s
    else .next (askList (modTile s d pt.val fun t => passMark t m) d pt.val)
  | _, _ => .next s

/-- END of a fetch list (R153): the engine stops until the next dispatch. -/
def execFetchListEnd (die : Die) (pt : PT) (s : State) : Out :=
  let d := die.val
  match atEntry s d pt.val 3 with
  | none => .next s
  | some (t, c, e) =>
    if t.fetch.rings.isEmpty ∨ e.2 ≠ 0 ∨ bitsOf e.1 0 62 ≠ 0 then .next (failTile s d c 0x22 0)
    else .next (freePieces (modTile s d pt.val fun t => { t with fetch := { t.fetch with running := false } }) d (c.part))

/-! ## Chain streaming (R166 to R170) -/

/-- The dies of a mask in Cascade order: module ring order from the lowest-numbered one (R166; 08 R193). -/
def chainOrder (mask : Nat) : List Nat :=
  let l := ringOrder.filter (fun d => mask.testBit d)
  match allDies.find? (fun d => mask.testBit d) with
  | some h => let i := l.findIdx (fun e => e == h); l.drop i ++ l.take i
  | none => []
/-- The dies whose chain positions number the stored slices (R166). -/
def chainAll (p : Partition) : List Nat := chainOrder p.shards
/-- The dies of the chain that work for the partition (R170). -/
def chainNow (p : Partition) : List Nat := (chainOrder (p.cur.span ||| p.shards)).filter (fun d => (spanDies p).contains d)
/-- Whether a die stores a slice: slice j lies on the die at position j and on the one before it (R166). -/
def holdsSlice (p : Partition) (d j : Nat) : Bool :=
  let c := chainAll p
  let i := c.findIdx (fun e => e == d)
  c.contains d && (j == i || j == (i + 1) % c.length)
/-- The die before a die in the chain. -/
def chainPred (p : Partition) (d : Nat) : Option Nat :=
  let c := chainNow p
  let i := c.findIdx (fun e => e == d)
  if c.contains d ∧ 1 < c.length then (c)[(i + c.length - 1) % c.length]? else none
/-- The slices a die receives in each layer, in their order (R167, R170): those it uses from its own on and does not store, where a die of the
chain does. -/
def slicesTo (p : Partition) (d : Nat) : List Nat :=
  let n := (chainAll p).length
  let i := (chainAll p).findIdx (fun e => e == d)
  ((upTo n).map (fun k => (i + k) % n)).filter (fun j => !holdsSlice p d j && (chainNow p).any (fun e => holdsSlice p e j))
/-- Whether a piece may follow what a die sent last (R167): the layers in order, in each the slices in theirs, none left out, and a stored
slice's pieces by rising lines. -/
def inTurn (p : Partition) (to' : Nat) (last : Option (Nat × Nat × Nat)) (layer k src : Nat) : Bool :=
  match last with
  | none => k == 0
  | some (l, k0, fin) =>
    if layer = l then (k == k0 && decide (fin ≤ src)) || k == k0 + 1
    else layer == l + 1 && k == 0 && k0 + 1 == (slicesTo p to').length

/-- STAGING_PIECE_SEND (R162, R167, R168): die `die` sends its chain predecessor the next piece of a layer over plane 3, read at a bank-set
line `src` from a slice it stores, or (no source) the oldest received piece not yet forwarded; only into a
free piece of the predecessor's ring, with a credit of the die-to-die slot (DEDUCED, note 69). -/
def execStagingPieceSend (die : Die) (part : Fin 64) (layer : W32) (slice : Fin 16) (src : Option W32) (s : State) : Out :=
  let d := die.val
  let pn := part.val
  match partOf s pn with
  | none => .next s
  | some p =>
    match chainPred p d with
    | none => .next s
    | some e =>
      let g := stagingOf s e pn
      let port := d2dPort d e slice
      let k := (slicesTo p e).findIdx (fun j => j == slice.val)
      let at' := match src with | some a => a.toNat | none => 0
      let mine := stagingOf s d pn
      if !p.cur.chain || decide (p.cur.staging ≤ g.pieces.length + g.incoming.length) || !(slicesTo p e).contains slice.val ||
          !inTurn p e mine.lastSent layer.toNat k (if src.isSome then at' else match mine.lastSent with | some l => l.2.2 | none => 0) ||
          !portOpen s d port || !creditFree s d port 3 (partCls s pn) (some pn) then .next s
      else
        let fwd : Bool := match chainPred p e with | some q => !(slicesTo p q).contains slice.val | none => true
        let put (s : State) (lines : List Line) (fin : Nat) : State :=
          modStaging (modStaging s d pn fun g => { g with lastSent := some (layer.toNat, k, fin) }) e pn fun g =>
            { g with incoming := g.incoming ++ [{ layer := layer.toNat, idx := 0, slice := slice.val, lines := lines, forwarded := fwd, sender := d, sentAt := mltNs s }] }
        match src with
        | some a =>
          let r := readLines s pn d a.toNat pieceLines
          if r.1 ≠ 0 ∨ a.toNat / 2 ^ 30 ≠ 0 ∨ !holdsSlice p d slice.val then .next s
          else .next (put s r.2 (a.toNat + pieceLines))
        | none =>
          match mine.pieces.find? (fun x => !x.forwarded) with
          | none => .next s
          | some x =>
            if x.layer ≠ layer.toNat ∨ x.slice ≠ slice.val then .next s
            else
              let s1 := modStaging s d pn fun g => { g with pieces := updFirst (fun y => !y.forwarded) (fun y => { y with forwarded := true }) g.pieces }
              .next (freePieces (put s1 x.lines 0) d pn)

/-- The initiator a die-to-die link is on the die it leads to (12 R299): the direction back to the sender. -/
def linkInit (d sender : Nat) : Nat := 147 + d2dDir d sender
/-- STAGING_PIECE_ARRIVAL (R168): the oldest piece on its way has fully arrived; it takes the next place of its layer's stream; the link it
came by counts its bytes and its latency (12 R299). -/
def execStagingPieceArrival (die : Die) (part : Fin 64) (s : State) : Out :=
  let d := die.val
  let pn := part.val
  match (stagingOf s d pn).incoming with
  | [] => .next s
  | x :: rest =>
    let s1 := modRun s d fun r => modStat r (linkInit d x.sender) 3 (fun y => addSent (addLatency y (runCycles (mltNs s - x.sentAt))) (64 * x.lines.length))
    .next (freePieces (modStaging s1 d pn fun g =>
      let n := mget 0 g.counts x.layer
      { g with pieces := g.pieces ++ [{ x with idx := n }], incoming := rest, counts := mput g.counts x.layer (n + 1) }) d pn)

end Sys2Proof.Machine
end

