-- ==== Sys2Proof/Machine/Scalar.lean ====
section
/-! DEFINITION. The scalar and control words of the sequencer (05 R115 to R117, R122 to R126, R131). -/

namespace Sys2Proof.Machine

/-- The B operand of a scalar word: S[B], or IMM with MOD[0] (R115). -/
def scalarB (w : BitVec 56) (t : Tile) : W32 := if fMod w = 1 then fImm w else rdS t (fB w)

/-- A scalar word D := f A B with its latency (R117). -/
def scalarOp (lat : Nat) (f : W32 → W32 → W32) (w : BitVec 56) (t : Tile) : Issue :=
  if scalarOk w 1 then issued (later t lat [.s (fD w) (f (rdS t (fA w)) (scalarB w t))]) else .fault 0x01

/-- NOP: nothing. -/
def issueNop (w : BitVec 56) (t : Tile) : Issue := if scalarOk w 0 then issued t else .fault 0x01

/-- ADD, modulo 2^32. -/
def issueAdd (w : BitVec 56) : Tile → Issue := scalarOp 1 (fun a b => a + b) w
/-- SUB, modulo 2^32. -/
def issueSub (w : BitVec 56) : Tile → Issue := scalarOp 1 (fun a b => a - b) w
/-- AND. -/
def issueAnd (w : BitVec 56) : Tile → Issue := scalarOp 1 (fun a b => a &&& b) w
/-- OR. -/
def issueOr (w : BitVec 56) : Tile → Issue := scalarOp 1 (fun a b => a ||| b) w
/-- XOR. -/
def issueXor (w : BitVec 56) : Tile → Issue := scalarOp 1 (fun a b => a ^^^ b) w
/-- SHL by B mod 32. -/
def issueShl (w : BitVec 56) : Tile → Issue := scalarOp 1 (fun a b => a <<< (b.toNat % 32)) w
/-- SHR by B mod 32, logical. -/
def issueShr (w : BitVec 56) : Tile → Issue := scalarOp 1 (fun a b => a >>> (b.toNat % 32)) w
/-- SRA by B mod 32, arithmetic. -/
def issueSra (w : BitVec 56) : Tile → Issue := scalarOp 1 (fun a b => a.sshiftRight (b.toNat % 32)) w
/-- MUL: low 32 bits. -/
def issueMul (w : BitVec 56) : Tile → Issue := scalarOp 3 (fun a b => a * b) w
/-- SLT: 1 where A < B, signed. -/
def issueSlt (w : BitVec 56) : Tile → Issue := scalarOp 1 (fun a b => if ltI32 a b then 1 else 0) w

/-- LI: D := IMM. -/
def issueLi (w : BitVec 56) (t : Tile) : Issue :=
  if scalarOk w 0 then issued (later t 1 [.s (fD w) (fImm w)]) else .fault 0x01

/-- MFV: D := lane IMM[5:0] of V[A]. -/
def issueMfv (w : BitVec 56) (t : Tile) : Issue :=
  if scalarOk w 0 && vOk (fA w) then
    issued (later t 2 [.s (fD w) ((rdV t (vReg (fA w))).get ((fImm w).extractLsb' 0 6).toFin)])
  else .fault 0x01

/-- Condition COND of a branch on S[A] (R116). -/
def brCond (c : Nat) (a : W32) : Bool :=
  match c with
  | 0 => true
  | 1 => a == 0
  | 2 => a != 0
  | 3 => a.msb
  | _ => !a.msb

/-- BR (R116, R122, R123): S[A] is read at issue, the two following words issue, then TARGET or PC + 3. -/
def issueBr (w : BitVec 56) (t : Tile) : Issue :=
  let a := rdS t (w.extractLsb' 51 5)
  let c := wf w 48 3
  let tgt : BitVec 12 := w.extractLsb' 0 12
  if wf w 12 36 ≠ 0 ∨ 5 ≤ c then .fault 0x01
  else if 4095 < t.seq.pc.toNat + 2 then .fault 0x0F
  else
    .ok { t with
      seq := { pcNext t.seq with
        status := .run, slot := t.seq.slot + 1, delay := 2,
        brTarget := if brCond c a then some tgt else none } }

/-- The issue cost of a body word (R125): ROWS × c for MX and EW, else 1. -/
def wordCost (x : W64) : Nat :=
  let o := (x >>> 56).toNat
  let b := x.toNat
  if o = 0x40 then (bitsOf b 34 8 + 1) * mxCycles (bitsOf b 48 4) (bitAt b 47)
  else if o = 0x42 then (bitsOf b 40 8 + 1) * ewCycles (bitsOf b 48 4)
  else 1

/-- REP (R116, R124 to R126). -/
def issueRep (w : BitVec 56) (t : Tile) : Issue :=
  let q := t.seq
  let body := wf w 50 6 + 1
  let creg := bitAt w.toNat 49
  let count := if creg then (rdS t (w.extractLsb' 27 5)).toNat else wf w 32 13 + 1
  let first := q.pc.toNat + 1
  let words := (List.range body).map (fun i => imemAt q (BitVec.ofNat 12 (first + i)))
  let cost := (words.map wordCost).foldl (· + ·) 0
  if wf w 45 4 ≠ 0 ∨ wf w 0 27 ≠ 0 then .fault 0x01
  else if 4095 < q.pc.toNat + body then .fault 0x0F
  else if words.any (fun x => !repeatBodyOk (x >>> 56).toNat) then .fault 0x0C
  else if 8192 < count ∨ 8192 < count * cost then .fault 0x0D
  else if count = 0 then
    let after := q.pc.toNat + body + 1
    .ok { t with
      seq := { q with
        status := .run, slot := q.slot + 1, pc := BitVec.ofNat 12 after,
        pcOver := decide (4095 < after) } }
  else
    .ok { t with
      seq := { pcNext q with
        status := .run, slot := q.slot + 1,
        lstart := BitVec.ofNat 12 first, lend := BitVec.ofNat 12 (first + body - 1),
        lcnt := count, lact := true, repHeld := false } }

/-- WLCH (R131): with EVP set it clears it and goes on at the pending launch's time; else it waits for a launch. R116 gives WLCH no format:
MSEL and MOD must be 0, its other fields are not read (DESIGN CHOICE, note 131). -/
def issueWlch (w : BitVec 56) (t : Tile) : Issue :=
  if !scalarOk w 0 then .fault 0x01
  else if t.seq.evp then issued { t with seq := { t.seq with evp := false, notBefore := t.seq.launchTime, launchTime := 0 } }
  else .ok { t with seq := { t.seq with status := .wlch } }

/-- Whether every condition of R147 holds: array writes landed, write-backs acknowledged, results landed. -/
def endReady (t : Tile) : Bool := t.mem.array.isEmpty && t.mem.wbs.isEmpty && t.seq.inflight.isEmpty

/-- END (R147): while it waits each cycle counts as a slot; then the tile's part is done and the tile idle. A full
lock-step buffer also holds it (09 R237). Its reserved fields are those of WLCH (DESIGN CHOICE, note 131). -/
def issueEnd (env : TileEnv) (w : BitVec 56) (t : Tile) : Issue :=
  if !scalarOk w 0 then .fault 0x01
  else if endReady t && !env.lockFull then
    .ok { t with seq := { pcNext t.seq with status := .idle, slot := t.seq.slot + 1 }, ended := true }
  else .ok { t with seq := { t.seq with status := .held, slot := t.seq.slot + 1 } }

end Sys2Proof.Machine
end

