-- ==== Sys2Proof/Machine/Vector.lean ====
section
/-! DEFINITION. The vector unit (05 R135 to R141) on one tile. -/

namespace Sys2Proof.Machine

/-- A lane-wise binary32 word D := f A B (R135). -/
def vfloat2 (f : FVal → FVal → FVal × Bool) (w : BitVec 56) (t : Tile) : Issue :=
  if vectorOk w 0 && vOk (fD w) && vOk (fA w) && vOk (fB w) then
    let a := rdV t (vReg (fA w))
    let b := rdV t (vReg (fB w))
    let en := laneMask t (fMsel w)
    finishV t 4 (vReg (fD w)) en (laneOp en fun l => op32 (f (val32 (a.get l)) (val32 (b.get l))))
  else .fault 0x01

/-- VADD. -/
def issueVadd (w : BitVec 56) : Tile → Issue := vfloat2 addV w
/-- VSUB. -/
def issueVsub (w : BitVec 56) : Tile → Issue := vfloat2 (fun a b => addV a (negV b)) w
/-- VMUL. -/
def issueVmul (w : BitVec 56) : Tile → Issue := vfloat2 mulV w

/-- A × B + C evaluated exactly, with NV of either step (R135). -/
def fmaV (a b c : FVal) : FVal × Bool :=
  let p := mulV a b
  let s := addV p.1 c
  (s.1, p.2 || s.2)

/-- VFMA: D := A × B + D with one rounding. -/
def issueVfma (w : BitVec 56) (t : Tile) : Issue :=
  if vectorOk w 0 && vOk (fD w) && vOk (fA w) && vOk (fB w) then
    let a := rdV t (vReg (fA w))
    let b := rdV t (vReg (fB w))
    let d := rdV t (vReg (fD w))
    let en := laneMask t (fMsel w)
    finishV t 4 (vReg (fD w)) en
      (laneOp en fun l => op32 (fmaV (val32 (a.get l)) (val32 (b.get l)) (val32 (d.get l))))
  else .fault 0x01

/-- Minimum or maximum of two lanes (R137): NaN in floating-point mode gives the canonical NaN. -/
def minmaxLane (int mx : Bool) (a b : W32) : W32 :=
  if !int && (isNan32 a || isNan32 b) then 0x7FC00000#32
  else if ltLane int a b then (if mx then b else a) else (if mx then a else b)

/-- VMIN and VMAX (R137). -/
def vminmax (mx : Bool) (w : BitVec 56) (t : Tile) : Issue :=
  if vectorOk w 8 && vOk (fD w) && vOk (fA w) && vOk (fB w) then
    let a := rdV t (vReg (fA w))
    let b := rdV t (vReg (fB w))
    let en := laneMask t (fMsel w)
    finishV t 2 (vReg (fD w)) en (laneOp en fun l => (minmaxLane (bitAt (fMod w) 3) mx (a.get l) (b.get l), {}))
  else .fault 0x01

/-- VMIN. -/
def issueVmin (w : BitVec 56) : Tile → Issue := vminmax false w
/-- VMAX. -/
def issueVmax (w : BitVec 56) : Tile → Issue := vminmax true w

/-- The 64 mask bits a lane predicate gives. -/
def maskOf (f : Fin 64 → Bool) : W64 :=
  BitVec.ofNat 64 ((List.finRange 64).foldl (fun a (l : Fin 64) => if f l then a + 2 ^ l.val else a) 0)

/-- VCMP: M[D[1:0]] := per-lane comparison (R137). -/
def issueVcmp (w : BitVec 56) (t : Tile) : Issue :=
  let rel := fMod w % 8
  if vectorOk w 15 && vOk (fA w) && vOk (fB w) && decide (rel ≤ 5) && decide ((fD w).toNat < 4) then
    let a := rdV t (vReg (fA w))
    let b := rdV t (vReg (fB w))
    let en := laneMask t (fMsel w)
    issued (later t 2 [.m ((fD w).extractLsb' 0 2) en
      (maskOf fun l => cmpLane (bitAt (fMod w) 3) rel (a.get l) (b.get l))])
  else .fault 0x01

/-- VSEL: D := A where the mask bit is 1, else B; MSEL is not 0 (DEDUCED, note 17). -/
def issueVsel (w : BitVec 56) (t : Tile) : Issue :=
  if vectorOk w 0 && vOk (fD w) && vOk (fA w) && vOk (fB w) && fMsel w != 0 then
    let a := rdV t (vReg (fA w))
    let b := rdV t (vReg (fB w))
    let m := laneMask t (fMsel w)
    finishV t 1 (vReg (fD w)) (-1) (Vector.ofFn fun l => if m.getLsbD l then a.get l else b.get l, {})
  else .fault 0x01

/-- Whether a register number is even. -/
def evenReg (r : BitVec 5) : Bool := !r.getLsbD 0

/-- CMUL: complex multiply on register pairs, MOD[0] conjugating B (R136). -/
def issueCmul (w : BitVec 56) (t : Tile) : Issue :=
  if !(vectorOk w 1 && vOk (fD w) && vOk (fA w) && vOk (fB w)) then .fault 0x01
  else if !(evenReg (fD w) && evenReg (fA w) && evenReg (fB w)) then .fault 0x0E
  else
    let ar := rdV t (vReg (fA w))
    let ai := rdV t (vNext (vReg (fA w)))
    let br := rdV t (vReg (fB w))
    let bi := rdV t (vNext (vReg (fB w)))
    let en := laneMask t (fMsel w)
    let cj (v : FVal) : FVal := if fMod w = 1 then negV v else v
    let p2 (a b c d : FVal) : FVal × Bool :=
      let x := mulV a b
      let y := mulV c d
      let s := addV x.1 y.1
      (s.1, x.2 || y.2 || s.2)
    let re := laneOp en fun l =>
      op32 (p2 (val32 (ar.get l)) (val32 (br.get l)) (negV (val32 (ai.get l))) (cj (val32 (bi.get l))))
    let im := laneOp en fun l =>
      op32 (p2 (val32 (ar.get l)) (cj (val32 (bi.get l))) (val32 (ai.get l)) (val32 (br.get l)))
    issued (addFlags (later t 4 [.v (vReg (fD w)) en re.1, .v (vNext (vReg (fD w))) en im.1]) (flagOr re.2 im.2))

/-- VMAXI and VMINI: the running best (value, index) pair of each lane (R138). -/
def vsearch (mx : Bool) (w : BitVec 56) (t : Tile) : Issue :=
  if !(vectorOk w 9 && vOk (fD w) && vOk (fA w)) then .fault 0x01
  else if !evenReg (fD w) then .fault 0x0E
  else
    let int := bitAt (fMod w) 3
    let a := rdV t (vReg (fA w))
    let base := rdS t (fB w)
    let bv := rdV t (vReg (fD w))
    let bi := rdV t (vNext (vReg (fD w)))
    let en := laneMask t (fMsel w)
    let idx (l : Fin 64) : W32 := base + BitVec.ofNat 32 l.val
    let win (l : Fin 64) : Bool := precedes int mx (a.get l) (idx l) (bv.get l) (bi.get l)
    let nv : Lanes := Vector.ofFn fun l => if win l then canonLane int (a.get l) else bv.get l
    let ni : Lanes := Vector.ofFn fun l => if win l then idx l else bi.get l
    let t1 := later t 2 [.v (vReg (fD w)) en nv, .v (vNext (vReg (fD w))) en ni]
    issued (if bitAt (fMod w) 0 then later t1 1 [.s (fB w) (base + 64)] else t1)

/-- VMAXI. -/
def issueVmaxi (w : BitVec 56) : Tile → Issue := vsearch true w
/-- VMINI. -/
def issueVmini (w : BitVec 56) : Tile → Issue := vsearch false w

/-- The pair that precedes every other among the enabled lanes (R138). -/
def reduceBest (int mx : Bool) (en : W64) (v i : Lanes) : Option (W32 × W32) :=
  (List.finRange 64).foldl (fun (b : Option (W32 × W32)) (l : Fin 64) =>
    if en.getLsbD l.val then
      match b with
      | none => some (v.get l, i.get l)
      | some (bv, bi) => if precedes int mx (v.get l) (i.get l) bv bi then some (v.get l, i.get l) else b
    else b) none

/-- RMAXI and RMINI: the cross-lane search into the scalar pair S[D], S[D+1] (R138, R115). -/
def rsearch (mx : Bool) (w : BitVec 56) (t : Tile) : Issue :=
  if !(vectorOk w 8 && vOk (fA w)) then .fault 0x01
  else if !(evenReg (fD w) && evenReg (fA w)) then .fault 0x0E
  else
    let int := bitAt (fMod w) 3
    match reduceBest int mx (laneMask t (fMsel w)) (rdV t (vReg (fA w))) (rdV t (vNext (vReg (fA w)))) with
    | none => issued t
    | some (v, i) => issued (later t 8 [.s (fD w) (canonLane int v), .s (fD w + 1) i])

/-- RMAXI. -/
def issueRmaxi (w : BitVec 56) : Tile → Issue := rsearch true w
/-- RMINI. -/
def issueRmini (w : BitVec 56) : Tile → Issue := rsearch false w

/-- One level of the fixed tree of VRSUM: lane l plus lane l + s (R139). -/
def sumLevel (s : Nat) (l : List W32) (f : FlagSet) : List W32 × FlagSet :=
  let r := (List.range s).map (fun i => op32 (addV (val32 (l.getD i 0)) (val32 (l.getD (i + s) 0))))
  (r.map (fun x => x.1), r.foldl (fun a x => flagOr a x.2) f)

/-- The lane sum of VRSUM (R139). -/
def treeSum (l : List W32) : W32 × FlagSet :=
  let r := [32, 16, 8, 4, 2, 1].foldl (fun (a : List W32 × FlagSet) s => sumLevel s a.1 a.2) (l, {})
  (r.1.getD 0 0, r.2)

/-- VRSUM: all 64 lanes summed, the mask governing only which lanes of D are written (R115, R139). -/
def issueVrsum (w : BitVec 56) (t : Tile) : Issue :=
  if vectorOk w 0 && vOk (fD w) && vOk (fA w) then
    let r := treeSum (rdV t (vReg (fA w))).toList
    finishV t 8 (vReg (fD w)) (laneMask t (fMsel w)) (Vector.replicate 64 r.1, r.2)
  else .fault 0x01

/-- The function MOD[1:0] names (R140). -/
def vfn (m : Nat) (a : W32) : W32 × FlagSet :=
  match m with
  | 0 => exp2V a.toNat (val32 a)
  | 1 => log2V a.toNat (val32 a)
  | 2 => rcpV (val32 a)
  | _ => rsqV (val32 a)

/-- VFN (R140). -/
def issueVfn (w : BitVec 56) (t : Tile) : Issue :=
  if vectorOk w 3 && vOk (fD w) && vOk (fA w) then
    let a := rdV t (vReg (fA w))
    let en := laneMask t (fMsel w)
    finishV t 8 (vReg (fD w)) en (laneOp en fun l => vfn (fMod w) (a.get l))
  else .fault 0x01

/-- The seed of the running part's operation (07 R174, R176). -/
def partSeed (t : Tile) : W64 := match t.part with | some p => p.seed | none => 0

/-- The stream number in S31 (07 R176). -/
def streamOf (t : Tile) : Nat := (rdS t 31).toNat % 2 ^ 24

/-- The source value of a lane: INT32 with MOD[3], else binary32 (R141). -/
def laneVal (int : Bool) (x : W32) : FVal := if int then fvalOfInt x.toInt else val32 x

/-- The conversion of lane l under the IMM fields SHIFT, RND, SAT, FMT and IX (02 R50 to R56, 07 R176). -/
def convLane (w : BitVec 56) (t : Tile) (v : FVal) (l : Nat) : Conv :=
  convOut (iFmt w) (iShift w) (rndMode (iRnd w) (partSeed t) (streamOf t) ((rdS t (iIx w)).toNat + l)) (iSat w) v

/-- VCVT: round to an output format and re-expand (R141). -/
def issueVcvt (w : BitVec 56) (t : Tile) : Issue :=
  if !(vectorOk w 8 && vOk (fD w) && vOk (fA w)) || iRsv w then .fault 0x01
  else if !ofmtOk (iFmt w) then .fault 0x02
  else
    let a := rdV t (vReg (fA w))
    let en := laneMask t (fMsel w)
    finishV t 4 (vReg (fD w)) en (laneOp en fun l =>
      let c := convLane w t (laneVal (bitAt (fMod w) 3) (a.get l)) l.val
      let r := if iFmt w = 2 then BitVec.ofInt 32 (signedOf 8 c.bits)
               else if iFmt w = 7 then BitVec.ofNat 32 c.bits
               else BitVec.ofNat 32 (round32 (floatOfOut (iFmt w) c.bits)).bits
      (r, c.flags))

/-- A lane-wise integer word with its latency (R117). -/
def vint2 (lat modMask : Nat) (f : W32 → W32 → W32) (w : BitVec 56) (t : Tile) : Issue :=
  if vectorOk w modMask && vOk (fD w) && vOk (fA w) && vOk (fB w) then
    let a := rdV t (vReg (fA w))
    let b := rdV t (vReg (fB w))
    finishV t lat (vReg (fD w)) (laneMask t (fMsel w)) (Vector.ofFn fun l => f (a.get l) (b.get l), {})
  else .fault 0x01

/-- VIADD, modulo 2^32. -/
def issueViadd (w : BitVec 56) : Tile → Issue := vint2 1 0 (fun a b => a + b) w
/-- VISUB, modulo 2^32. -/
def issueVisub (w : BitVec 56) : Tile → Issue := vint2 1 0 (fun a b => a - b) w
/-- VIMUL: low 32 bits. -/
def issueVimul (w : BitVec 56) : Tile → Issue := vint2 3 0 (fun a b => a * b) w

/-- VLOGIC: AND, OR, XOR by MOD[1:0]. -/
def issueVlogic (w : BitVec 56) (t : Tile) : Issue :=
  if fMod w = 3 then .fault 0x01
  else vint2 1 3 (fun a b => match fMod w with | 0 => a &&& b | 1 => a ||| b | _ => a ^^^ b) w t

/-- VSHIFT: SHL, SHR, SRA by B[l] mod 32. -/
def issueVshift (w : BitVec 56) (t : Tile) : Issue :=
  if fMod w = 3 then .fault 0x01
  else vint2 1 3 (fun a b => match fMod w with
    | 0 => a <<< (b.toNat % 32)
    | 1 => a >>> (b.toNat % 32)
    | _ => a.sshiftRight (b.toNat % 32)) w t

/-- The lane a VPERM mode takes: whether from B, and which (R117). -/
def permSrc (mode : Nat) (imm l : Nat) : Bool × Nat :=
  match mode with
  | 0 => (decide (32 ≤ l), 2 * (l % 32))
  | 1 => (decide (32 ≤ l), 2 * (l % 32) + 1)
  | 2 => (decide (l % 2 = 1), l / 2)
  | 3 => (decide (l % 2 = 1), l / 2 + 32)
  | _ => (false, (l + imm) % 64)

/-- VPERM: DEVEN, DODD, ILO, IHI, ROT (R117). -/
def issueVperm (w : BitVec 56) (t : Tile) : Issue :=
  if vectorOk w 7 && decide (fMod w ≤ 4) && vOk (fD w) && vOk (fA w) && (vOk (fB w) || fMod w == 4) then
    let a := (rdV t (vReg (fA w))).toList
    let b := (rdV t (vReg (fB w))).toList
    finishV t 2 (vReg (fD w)) (laneMask t (fMsel w)) (Vector.ofFn fun l =>
      let p := permSrc (fMod w) (fImm w).toNat l.val
      (if p.1 then b else a).getD p.2 0, {})
  else .fault 0x01

/-- VBCAST: every lane of D := S[A]. -/
def issueVbcast (w : BitVec 56) (t : Tile) : Issue :=
  if vectorOk w 0 && vOk (fD w) then
    finishV t 2 (vReg (fD w)) (laneMask t (fMsel w)) (Vector.replicate 64 (rdS t (fA w)), {})
  else .fault 0x01

end Sys2Proof.Machine
end

