-- ==== Sys2Proof/Machine/Tiles.lean ====
section
/-! DEFINITION. A tile among the rest of the module: what its issue stage sees, a word issued by a tile, the end of its part, the
express message, the events of its landings, save, restore and move. -/

namespace Sys2Proof.Machine

/-! ## The issue of a word -/

/-- The place of a lock-step record in the order of 09 R238. -/
def lsOrd (r : LsRec) : Nat := (r.opseq * 2 ^ 16 + r.kernel) * 2 ^ 8 + r.lt
/-- The partner record of a record. -/
def partner (l : List LsRec) (r : LsRec) : Option LsRec := l.find? (fun x => lsOrd x == lsOrd r)
/-- The records of `a` that have no partner in `b`. -/
def unmatched (a b : List LsRec) : Nat := (a.filter (fun r => (partner b r).isNone)).length
/-- Whether a partition's END on a die waits for its lock-step pair (09 R237): 1,024 unmatched records are buffered and its side is the leading one,
that with more of them, or no route leads to the partner's module, as no record is dropped (DEDUCED, note 77). -/
def lockFull (s : State) (d pn : Nat) : Bool :=
  s.pairs.any (fun q =>
    let a := unmatched q.fromPrimary q.fromMirror
    let b := unmatched q.fromMirror q.fromPrimary
    (q.primary == pn && ((decide (1024 ≤ a + b) && decide (b ≤ a)) || (q.module != 0xFF && (routeOf s d q.module 0).isNone))) ||
      (q.module == 0xFF && q.mirror == pn && decide (1024 ≤ a + b) && decide (a < b)))
/-- What a tile's issue stage sees (05 R118, R145, R146; 06 R152): plane 2 takes a write-back while its port lets it out and a credit of its
partition is free at every port that serves a line of it, plane 0 an express message with one of the Vidonlink port (12 R289; DEDUCED,
note 74). -/
def envOf (s : State) (d p : Nat) (t : Tile) : TileEnv :=
  match t.part.bind (fun c => (partOf s c.part).map (fun x => (c, x))) with
  | some (c, x) =>
    { bankLines := (bankList x.cur.banks).length * 2 ^ 24, basinLines := x.cur.basin
      doorway := if x.cur.basin = 0 then none else some (2 ^ 30 + (x.cur.basin - 1))
      plane2 := fun a n => portOpen s d p && creditsFor s d c true ((upTo n).map (a + ·))
      express := portOpen s d p && creditFree s d expressPort 0 (partCls s c.part) (some c.part)
      lockFull := lockFull s d c.part, now := mltNs s }
  | none => { bankLines := 0, basinLines := 0, doorway := none, plane2 := fun _ _ => portOpen s d p, express := false, lockFull := false, now := mltNs s }

/-! ## Express messages (05 R146; 14 R339, R341) -/

/-- The partition that owns a logical tile of a die. -/
def ltOwner (s : State) (d lt : Nat) : Option Partition :=
  (s.parts.find? (fun p => p.2.tiles.contains (ltKey d lt))).map Prod.snd
/-- An express flit delivered on a die: into an operand-buffer line, once no issued instruction holds it (03 R69), or discarded and counted; a
tile's raised Sluice takes none (12 R293). -/
def deliverExpress (s : State) (d : Nat) (x : Line) : State :=
  let n := x.toNat
  let line := bitsOf n 8 13
  let lt := bitsOf n 21 7
  match ptOf s d lt, ltOwner s d lt with
  | some (p, _), some q =>
    let t := tileOf s d p
    if bitsOf n 0 8 ≠ 0x10 ∨ !dieUp s d ∨ !q.cur.peers.contains (bitsOf n 51 8) ∨
        t.fetch.rings.any (fun r => overlap r.2.first (r.2.slots * r.2.slotLines) line 1) then noRoute s d
    else if !portOpen s d p then s
    else modTile s d p fun t => { t with mem := expressLine t.mem line x }
  | _, _ => noRoute s d
/-- HOPS of an express flit replaced. -/
def setXpHops (x : Line) (h : Nat) : Line :=
  BitVec.ofNat 512 (x.toNat - (bitsOf x.toNat 59 4) * 2 ^ 59 + h * 2 ^ 59)
/-- An express flit at die `d`: delivered on this module, or forwarded by the route of its module. -/
def routeExpress (s : State) (d : Nat) (x : Line) : State :=
  let n := x.toNat
  let dmod := bitsOf n 32 8
  if dmod = modId s d then deliverExpress s (bitsOf n 28 4) x
  else
    match routeOf s d dmod (bitsOf n 59 4) with
    | some e => modPort s e fun t => enqueue t 0 0 [setXpHops x (bitsOf n 59 4 + 1)]
    | none => noRoute s d
/-- A doorway line with the sender's fields filled (R339). -/
def fillExpress (s : State) (d lt : Nat) (x : Line) : Line :=
  let n := x.toNat
  BitVec.ofNat 512 (n % 2 ^ 40 + lt % 128 * 2 ^ 40 + d % 16 * 2 ^ 47 + modId s d % 256 * 2 ^ 51 + (n >>> 64) * 2 ^ 64)

/-! ## The end of a tile's part (R147; 09 R236, R237) -/

/-- The first logical tile of a partition's block. -/
def firstLtOf (s : State) (pn : Nat) : Nat := match partOf s pn with | some p => p.cur.firstLt | none => 0
/-- The key of a kernel CRC: kernel index, then logical tile, then the original's die, in a replay as well (09 R225). -/
def kcrcKey (kernel lt d : Nat) : Nat := (kernel * 128 + lt) * 16 + d
/-- A lock-step record sent to the partner module (09 R237): kind 2, the partner's partition, the record (DEDUCED, note 77). -/
def sendLsRec (s : State) (d : Nat) (q : LockPair) (r : LsRec) : State :=
  match routeOf s d q.module 0 with
  | none => s
  | some n =>
    queuePkt s n
      { typ := 6, dmod := q.module, ddie := 0, sdie := d, smod := modId s d, hops := 1, lines := 1
        payload := toLines ([2, BitVec.ofNat 8 q.mirror] ++ leBytes 4 r.opseq ++ leBytes 2 r.kernel ++ leBytes 1 r.lt ++ leBytes 8 r.crc.toNat
          ++ leBytes 1 r.pt ++ leBytes 1 r.die) }
/-- A tile's END reported: SAT and the format flags enter the operation, the kernel CRC is kept, a lock-step record is sent. -/
def reportEnd (s : State) (d p : Nat) (t : Tile) : State :=
  match t.part with
  | none => s
  | some c =>
    let crc := t.crc ^^^ -1
    let s1 := modOp s c.op fun o =>
      { o with
        satSeen := o.satSeen || t.sat
        info := { o.info with nv := o.info.nv || t.nv, ovf := o.info.ovf || t.ovf, unf := o.info.unf || t.unf }
        kcrc := if c.part = o.part then mput o.kcrc (kcrcKey c.kernel c.lt c.homeDie) crc else o.kcrc }
    match opOf s1 c.op with
    | none => s1
    | some o =>
      let s2 := (s1.pairs.filter (fun q => q.primary == c.part && q.module != 0xFF)).foldl
        (fun a q => sendLsRec a d q ⟨o.opseq, c.kernel, c.lt, crc, p, d⟩) s1
      { s2 with pairs := s2.pairs.map (fun q =>
          if q.primary = c.part then { q with fromPrimary := q.fromPrimary ++ [⟨o.opseq, c.kernel, c.lt, crc, p, d⟩] }
          else if q.module = 0xFF ∧ q.mirror = c.part then
            { q with fromMirror := q.fromMirror ++ [⟨o.opseq, c.kernel, c.lt + firstLtOf s q.primary - firstLtOf s q.mirror, crc, p, d⟩] }
          else q) }

/-! ## One word -/

/-- The lines of a write-back that the word has issued counted as sent (12 R301); `u` is the state with the tile after the word. -/
def sentWb (s u : State) (d p : Nat) (t t1 : Tile) : State :=
  match t1.mem.wbs.drop t.mem.wbs.length, t.part with
  | b :: _, some c => statAll u d p (linePorts s d c true ((upTo b.data.length).map (b.addr + ·))) (fun x => addSent x (64 * b.data.length))
  | _, _ => u

/-- A word issues on a tile (05 R113 to R133): a request that waits is accepted first; then the issue stage answers (DEDUCED, note 12)
(DEDUCED, note 125). -/
def runWord (opc : BitVec 8) (f : TileEnv → BitVec 56 → Tile → Issue) (die : Die) (pt : PT) (w : BitVec 56) (s : State) : Out :=
  let d := die.val
  let p := pt.val
  let t := tileOf s d p
  if reqPending t.seq && acceptable t.seq then .next (modTile s d p acceptReqs)
  else
    match stage (mltNs s) opc w (f (envOf s d p t) w) t with
    | none => .next s
    | some (.hold why) => .next (modTile s d p fun t => heldCycle t why)
    | some (.fault c) => .next (endByTile (modTile s d p fun t => enterFault t c) d p 0x22 c 0)
    | some (.refuse a) =>
      match t.part with
      | some c => .next (failTile s d c 0x22 a)
      | none => .next s
    | some (.ok t1) =>
      let s2 := sentWb s (modTile s d p fun _ => t1) d p t t1
      .next (if t1.ended && !t.ended then reportEnd s2 d p t1 else s2)
    | some (.express t1 x) =>
      match t.part with
      | none => .next s
      | some c =>
        if modId s d = 0xFF then .next (failTile s d c 0x22 0)
        else .next (routeExpress (modTile s d p fun _ => t1) d (fillExpress s d c.lt x))

/-! ## Landings -/

/-- An error that ECC or parity finds in a tile or its operand buffer (05 R134; 09 R217, R219): more than 16 corrected ones in one second in one of
the two are a suspect event, after which the count starts afresh (DESIGN CHOICE, note 53); an uncorrectable one is a suspect event and ends the run
with E_ECC. -/
def tileErr (s : State) (d p : Nat) (err : TileErr) : State :=
  match err with
  | .clean => s
  | .corrected buffer =>
    let now := mltNs s
    let key := 2 * p + b2n buffer
    let sec := now :: (mget [] (dieOf s d).ceUnit key).filter (fun t => decide (now < t + 1000000000))
    let many := decide (16 < sec.length)
    let s1 := modDie s d fun e => { e with ceUnit := mput e.ceUnit key (if many then [] else sec) }
    if many then suspect s1 d 4 else s1
  | .uncorrectable =>
    let s1 := suspect s d 1
    match (tileOf s d p).part with
    | some c => failTile s1 d c 0x50 0
    | none => s1

/-- REGISTER_RESULT_LAND (R119): the results whose slot has come become visible; `err` is an error in IMEM, the registers or the pipeline (R134), after
an uncorrectable one nothing lands. -/
def execRegisterResultLand (die : Die) (pt : PT) (err : TileErr) (s : State) : Out :=
  let s1 := tileErr s die.val pt.val err
  .next (if err = .uncorrectable then s1 else modTile s1 die.val pt.val fun t => { t with seq := landDue t.seq })

/-- `n` vectors fail their check (09 R218): counted, a suspect event, the operation stopped to be held, a Tap test of the tile. -/
def checksumFailed (s : State) (d p n : Nat) : State :=
  let s1 := suspect (bump s (hltB + 0x2100 + 8 * d) 0 32 n) d 0
  let s2 := modHub s1 fun h => if h.tapQueue.any (fun e => e.1 == d && e.2.pt == p) then h else { h with tapQueue := h.tapQueue ++ [(d, { pt := p, due := mltNs s1 })] }
  match (tileOf s2 d p).part with
  | none => s2
  | some c =>
    match opOf s2 c.op with
    | none => s2
    | some o =>
      if decided o then s2
      else modOp (stopTiles s2 c.op (fun _ => false)) c.op fun o =>
        { o with chkFail := true, badRun := true, finished := true, chkTiles := if o.chkTiles.contains (tileKey d p) then o.chkTiles else o.chkTiles ++ [tileKey d p] }

/-- ARRAY_WRITE_LAND (03 R71, 09 R214 to R218): the next vector's sums enter the Cistern and are checked, the vectors of the three passes of FP32
each for itself; `upset` is a fault of the hardware in one tree output, `err` an error in the Cistern or in the EW lanes (R217), after an
uncorrectable one nothing lands. -/
def execArrayWriteLand (die : Die) (pt : PT) (upset : Option Upset) (s : State) (err : TileErr := .clean) : Out :=
  let d := die.val
  let s0 := tileErr s d pt.val err
  if err = .uncorrectable then .next s0
  else match landVector (tileOf s0 d pt.val) upset with
  | none => .next s0
  | some (t1, cs) =>
    let skips := (cs.filter (· == .skip)).length
    let fails := (cs.filter (· == .fail)).length
    let s1 := modTile s0 d pt.val fun _ => t1
    let s2 := if skips = 0 then s1 else bump s1 (hltB + 0x2104 + 8 * d) 0 32 skips
    .next (if fails = 0 then s2 else checksumFailed s2 d pt.val fails)

/-- SHADOW_COMPLETE (03 R65). -/
def execShadowComplete (die : Die) (pt : PT) (s : State) : Out := .next (modTile s die.val pt.val shadowDone)

/-- ALLOCATION_GRANT (04 R104): the oldest pending request, once its units are free. -/
def execAllocationGrant (die : Die) (pt : PT) (s : State) : Out :=
  .next (modTile s die.val pt.val fun t => { t with mem := grantNext t.mem })

/-- WB_READ_COMPLETE (05 R145): the oldest write-back still reading has read its source; a release mark frees the allocation, and
operand-buffer lines count a use (06 R157). -/
def wbRead (t : Tile) : Tile :=
  match t.mem.wbs.find? (fun b => b.reading) with
  | none => t
  | some b =>
    let m := { t.mem with wbs := updFirst (fun b => b.reading) (fun b => { b with reading := false }) t.mem.wbs }
    { t with
      mem := if b.cist && b.rel then freeAt m b.first else m
      fetch := if b.cist then t.fetch else useLines t.fetch b.first b.count }

/-- WB_READ_COMPLETE; `err` is an error in the Cistern, the operand buffer or the write-back conversion (09 R217), after an uncorrectable one
nothing is read. -/
def execWbReadComplete (die : Die) (pt : PT) (s : State) (err : TileErr := .clean) : Out :=
  let s1 := tileErr s die.val pt.val err
  .next (if err = .uncorrectable then s1 else modTile s1 die.val pt.val wbRead)

/-- The lines a write-back stores, and the free bytes among them: its own, or free ones once its operation's destinations hold
unspecified data. -/
def wbData (s : State) (k : Nat) (b : WbOp) : List Line × Nat :=
  if (match opOf s k with | some o => o.loose | none => false) then
    ((upTo b.data.length).map (fun i => lineOf (freeBytes (s.fresh + 64 * i) 64)), 64 * b.data.length)
  else (b.data, 0)

/-- The latency of a write-back at each port that served it (12 R299). -/
def wbLatency (s : State) (d p : Nat) (c : PartCtx) (b : WbOp) : State :=
  statAll s d p (linePorts s d c true ((upTo b.data.length).map (b.addr + ·))) (fun x => addLatency x (runCycles (mltNs s - b.issued)))
/-- WB_ACKNOWLEDGE (05 R147, 12 R292, R294): the oldest write-back that has been read is in its destination and acknowledged. An error
status ends the operation with it, E_TARGET_OFF where a Sluice is raised in front of a line of it; an isolated tile's Sluice absorbs the
acknowledgement. -/
def execWbAcknowledge (die : Die) (pt : PT) (s : State) : Out :=
  let d := die.val
  let t := tileOf s d pt.val
  match t.part, t.mem.wbs.find? (fun b => !b.reading) with
  | some c, some b =>
    let s1 := modTile s d pt.val fun t =>
      { t with mem := { t.mem with wbs := delFirst (fun b => !b.reading) t.mem.wbs, wbAcked := t.mem.wbAcked + 1 } }
    let x := wbData s1 c.op b
    if !((upTo b.data.length).all (fun i => gateOpen s d c (b.addr + i) true b.issued)) then .next (failTile s1 d c 0x10 0)
    else match writeLines { s1 with fresh := s1.fresh + x.2 } c.part (tileDie s d c b.addr) b.addr x.1 with
    | (0, s2) =>
      let s3 := addDest s2 c.op { part := c.part, die := tileDie s d c b.addr, addr := b.addr, off := 0, bytes := 64 * b.data.length }
      .next (if absorbs s d pt.val then bump s3 (runB d) 0 16 1 else wbLatency s3 d pt.val c b)
    | (e, _) => .next (failTile s1 d c e (if e = 0x22 then b.addr else 0))
  | _, _ => .next s

/-! ## Requests -/

/-- A request to a tile's sequencer; one toward a stopped CK_TILE is abandoned (15 R387). -/
def toTile (s : State) (d p : Nat) (f : Tile → Tile) : State := if stoppedDom s d 1 then s else modTile s d p f
/-- LAUNCH (05 R127, R130, R131; 15 R378): taken at an acceptance point; a time already past fires at once and counts in CLP_LATE. -/
def execLaunch (die : Die) (pt : PT) (time : W64) (s : State) : Out :=
  let s1 := if time.toNat < mltNs s then bump s (clpB + 0x2C) 0 32 1 else s
  .next (toTile s1 die.val pt.val fun t =>
    acceptReqs { t with seq := { t.seq with reqs := { t.seq.reqs with launches := t.seq.reqs.launches ++ [time.toNat] } } })

/-- STOP (05 R127). -/
def execStop (die : Die) (pt : PT) (s : State) : Out := .next (toTile s die.val pt.val stopTile)

/-- A SAVE reaches a tile, with its save area (05 R127; 04 R107, R109): one that comes during a save or restore is held until that ends. -/
def saveTile (area : Nat) (t : Tile) : Tile :=
  if t.saved then { t with saved := false, saveArea := area, seq := { t.seq with status := .saving } }
  else if t.seq.status = .saving ∨ t.seq.status = .restoring then { t with seq := { t.seq with reqs := { t.seq.reqs with saveAgain := some area } } }
  else acceptReqs { t with saveArea := area, seq := { t.seq with reqs := { t.seq.reqs with save := true } } }
/-- SAVE (05 R127, 04 R107, R109). -/
def execSave (die : Die) (pt : PT) (area : W32) (s : State) : Out := .next (toTile s die.val pt.val (saveTile area.toNat))

/-- TEST (05 R127, R130). -/
def execTest (die : Die) (pt : PT) (s : State) : Out :=
  .next (toTile s die.val pt.val fun t => acceptReqs { t with seq := { t.seq with reqs := { t.seq.reqs with test := true } } })

/-- REPEAT_BUDGET_EXPIRY (05 R128): 8,192 cycles have passed since the REP issued: from now on in this body the start of a cycle is an
acceptance point for a request that is pending or comes. -/
def execRepeatBudgetExpiry (die : Die) (pt : PT) (s : State) : Out :=
  .next (modTile s die.val pt.val fun t => if t.seq.lact then acceptReqs { t with seq := { t.seq with repHeld := true } } else t)

/-! ## The saved image (04 R106; 05 R149, R510) -/

/-- The bytes of an in-flight record (R149): remaining slots, the destinations present (bit i the i-th result), their register
numbers, two vector values and a scalar. A mask result lies in the first 8 bytes of a vector value. -/
def flightBytes (slot : Nat) (f : InFlight) : List Byte :=
  let num : Dest → Nat := fun x => match x with | .s r _ => r.toNat | .v r _ _ => r.toNat | .m r _ _ => r.toNat
  let hdr := (f.due - slot) % 256 * 2 ^ 56 + (2 ^ f.dests.length - 1) % 256 * 2 ^ 48 +
    (f.dests.zipIdx.foldl (fun a x => a + num x.1 * 2 ^ (8 * x.2)) 0) % 2 ^ 48
  let vecs := f.dests.filterMap (fun x => match x with
    | .v _ _ l => some ((l.toList).flatMap (fun w => leBytes 4 w.toNat))
    | .m _ _ w => some (leBytes 256 w.toNat)
    | .s _ _ => none)
  let sc := (f.dests.filterMap (fun x => match x with | .s _ v => some v.toNat | _ => none)).headD 0
  leBytes 8 hdr ++ (vecs.getD 0 (leBytes 256 0)) ++ (vecs.getD 1 (leBytes 256 0)) ++ leBytes 4 sc ++ leBytes 4 0

/-- The lines of a tile that lie in no ring (R510). -/
def scratchLine (t : Tile) (l : Nat) : Bool := !t.fetch.rings.any (fun r => overlap r.2.first (r.2.slots * r.2.slotLines) l 1)

/-- The Cistern image of R106. -/
def cisternBytes (t : Tile) : List Byte :=
  let m := t.mem
  let desc (d : UnitDesc) : Nat := d.path.toNat * 2 ^ 30 + b2n d.hwmv * 2 ^ 29 + d.hwm.toNat
  let entry (a : Alloc) : Nat := 2 ^ 31 + b2n a.grant * 2 ^ 30 + a.first % 512 * 2 ^ 9 + (a.count - 1) % 512
  (upTo 32768).flatMap (fun i => leBytes 8 (mget 0 m.cist i).toNat)
    ++ (upTo 16384).map (fun i => BitVec.ofNat 8 ((mget 0 m.ctag (2 * i)).toNat + (mget 0 m.ctag (2 * i + 1)).toNat * 16))
    ++ (upTo 512).flatMap (fun u => leBytes 4 (desc (descOf m u)))
    ++ ((upTo 16).flatMap (fun i => leBytes 4 (match m.allocs[i]? with | some a => entry a | none => 0)))
    ++ leBytes 4 (b2n t.sat) ++ leBytes 4 0x01000000 ++ leBytes 56 0

/-- The sequencer context of R149. -/
def contextBytes (t : Tile) : List Byte :=
  let q := t.seq
  let blocks := (discardBlocks t).mem.rebuild
  let active := blocks.find? (fun b => b.promote)
  let shadow := blocks.find? (fun b => !b.promote)
  (q.sreg.toList.flatMap (fun x => leBytes 4 x.toNat)) ++ (q.vreg.toList.flatMap (fun v => v.toList.flatMap (fun x => leBytes 4 x.toNat)))
    ++ (q.mreg.toList.flatMap (fun x => leBytes 8 x.toNat))
    ++ leBytes 4 (b2n q.lact * 2 ^ 31 + b2n q.evp * 2 ^ 30 + q.lcnt % 2 ^ 14 * 2 ^ 13 + q.pc.toNat)
    ++ leBytes 4 (q.lend.toNat * 2 ^ 12 + q.lstart.toNat) ++ leBytes 8 (if q.evp then q.launchTime else 0) ++ leBytes 16 0
    ++ (match active with | some b => leBytes 8 (0x41 * 2 ^ 56 + b.word.toNat) | none => leBytes 8 0)
    ++ (match shadow with | some b => leBytes 8 (0x41 * 2 ^ 56 + b.word.toNat) | none => leBytes 8 0)
    ++ leBytes 4 (b2n shadow.isSome * 2 + b2n active.isSome) ++ leBytes 12 0
    ++ ((upTo 8).flatMap (fun i => match q.inflight[i]? with | some f => flightBytes q.slot f | none => leBytes 528 0))

/-- The scratch-line record of R510. -/
def scratchBytes (t : Tile) : List Byte :=
  let ok (l : Nat) : Bool := scratchLine t l && mget false t.mem.valid l
  leBytes 32 0
    ++ (upTo 1024).map (fun i => BitVec.ofNat 8 ((upTo 8).foldl (fun a b => a + b2n (ok (8 * i + b)) * 2 ^ b) 0))
    ++ ((upTo 8192).filter (scratchLine t)).flatMap (fun l => lineBytes (mget 0 t.mem.obuf l))

/-! ## Save areas (04 R106) -/

/-- Lines of a die's Basin: 96 MiB (12 R286). -/
def basinLines : Nat := 8 * 12 * 2 ^ 20 / 64
/-- The key of a Basin line of the die itself, outside every partition's window. -/
def dieBasinKey (a : Nat) : Nat := 64 * 2 ^ 30 + a % 2 ^ 30
/-- Lines written into a save area: of the die's Basin (space 0b01), or of the partition's bank set on the die (space 0b00). -/
def writeArea (s : State) (d : Nat) (pn : Option Nat) (area : Nat) (xs : List Line) : Status × State :=
  if area / 2 ^ 30 = 1 then
    if !dieUp s d then (0x10, s)
    else if basinLines < area % 2 ^ 30 + xs.length then (0x22, s)
    else (0, modDie s d fun e => { e with basin := xs.zipIdx.foldl (fun m x => mset 0 m (dieBasinKey area + x.2) x.1) e.basin })
  else match pn with
    | some n => writeLines s n d area xs
    | none => (0x22, s)
/-- Lines read from a save area. -/
def readArea (s : State) (d : Nat) (pn : Option Nat) (area n : Nat) : Status × List Line :=
  if area / 2 ^ 30 = 1 then
    if !dieUp s d then (0x10, [])
    else if basinLines < area % 2 ^ 30 + n then (0x22, [])
    else (0, (upTo n).map (fun i => mget 0 (dieOf s d).basin (dieBasinKey area + i)))
  else match pn with
    | some k => readLines s k d area n
    | none => (0x22, [])
/-- The partition of a tile's part. -/
def tilePart (t : Tile) : Option Nat := t.part.map (·.part)

/-- What a save leaves of a tile once it is complete (04 R107 step 5, R109; 05 R130): the next save where one was held, the Tap test engine
where a TEST waits, else the saved tile. -/
def afterSave (t : Tile) : Tile :=
  match t.seq.reqs.saveAgain with
  | some a => { t with saveArea := a, seq := { t.seq with reqs := { t.seq.reqs with saveAgain := none } } }
  | none =>
    if t.seq.reqs.test then { t with saved := true, seq := { t.seq with status := .test, reqs := { t.seq.reqs with test := false } } }
    else { t with saved := true }
/-- Whether a tile is in steps 1 to 4 of a save. -/
def isSaving (t : Tile) : Bool := t.seq.status == .saving && !t.saved
/-- A save reported complete (04 R107, steps 2 to 5; R130): every array write has landed and no write-back reads; the image is in
the save area; the tile keeps its context, or passes to the Tap test engine where a TEST waits (DEDUCED, note 20). A write the area refuses
leaves the save complete (DESIGN CHOICE, note 140). -/
def saveComplete (s : State) (d p : Nat) : State :=
  let t := tileOf s d p
  if !isSaving t ∨ !t.mem.array.isEmpty ∨ t.mem.wbs.any (fun b => b.reading) then s
  else
    let t1 := if t.mem.loadLines.isSome then shadowDone t else t
    let xs := toLines (cisternBytes t1 ++ contextBytes t1 ++ scratchBytes t1)
    let s1 := (writeArea s d (tilePart t) t.saveArea xs).2
    statAll (modTile s1 d p fun _ => afterSave t1) d p [(p, 2)] (fun x => addSent x (64 * xs.length))

/-! ## Restore and move (03 R66, R89; 04 R108; 06 R160) -/

/-- What a saved or idle tile does next: what it did before (a waiting WLCH issues again) (DEDUCED, note 21). -/
def resumeStatus (q : Seq) : TileStatus := match q.before with | .idle => .idle | .fault => .fault | _ => .run

/-- The tile an image describes (R106, R149, R510), `x` giving its lines: the Cistern, tags, descriptors, allocations and SAT, the registers
and control words, the WLD words, the scratch lines with their valid bits. Results in flight come from the kept context, since their record has
no place for lane enables, a second scalar or more than eight (DEDUCED, note 20). -/
def imageTile (x : Nat → Line) (t : Tile) : Tile :=
  let word (o : Nat) : Nat := ((x (o / 64)).toNat >>> (8 * (o % 64))) % 2 ^ 64
  let half (o : Nat) : Nat := word (o - o % 8) >>> (8 * (o % 8)) % 2 ^ 32
  let byte (o : Nat) : Nat := (x (o / 64)).toNat >>> (8 * (o % 64)) % 256
  let desc (n : Nat) : UnitDesc := ⟨BitVec.ofNat 2 (n / 2 ^ 30), n.testBit 29, BitVec.ofNat 17 n⟩
  let c0 := half 0x45920
  let c1 := half 0x45924
  let scr := (upTo 8192).filter (scratchLine t)
  let ring (m : Nat × Line) : Bool := !scratchLine t m.1
  { t with
    sat := (half 0x44840).testBit 0
    seq :=
      { t.seq with
        sreg := Vector.ofFn (fun i => BitVec.ofNat 32 (half (0x44880 + 4 * i.val)))
        vreg := Vector.ofFn (fun i => Vector.ofFn (fun l => BitVec.ofNat 32 (half (0x44900 + 256 * i.val + 4 * l.val))))
        mreg := Vector.ofFn (fun i => BitVec.ofNat 64 (word (0x45900 + 8 * i.val)))
        lact := c0.testBit 31, evp := c0.testBit 30, lcnt := bitsOf c0 13 14, pc := BitVec.ofNat 12 c0
        lend := BitVec.ofNat 12 (c1 / 2 ^ 12), lstart := BitVec.ofNat 12 c1, launchTime := word 0x45928 }
    mem :=
      { t.mem with
        cist := (upTo 32768).filterMap (fun i => if word (8 * i) = 0 then none else some (i, BitVec.ofNat 64 (word (8 * i))))
        ctag := (upTo 32768).filterMap (fun i =>
          let g := bitsOf (byte (0x40000 + i / 2)) (4 * (i % 2)) 4
          if g = 0 then none else some (i, BitVec.ofNat 4 g))
        cdesc := (upTo 512).filterMap (fun u => if desc (half (0x44000 + 4 * u)) = {} then none else some (u, desc (half (0x44000 + 4 * u))))
        allocs := (upTo 16).filterMap (fun i =>
          let a := half (0x44800 + 4 * i)
          if a.testBit 31 then some ⟨a.testBit 30, bitsOf a 9 9, bitsOf a 0 9 + 1⟩ else none)
        active := if (half 0x45950).testBit 0 then t.mem.active.map (fun b => { b with word := BitVec.ofNat 56 (word 0x45940) }) else none
        shadow := if (half 0x45950).testBit 1 then t.mem.shadow.map (fun b => { b with word := BitVec.ofNat 56 (word 0x45948) }) else none
        obuf := ((t.mem.obuf.filter ring) ++ scr.zipIdx.filterMap (fun l => let y := x (0x46E00 / 64 + l.2); if y = 0 then none else some (l.1, y))).mergeSort (fun a b => decide (a.1 ≤ b.1))
        valid := ((t.mem.valid.filter (fun m => !scratchLine t m.1)) ++ scr.filterMap (fun l => if (byte (0x46A00 + l / 8)).testBit (l % 8) then some (l, true) else none)).mergeSort (fun a b => decide (a.1 ≤ b.1)) } }

/-- Lines of a saved image: 4,536 and the scratch lines (R149, R510). -/
def imageLines (t : Tile) : Nat := 4536 + ((upTo 8192).filter (scratchLine t)).length
/-- The image in a saved tile's save area, where it can be read back and has the running stepping's version (R106, R108). -/
def savedImage (s : State) (d : Nat) (t : Tile) : Option (List Line) :=
  let r := readArea s d (tilePart t) t.saveArea (imageLines t)
  if r.1 = 0 ∧ bitsOf (r.2.getD 4385 0).toNat 32 32 = 0x01000000 then some r.2 else none
/-- The context a tile resumes with: read back from its save area where it was saved, its own where it stands at a kernel boundary; none
where the image is of another version (R108), or cannot be read (DESIGN CHOICE, note 140). -/
def restoredTile (s : State) (d : Nat) (t : Tile) : Option Tile :=
  if t.saved then (savedImage s d t).map (fun l => let a := l.toArray; imageTile (fun i => a.getD i 0) t) else some t

/-- The reads of the source lines of the blocks to be rebuilt (R66). -/
def rebuildReads (now : Nat) (t : Tile) : List FetchReq :=
  (t.mem.rebuild.filter (fun r => !r.srcs.isEmpty)).map (fun r => { dst := 0, srcs := r.srcs, arrived := 0, kind := .weights, issued := now, credited := false, sent := false })
/-- A tile resumes: its blocks are rebuilt before the next matrix instruction (R66); a launch that came meanwhile is taken where its first
instruction waits for one (05 R130); requests that wait are accepted in turn. -/
def resumeTile (now : Nat) (st : TileStatus) (t : Tile) : Tile :=
  let t1 := discardBlocks t
  acceptReqs { t1 with
    saved := false
    seq := settleAwait { t1.seq with status := st }
    mem := startRebuild t1.mem
    fetch := { t1.fetch with pending := t1.fetch.pending.filter (fun r => r.kind != .weights) ++ rebuildReads now t1 } }
/-- A saved tile resumes in place. -/
def resumeHere (now : Nat) (t : Tile) : Tile := resumeTile now (resumeStatus t.seq) t

/-- The fetch engine of a new physical tile (R160): every unreleased slot is fetched again, with its remaining uses, in list
order; then the list goes on. -/
def restartFetch (now : Nat) (f : Fetcher) : Fetcher :=
  let live := f.rings.flatMap (fun r => r.2.live.map (fun x => (r.2, x)))
  let un := (live.filter (fun x => !x.2.2.released)).mergeSort (fun a b => decide (a.2.2.entry ≤ b.2.2.entry))
  { f with
    linesHeld := []
    pending := un.map (fun x => { dst := x.1.first + x.2.1 * x.1.slotLines, srcs := x.2.2.srcs, arrived := 0, layer := f.layer, issued := now, credited := false, sent := false }) }

/-- The context of a tile as it stands on a new physical tile: the Cistern, the sequencer, the scratch lines with their valid bits; the ring
lines are fetched again, the weight blocks rebuilt (R66); allocations not granted are pending again; what counts and records a physical tile's
own events stays with it (03 R90; 05 R150) (DEDUCED, note 14) (DEDUCED, note 26). -/
def arriveTile (now : Nat) (old new : Tile) : Tile :=
  let scratch (l : Nat) : Bool := scratchLine old l
  let st : TileStatus := if old.saved then resumeStatus old.seq else match old.seq.status with | .test => .idle | x => x
  resumeTile now st
    { old with
      seq :=
        { old.seq with
          lovr := new.seq.lovr, faultValid := new.seq.faultValid, faultCause := new.seq.faultCause, faultPc := new.seq.faultPc
          maxWait := new.seq.maxWait, reqs := { old.seq.reqs with save := false, test := false } }
      mem :=
        { old.mem with
          xpWait := []
          obuf := (old.mem.obuf.filter (fun x => scratch x.1)), valid := (old.mem.valid.filter (fun x => scratch x.1))
          waitOpnd := new.mem.waitOpnd, waitAcc := new.mem.waitAcc, waitShadow := new.mem.waitShadow }
      fetch := restartFetch now old.fetch }

/-- The tile a role has left: it holds no part, and passes to the Tap test engine where a TEST waits. -/
def leaveTile (t : Tile) : Tile :=
  { t with
    part := none, saved := false, ended := false, fetch := {}
    seq := { t.seq with status := (if t.seq.reqs.test ∨ t.seq.status = .test then .test else .idle), reqs := {} }
    mem := { t.mem with allocs := [], array := [], wbs := [], active := none, shadow := none, loadLines := none, rebuild := [], xpWait := [] } }

/-- Whether a physical tile can take a role: nothing is mapped on it, it is idle and holds nothing, it is not retired. -/
def freeTarget (s : State) (d p : Nat) : Bool :=
  !(upTo 128).any (fun n => match ptOf s d n with | some m => m.1 == p | none => false)
    && (tileOf s d p).seq.status == .idle && (tileOf s d p).part == none && !s.hub.retired.contains (tileKey d p)
    && (sluiceOf s d p).phase != .redirect

/-- The responses still on their way to a tile that has moved: each comes to the old tile, whose Sluice absorbs it (12 R297). -/
def orphanReads (s : State) (d p : Nat) : State :=
  match (tileOf s d p).part with
  | none => s
  | some c =>
    let ports := ((tileOf s d p).fetch.pending.filter (fun r => r.credited)).flatMap (fun r => linePorts s d c false (r.srcs.drop r.arrived))
    modRun s d fun r =>
      { r with
        nextId := r.nextId + ports.length
        reqs := r.reqs ++ ports.zipIdx.map (fun q =>
          { id := r.nextId + q.2, init := p, target := q.1.1, plane := q.1.2, cls := partCls s c.part, part := some c.part, write := false, addr := 0
            lines := 0, data := [], lt := none, gen := 0, issued := mltNs s, place := .response }) }

/-- A logical tile moved to a free physical tile with a context: the map entry with GEN + 1, REDIRECT toward the new place, the rest of the
list and the lines of its rings requested anew; the new tile's Sluice, closed since an earlier role, opens (12 R297). -/
def moveTile (s : State) (d lt old gen new : Nat) (t : Tile) : State :=
  let s0 := orphanReads s d old
  let s1 := modTile (if (sluiceOf s0 d new).phase = .closed then openSluice s0 d new else s0) d new fun n => arriveTile (mltNs s) t n
  let s2 := modTile s1 d old leaveTile
  let s3 := modDie s2 d fun e => { e with ltMap := mput e.ltMap lt (some (new, BitVec.ofNat 8 (gen + 1))) }
  askList (sendReads (redirect s3 d old new) d new) d new
/-- The tile at a place resumes there with a context. -/
def resumeAt (s : State) (d p : Nat) (t : Tile) : State := sendReads (modTile s d p fun _ => resumeHere (mltNs s) t) d p

/-- Whether a tile stands where its role may move (R89): at a kernel boundary, or saved, with nothing of it under way. -/
def movable (t : Tile) : Bool :=
  t.saved || ((t.seq.status == .idle || t.seq.status == .test) && (t.part == none || t.ended) && t.mem.array.isEmpty && t.mem.wbs.isEmpty)

/-- Whether a move that R89 allows is not carried out, since its image is of another version (R108). -/
def moveRefused (s : State) (d lt new : Nat) : Bool :=
  match ptOf s d lt with
  | some (old, _) => movable (tileOf s d old) && freeTarget s d new && (restoredTile s d (tileOf s d old)).isNone
  | none => false
/-- A move of logical tile `lt` to physical tile `new` where R89 allows it; where the image is of another version the move ends with
E_VERSION, and the logical tile resumes where it was saved (R108). -/
def tryMove (s : State) (d lt new : Nat) : State :=
  match ptOf s d lt with
  | none => s
  | some (old, gen) =>
    let t := tileOf s d old
    if !movable t || !freeTarget s d new then s
    else match restoredTile s d t with
      | some t1 => moveTile s d lt old gen.toNat new (if t1.mem.loadLines.isSome ∧ t1.mem.rebuild.isEmpty then shadowDone t1 else t1)
      | none => resumeAt s d old t

end Sys2Proof.Machine
end

