-- ==== Sys2Proof/Machine/Kernel.lean ====
section
/-! DEFINITION. KERNEL operations (16 R409, R410; 05 R114; 15 R378): the dispatch record, the dispatch of a kernel to its tiles, the
operation's program digest (09 R230). -/

namespace Sys2Proof.Machine

/-! ## The dispatch record (R409) -/

/-- A kernel of the record. -/
structure KernelRec where
  image : Nat
  words : Nat
  entry : Nat
  firstTile : Nat
  tiles : Nat
  deriving DecidableEq, Repr

/-- A tile entry of the record. -/
structure TileRec where
  pos : Nat
  lt : Nat
  list : Nat
  args : List W32
  deriving DecidableEq, Repr

/-- KCOUNT. -/
def kCount (o : Op) : Nat := fieldLe o.drec 8 2
/-- TCOUNT. -/
def tCount (o : Op) : Nat := fieldLe o.drec 12 2
/-- Kernel `i`. -/
def kernelRec (o : Op) (i : Nat) : KernelRec :=
  let b := 160 + 16 * i
  ⟨fieldLe o.drec b 4, fieldLe o.drec (b + 4) 2, fieldLe o.drec (b + 6) 2, fieldLe o.drec (b + 8) 2, fieldLe o.drec (b + 10) 2⟩
/-- Tile entry `i`. -/
def tileRec (o : Op) (i : Nat) : TileRec :=
  let b := 160 + 16 * kCount o + 48 * i
  ⟨byteAt o.drec b, byteAt o.drec (b + 1), fieldLe o.drec (b + 4) 4,
    (upTo 8).map (fun j => BitVec.ofNat 32 (fieldLe o.drec (b + 8 + 4 * j) 4))⟩
/-- The tile entries of a kernel. -/
def kernelTiles (o : Op) (i : Nat) : List TileRec :=
  let k := kernelRec o i
  (upTo k.tiles).map (fun j => tileRec o (k.firstTile + j))
/-- Extent `i` of the record: span position, first line, lines. -/
def extentOf (o : Op) (i : Nat) : Nat × Nat × Nat :=
  let b := 32 + 16 * i
  (byteAt o.drec b, fieldLe o.drec (b + 4) 4, fieldLe o.drec (b + 8) 4)
/-- The input extents. -/
def inExtents (o : Op) : List (Nat × Nat × Nat) := (upTo (byteAt o.drec 10)).map (extentOf o)
/-- The output extents. -/
def outExtents (o : Op) : List (Nat × Nat × Nat) := (upTo (byteAt o.drec 11)).map (fun i => extentOf o (byteAt o.drec 10 + i))

/-! ## Fetch lists (06 R153) -/

/-- The entries of a fetch list up to its END. -/
def listEntries (s : State) (pn d : Nat) : Nat → Nat → List (Nat × Nat)
  | 0, _ => []
  | n + 1, a =>
    let r := readLine s pn d a
    if r.1 ≠ 0 then []
    else
      let es := (upTo 4).map (fun i => let x := r.2.toNat >>> (128 * i); (x % 2 ^ 64, (x >>> 64) % 2 ^ 64))
      let here := es.takeWhile (fun e => entryType e != 3)
      if here.length < 4 then here ++ (es.drop here.length).take 1 else here ++ listEntries s pn d n (a + 1)
/-- The longest list the model reads for its multicast groups and its digest, in lines. -/
def listMax : Nat := 2 ^ 24

/-! ## Where a kernel runs -/

/-- A tile that a kernel is to run on: run die, physical tile, logical tile, entry, partition, die of the original run. -/
structure Target where
  die : Nat
  pt : Nat
  lt : Nat
  entry : TileRec
  part : Nat
  orig : Nat
  deriving DecidableEq, Repr

/-- The die a span position's tiles run on: its own die, or in a replay on another die (09 R223) the die as far along the span in
module ring order as the run's die is from the first entry's (DEDUCED, note 75). -/
def runOn (p : Partition) (orig first run : Nat) : Nat :=
  let c := ringOrder.filter (fun d => (spanDies p).contains d)
  let at' (d : Nat) : Nat := c.findIdx (fun e => e == d)
  if run = first then orig else c.getD ((at' orig + c.length + at' run - at' first) % c.length) orig

/-- The die of the first tile entry of an operation. -/
def firstDie (s : State) (o : Op) : Nat :=
  match (partOf s o.part).bind (fun p => spanDie p (tileRec o (kernelRec o 0).firstTile).pos) with
  | some d => d
  | none => o.home

/-- The targets of a kernel for a partition, `lt0` the first logical tile of the partition whose numbers the record uses. -/
def targetsOn (s : State) (o : Op) (i pn lt0 run : Nat) : Option (List Target) :=
  match partOf s pn with
  | none => none
  | some p =>
    let first := (spanDie p (tileRec o (kernelRec o 0).firstTile).pos).getD 0
    (kernelTiles o i).foldl (fun (a : Option (List Target)) e =>
      match a, spanDie p e.pos with
      | some l, some d =>
        let lt := e.lt - lt0 + p.cur.firstLt
        let rd := runOn p d first run
        match ptOf s rd lt with
        | some m => some (l ++ [⟨rd, m.1, lt, e, pn, d⟩])
        | none => none
      | _, _ => none) (some [])

/-- The targets of a kernel: its partition's tiles and, of a lock-step primary, its mirror's (09 R235). -/
def targetsOf (s : State) (o : Op) (i : Nat) : Option (List Target) :=
  let lt0 := firstLtOf s o.part
  match targetsOn s o i o.part lt0 o.runDie, mirrorOf s o.part with
  | some l, none => some l
  | some l, some m =>
    let mrun := match (partOf s m).bind (fun q => spanDie q (tileRec o (kernelRec o 0).firstTile).pos) with | some d => d | none => 0
    (targetsOn s o i m lt0 mrun).map (fun l2 => l ++ l2)
  | none, _ => none

/-- Whether a target can take a kernel: free, or its part of the same operation has ended. -/
def targetFree (s : State) (k : Nat) (x : Target) : Bool :=
  let t := tileOf s x.die x.pt
  t.seq.status == .idle && (match t.part with | none => true | some c => c.op == k && t.ended)

/-! ## Dispatch (05 R114) -/

/-- The words of an IMEM image; the words beyond its end read 0 (DESIGN CHOICE, note 142). -/
def imemOf (b : List Byte) : SMap W64 :=
  (upTo (b.length / 8)).foldl (fun m i => mset 0 m i (BitVec.ofNat 64 (fieldLe b (8 * i) 8))) []

/-- A tile as R114 sets it for a kernel: the weight blocks carry over from an earlier kernel of the same operation on the tile. -/
def initTile (t : Tile) (c : PartCtx) (imem : SMap W64) (entry : Nat) (args : List W32) (list : Nat) (awaits : Bool) : Tile :=
  let q := t.seq
  let same := match t.part with | some b => b.op == c.op | none => false
  { t with
    seq :=
      { status := .run, imem := imem, pc := BitVec.ofNat 12 entry
        sreg := Vector.ofFn (fun i => if i.val = 0 ∨ 8 < i.val then 0 else args.getD (i.val - 1) 0)
        lovr := q.lovr, awaits := awaits, faultValid := q.faultValid, faultCause := q.faultCause, faultPc := q.faultPc, maxWait := q.maxWait }
    mem :=
      { t.mem with
        active := if same then t.mem.active else none
        shadow := if same then t.mem.shadow else none
        loadLines := if same then t.mem.loadLines else none
        rebuild := if same then t.mem.rebuild else []
        wbAcked := 0 }
    fetch := { running := true, listAddr := list }
    part := some c, sat := false, nv := false, ovf := false, unf := false, crc := -1, ended := false, saved := false }

/-- One target's tile set up: its IMEM image is read where the tile's addresses resolve; an error ends the operation. -/
def dispatchTile (k i : Nat) (o : Op) (s : State) (x : Target) : State :=
  match opOf s k with
  | none => s
  | some o1 =>
    if decided o1 then s
    else
      let kr := kernelRec o i
      let r := readBytes s x.part (resolveDie s x.part x.orig x.die kr.image) kr.image 0 (8 * kr.words)
      if r.1 ≠ 0 then
        endOp s k r.1 fun q => { q with xaddr := BitVec.ofNat 32 (if r.1 = 0x22 then kr.image else 0), lt := x.lt, fdie := x.die }
      else
        let c : PartCtx := ⟨k, x.part, opSeed o, i, x.lt, x.orig⟩
        askList (modTile s x.die x.pt fun t => initTile t c (imemOf r.2) kr.entry x.entry.args x.entry.list (decide (i = 0) && decide (o.launch ≠ 0))) x.die x.pt

/-- The multicast groups of a kernel, by die (06 R164): every tile whose list has a FETCH of the group (DEDUCED, note 68). -/
def mcGroupsOf (s : State) (k : Nat) (xs : List Target) : State :=
  xs.foldl (fun a x =>
    let es := listEntries a x.part (resolveDie a x.part x.orig x.die x.entry.list) listMax x.entry.list
    let gs := ((es.filter (fun e => entryType e == 0 && fetchMc e)).map (fun e => bitsOf e.1 53 6)).eraseDups
    modDie a x.die fun e => { e with mcGroups := gs.foldl (fun m g => mput m (k * 64 + g) (mget [] m (k * 64 + g) ++ [x.lt])) e.mcGroups }) s
/-- The groups of an operation's earlier kernel dropped. -/
def dropGroups (s : State) (k : Nat) : State :=
  { s with dies := s.dies.map (fun e => (e.1, { e.2 with mcGroups := e.2.mcGroups.filter (fun g => g.1 / 64 != k) })) }
/-- The staging streams of a partition begin anew on the dies where none of its tiles runs a kernel (06 R168). -/
def resetStaging (s : State) (xs : List Target) : State :=
  xs.foldl (fun a x => if (partTiles s x.die x.part).all (fun t => t.2.ended) then modDie a x.die fun e => { e with staging := mdel e.staging x.part } else a) s

/-- Kernel `i` of an operation dispatched to its tiles, once all of them can take it (R410). -/
def dispatchKernel (s : State) (k i : Nat) (o : Op) : State :=
  match targetsOf s o i with
  | none => endOp s k 0x10 id
  | some xs =>
    if !xs.all (targetFree s k) then s
    else
      let s1 := mcGroupsOf (dropGroups (resetStaging s xs) k) k xs
      xs.foldl (dispatchTile k i o) (modOp s1 k fun o => { o with kernel := i })

/-- The program digest of R230: the IMEM images in kernel order, then the fetch lists in the order of the tile entries (DEDUCED, note 76). -/
def programDigest (s : State) (o : Op) : List Byte :=
  match partOf s o.part with
  | none => []
  | some p =>
    let imgs := (upTo (kCount o)).flatMap (fun i =>
      let kr := kernelRec o i
      let d := (spanDie p (tileRec o kr.firstTile).pos).getD 0
      (readBytes s o.part d kr.image 0 (8 * kr.words)).2)
    let lists := (upTo (tCount o)).flatMap (fun j =>
      let e := tileRec o j
      let d := (spanDie p e.pos).getD 0
      (listEntries s o.part d listMax e.list).flatMap (fun x => leBytes 8 x.1 ++ leBytes 8 x.2))
    sha256 (imgs ++ lists)

/-- The tiles of an operation's current kernel have all passed END (R410). -/
def kernelEnded (s : State) (k : Nat) : Bool :=
  s.tiles.all (fun e => match e.2.part with | some c => c.op != k || e.2.ended | none => true)

/-- A ready KERNEL operation dispatched with its first kernel, no earlier than 10 µs before its launch time (R410, R378); ENT = 1
under determinism mode or lock-step ends it first (09 R231) (DEDUCED, note 67). -/
def startKernel (s : State) (k : Nat) (o : Op) : State :=
  if opcOf o ≠ 1 ∨ !mayDispatch s o then s
  else if opFlag o 3 && strict s o.part then endOp s k 0x22 id
  else if o.launch ≠ 0 ∧ mltNs s + 10000 < o.launch then s
  else
    let o1 := { o with runDie := firstDie s o }
    match targetsOf s o1 0 with
    | some xs =>
      if !xs.all (targetFree s k) then s
      else
        let s1 := startOp s k (firstDie s o)
        let s2 := if opFlag o 4 then modOp s1 k fun x => { x with progDigest := programDigest s o } else s1
        match opOf s2 k with
        | some o2 => dispatchKernel s2 k 0 o2
        | none => s2
    | none => endOp s k 0x10 id

/-- KERNEL (R410): a ready operation that asks for no capability, or whose capabilities are set, is dispatched. -/
def execKernel (ctx : Fin 4096) (express : Bool) (opseq : W32) (s : State) : Out :=
  .next (match named s ctx express opseq with | some (k, o) => startKernel s k o | none => s)

/-- CAPABILITY_RELEASE (11 R275): an operation held for a capability is dispatched once the capability is set. -/
def execCapabilityRelease (ctx : Fin 4096) (express : Bool) (opseq : W32) (s : State) : Out :=
  .next <|
    match named s ctx express opseq with
    | some (k, o) => if capsOf o ≠ 0 ∧ capsSet s o then startKernel s k o else s
    | none => s

/-- KERNEL_DISPATCH (R410, 05 R114): the next kernel, once every tile of the one before has passed END. -/
def execKernelDispatch (ctx : Fin 4096) (express : Bool) (opseq : W32) (s : State) : Out :=
  .next <|
    match named s ctx express opseq with
    | none => s
    | some (k, o) =>
      if opcOf o = 1 ∧ o.phase = .running ∧ !o.finished ∧ kernelEnded s k ∧ o.kernel + 1 < kCount o then dispatchKernel s k (o.kernel + 1) o
      else s

end Sys2Proof.Machine
end

