-- ==== Sys2Proof/Machine/Integrity.lean ====
section
/-! DEFINITION. Result integrity (09): the commit decision, hold and replay, weight digests, result digests, lock-step comparison. -/

namespace Sys2Proof.Machine

/-! ## Result CRC and result digest (R225, R230, R236) -/

/-- The result CRC of a run: over the kernel CRCs, by kernel index and logical tile. -/
def resultCrc (o : Op) : W64 := (crcList (-1) (o.kcrc.flatMap (fun e => leBytes 8 e.2.toNat))) ^^^ -1

/-- The bytes of an operation's extents, in declaration order. -/
def extentBytes (s : State) (o : Op) (es : List (Nat × Nat × Nat)) : List Byte :=
  match partOf s o.part with
  | none => []
  | some p => es.flatMap (fun e =>
      match spanDie p e.1 with
      | some d =>
        let rd := runOn p d (firstDie s o) o.runDie
        (readBytes s o.part (resolveDie s o.part d rd e.2.1) e.2.1 0 (64 * e.2.2)).2
      | none => [])

/-- The bound block of R230, 176 bytes. -/
def boundBlock (s : State) (o : Op) (code : BitVec 8) : List Byte :=
  match partOf s o.part with
  | none => []
  | some p =>
    let g := p.digest
    let wd := match homeDie p with | some d => mget [] g.doneWeights d | none => []
    ascii "NRV960RD" ++ leBytes 4 0x01000000 ++ leBytes 4 (b2n p.cur.training * 2 ^ 15 + o.part % 64) ++ padTo 32 o.progDigest ++ padTo 32 wd
      ++ leBytes 8 g.doneSteps ++ leBytes 8 o.startSteps ++ sha256 (extentBytes s o (inExtents o)) ++ sha256 (extentBytes s o (outExtents o))
      ++ leBytes 8 (dF o 8 8)
      ++ leBytes 4 (code.toNat * 2 ^ 8 + b2n g.doneDirty * 8 + b2n o.det * 4 + b2n o.seedSrcUsed * 2 + b2n (opFlag o 3)) ++ leBytes 4 0

/-- The result digest record written to RDADDR on the home die (R230); a refused address ends the operation with its code (DEDUCED, note 80). -/
def writeDigest (s : State) (k : Nat) (o : Op) (code : BitVec 8) : State :=
  let b := boundBlock s o code
  let a := dF o 44 4
  match (partOf s o.part).bind homeDie with
  | none => s
  | some d =>
    let r := writeBytes s o.part d a 0 (b ++ sha256 b)
    if r.1 = 0 then r.2
    else modOp s k fun o => { o with code := r.1, info := { o.info with xaddr := BitVec.ofNat 32 (if r.1 = 0x22 then a else 0) } }

/-! ## The commit decision (R220, R221, R225, R226; 16 R410, R421) -/

/-- The code of an operation that has run to its end (16 R421). -/
def endCode (o : Op) (replayed : Bool) : BitVec 8 := if o.satSeen then 0x30 else if replayed then 0x32 else 0x00

/-- An operation committed with a code; a result digest where it asks for one. -/
def commitOp (s : State) (k : Nat) (o : Op) (code : BitVec 8) (f : RecInfo → RecInfo) : State :=
  let s1 := modOp s k fun o => { o with phase := .recordDue, code := code, info := f o.info, seedE := 0 }
  if opFlag o 4 && opcOf o == 1 then writeDigest s1 k o code else s1

/-- Whether a run qualifies to be committed (R225): clean, and of equal CRC with another run, or after an original that failed a
checksum. -/
def qualifies (rs : List RunRec) (i : Nat) : Bool :=
  match rs[i]? with
  | none => false
  | some r => r.clean && ((rs.zipIdx).any (fun q => q.2 != i && q.1.crc == r.crc) || (match rs.head? with | some h => h.chk | none => false))

/-- The destinations of a held operation with what the original run left in them again (R223, R233). -/
def restoreHeld (s : State) (k : Nat) (o : Op) : State :=
  modOp (o.heldData.foldl (fun a e => (writeBytes a e.1.part e.1.die e.1.addr e.1.off e.2).2) s) k fun o => { o with loose := false }

/-- A held operation that commits nothing (R223, R225, R226), or that ends as its original run did, with SUSP. -/
def failHeld (s : State) (k : Nat) (o : Op) (own : Bool) : State :=
  let s1 := bump s (hltB + 0x2304) 0 32 1
  let die := (o.runs.headD ⟨o.runDie, false, false, 0⟩).die
  if own then
    if o.own = 0x50 then modOp s1 k fun o => { o with phase := .recordDue, code := o.own, seedE := 0, info := { o.info with susp := true, runs := max 1 o.runs.length, cdie := die } }
    else commitOp (restoreHeld s1 k o) k o o.own fun i => { i with susp := true, runs := max 1 o.runs.length, cdie := die }
  else modOp s1 k fun o => { o with phase := .recordDue, code := 0x31, seedE := 0, info := { o.info with runs := max 1 o.runs.length } }

/-- What an operation's destinations hold. -/
def destData (s : State) (o : Op) : List (OutRange × List Byte) :=
  o.dests.map (fun x => (x, (readBytes s x.part x.die x.addr x.off x.bytes).2))
/-- An operation held (R221): its destinations hold unspecified data meanwhile (R226); the code of the original run and what it wrote are kept. -/
def holdOp (s : State) (k : Nat) (rs : List RunRec) : State :=
  modOp (looseDests s k) k fun o =>
    { o with
      phase := .held, runs := rs
      own := if o.runs.isEmpty && o.own == 0 then endCode o false else o.own
      heldData := if o.runs.isEmpty then destData s o else o.heldData }

/-- The die on which a logical tile's contribution lies before a run of it on die `d`. -/
def contribRunDie (s : State) (c : PartCtx) (d : Nat) : Nat :=
  match partOf s c.part with | some p => mget c.homeDie p.contribOn (ltKey c.homeDie c.lt) | none => d
/-- The allocations of an earlier run of a logical tile, on another die than the present one, freed. -/
def dropContrib (s : State) (c : PartCtx) (d old : Nat) : State :=
  if old = d then s
  else match ptOf s old c.lt with
    | some (p, _) => modTile s old p fun t => if t.part.isNone then { t with mem := { t.mem with allocs := [] } } else t
    | none => s
/-- Where the contributions of a KERNEL that commits lie (R224): on the die of its last run, those of an earlier run on the original's are freed. -/
def moveContribs (s : State) (k : Nat) (o : Op) : State :=
  if opcOf o ≠ 1 then s
  else (s.tiles.filter (fun e => match e.2.part with | some c => c.op == k && !e.2.mem.allocs.isEmpty | none => false)).foldl (fun a e =>
    match e.2.part with
    | none => a
    | some c =>
      let d := e.1 / 136
      modPart (dropContrib a c d (contribRunDie a c d)) c.part fun p =>
        { p with contribOn := if d = c.homeDie then mdel p.contribOn (ltKey c.homeDie c.lt) else mput p.contribOn (ltKey c.homeDie c.lt) d }) s

/-- The decision of an operation whose unit has reached its end; operations in lock-step are not replayed (R238). -/
def decide' (s : State) (k : Nat) (o : Op) : State :=
  let run : RunRec := ⟨o.runDie, !o.chkFail && !o.badRun, o.chkFail, resultCrc o⟩
  let rs := o.runs ++ [run]
  let replay := replayable s o
  if o.runs.isEmpty then
    if run.clean then commitOp (moveContribs s k o) k o (endCode o false) fun i => { i with runs := 1, cdie := o.runDie }
    else if replay then holdOp s k rs
    else if o.chkFail then modOp s k fun o => { o with phase := .recordDue, code := 0x31, seedE := 0 }
    else commitOp s k o (endCode o false) fun i => { i with susp := true, cdie := o.runDie }
  else
    match (upTo rs.length).reverse.find? (qualifies rs) with
    | some j =>
      let s1 := bump (moveContribs s k o) (hltB + 0x2300) 0 32 1
      commitOp s1 k o (endCode o true) fun i => { i with runs := rs.length, cdie := (rs.getD j run).die }
    | none =>
      if rs.length < 3 then holdOp s k rs
      else failHeld (modOp s k fun o => { o with runs := rs }) k { o with runs := rs } false

/-- Whether every lock-step record of an operation has met its partner (R237, R238). -/
def recordsMet (s : State) (o : Op) : Bool :=
  s.pairs.all (fun q => (q.primary != o.part && (q.module != 0xFF || q.mirror != o.part)) || (q.fromPrimary ++ q.fromMirror).all (fun r => r.opseq != o.opseq))
/-- Whether an operation's run is at its end: its unit says so, or every tile of its last kernel has passed END; no tile of it still
runs, and its lock-step records have been compared. -/
def runEnded (s : State) (k : Nat) (o : Op) : Bool :=
  o.phase == .running && tilesQuiet s k && recordsMet s o &&
    (o.finished || (opcOf o == 1 && o.kernel + 1 == kCount o && kernelEnded s k))

/-- COMMIT_DECISION (R220): of an operation that is no CASCADE (DEDUCED, note 66). -/
def execCommitDecision (ctx : Fin 4096) (express : Bool) (opseq : W32) (s : State) : Out :=
  .next <|
    match named s ctx express opseq with
    | none => s
    | some (k, o) => if opcOf o ≠ 2 ∧ runEnded s k o then decide' s k o else s

/-! ## Replay (R222 to R226) -/

/-- Operation tags in use on a die (16 R412). -/
def tagsOn (s : State) (d : Nat) : Nat := (s.ops.filter (fun e => e.2.tagged && e.2.home == d)).length
/-- Whether a die has raised a suspect event since a time. -/
def suspectSince (s : State) (d t : Nat) : Bool := (mget [] s.hub.suspects d).any (fun x => decide (t ≤ x))
/-- The die of a replay in a replica-mode partition of two or more dies: the next after the original in module ring order that is not
fenced, has raised no suspect event since the original's dispatch and has not run the operation. -/
def replayDie (s : State) (p : Partition) (o : Op) : Option Nat :=
  let c := ringOrder.filter (fun d => (spanDies p).contains d)
  let orig := (o.runs.headD ⟨o.runDie, false, false, 0⟩).die
  let i := c.findIdx (fun d => d == orig)
  ((upTo c.length).map (fun j => c.getD ((i + 1 + j) % c.length) 0)).find?
    (fun d => dieUp s d && !suspectSince s d o.dispatchedAt && !o.runs.any (fun r => r.die == d))

/-- An operation set to run again from its start (R223); its format flags are those of every run (02 R57) (DEDUCED, note 141). -/
def rerun (o : Op) (d : Nat) : Op :=
  { o with
    phase := .running, runDie := d, finished := false, chkFail := false, badRun := false, chkTiles := [], kcrc := [], satSeen := false
    dests := [], loose := false, kernel := 0, linesSent := 0, linesDone := 0, seedSrcUsed := false }

/-- A replay started on a die. -/
def startReplayOn (s : State) (k d : Nat) (o : Op) : State :=
  let s1 := freeTiles (foldFlags s k) k
  match opcOf o with
  | 1 =>
    let o1 := rerun o d
    match targetsOf s1 o1 0 with
    | some xs => if xs.all (targetFree s1 k) then dispatchKernel (modOp s1 k fun o => rerun o d) k 0 o1 else s
    | none => s
  | 3 => modFtn (modOp s1 k fun o => rerun o d) d fun f => if f.queue.length < 8 ∧ f.heldOps = [] then { f with queue := f.queue ++ [k] } else { f with heldOps := f.heldOps ++ [k] }
  | 4 => modFtn (modOp s1 k fun o => rerun o d) d fun f => if f.queue.length < 8 ∧ f.heldOps = [] then { f with queue := f.queue ++ [k] } else { f with heldOps := f.heldOps ++ [k] }
  | _ => modOp s1 k fun o => rerun o d

/-- The die a replay of a chain starts on: that of the operation's first entry in the chain as it stands (R223, 06 R170). -/
def chainDie (s : State) (o : Op) (p : Partition) : Nat :=
  match opcOf o with
  | 1 => firstDie s o
  | 3 => (spanDie p (genArgs o).die).getD o.runDie
  | 4 => (spanDie p (smpDie o)).getD o.runDie
  | _ => o.runDie

/-- A held Cascade step run again with the same epoch and a new LAUNCH (R212, R226). -/
def replayStep (s : State) (launch : Nat) (o : Op) : State :=
  let g := cscGroup o
  let st := cscStep o
  match cstepOf s g st with
  | none => s
  | some c =>
    if c.phase ≠ .held then s
    else
      let rs := o.runs ++ [⟨o.runDie, false, o.chkFail, 0⟩]
      if 3 ≤ rs.length then bump (endStep s g st 0x31) (hltB + 0x2304) 0 32 1
      else
        let s1 := (stepOps s g st).foldl (fun a e => modOp a e.1 fun o => { o with runs := o.runs ++ [⟨o.runDie, false, o.chkFail, 0⟩] }) s
        match groupOf s1 g with
        | some gr => judgeStep s1 gr c (.relaunch launch)
        | none => s1

/-- REPLAY_DISPATCH (R223): a held operation runs again where the rule says; where no die or no spare qualifies it ends, with
E_CHECKSUM after a checksum failure and else with its own code and SUSP. `launch` is the new LAUNCH of a held Cascade step. -/
def execReplayDispatch (ctx : Fin 4096) (express : Bool) (opseq : W32) (launch : W64) (s : State) : Out :=
  .next <|
    match named s ctx express opseq with
    | none => s
    | some (k, o) =>
      if o.phase ≠ .held then s
      else if opcOf o = 2 then replayStep s launch.toNat o
      else match partOf s o.part with
        | none => s
        | some p =>
          let own := !o.runs.any (fun r => r.chk)
          if !p.cur.chain ∧ 2 ≤ (spanDies p).length then
            match replayDie s p o with
            | none => failHeld s k o own
            | some d => if tagsOn s d < 3072 then startReplayOn s k d o else s
          else
            let stuck := o.chkTiles.filter (fun t => dieUp s (t / 136) && (upTo 128).any (fun n => match ptOf s (t / 136) n with | some m => m.1 == t % 136 | none => false))
            if stuck.isEmpty then startReplayOn s k (if p.cur.chain then chainDie s o p else o.runDie) o
            else if stuck.any (fun t => !(upTo 136).any (fun q => freeTarget s (t / 136) q)) then failHeld s k o own
            else s

/-! ## Weight digests (R227 to R229) -/

/-- Lines of a page: 64 KiB. -/
def pageLines : Nat := 1024
/-- The bytes of a page of a partition's weight range on a die. -/
def pageBytes (s : State) (p : Partition) (pn d i : Nat) : List Byte :=
  let n := min pageLines (p.cur.wCount - i * pageLines)
  (upTo n).flatMap (fun j => lineBytes (readLine s pn d (p.cur.wFirst + i * pageLines + j)).2)
/-- The page digests of a die, in page order. -/
def pageDigests (s : State) (p : Partition) (pn d : Nat) : List Byte :=
  (upTo (ceilDiv p.cur.wCount pageLines)).flatMap (fun i => sha256 (pageBytes s p pn d i))

/-- A digest epoch begins (R228): every die hashes its range as it stands at the boundary; one that falls due while another or a
reload is under way is skipped and counted (DEDUCED, note 79) (DEDUCED, note 126). -/
def startEpoch (s : State) (pn : Nat) : State :=
  match partOf s pn with
  | none => s
  | some p =>
    if p.digest.busy ∨ p.digest.reload then bump s (hltB + 0x2500) 0 32 1
    else
      let ds := spanDies p
      let pages : SMap (List Byte) := ds.map (fun d => (d, pageDigests s p pn d))
      modPart s pn fun p =>
        { p with digest := { p.digest with
            busy := true, startSteps := p.steps, pages := pages, weights := pages.map (fun e => (e.1, sha256 e.2))
            runBy := p.digest.requested, requested := [], dirty := false } }

/-- DIGEST (R228): a ready operation asks for an epoch at the next step boundary. -/
def execDigest (ctx : Fin 4096) (express : Bool) (opseq : W32) (s : State) : Out :=
  .next <|
    match named s ctx express opseq with
    | none => s
    | some (k, o) =>
      if opcOf o ≠ 8 ∨ !mayDispatch s o then s
      else modPart (startOp s k o.home) o.part fun p => { p with digest := { p.digest with requested := p.digest.requested ++ [k] } }

/-- The value of HLT_DIG_STAT_p. -/
def digStat (g : DigestState) : Nat := b2n g.busy * 2 ^ 31 + b2n g.agree * 2 ^ 30 + b2n g.nomaj * 2 ^ 29 + b2n g.reload * 2 ^ 28 + g.odd % 65536

/-- The dies whose weight digest a strict majority shares. -/
def majority (ws : SMap (List Byte)) : Option (List Nat) :=
  (ws.map (fun e => (ws.filter (fun f => f.2 == e.2)).map (·.1))).find? (fun l => decide (ws.length < 2 * l.length))

/-- DIGEST_COMPARE (R229): every die has finished; the replicas' digests are compared. In chain mode `shardsAgree` says whether every
shard equals its copy, whose place the spec does not give (DESIGN CHOICE, note 78). -/
def execDigestCompare (part : Fin 64) (shardsAgree : Bool) (s : State) : Out :=
  .next <|
    let pn := part.val
    match partOf s pn with
    | none => s
    | some p =>
      let g := p.digest
      if !g.busy then s
      else
        let ws := g.weights
        let same := if p.cur.chain then shardsAgree else ws.all (fun e => e.2 == (ws.headD (0, [])).2)
        let maj := if p.cur.chain then none else majority ws
        let done := { g with
          busy := false, done := true, doneSteps := g.startSteps, doneWeights := ws, donePages := g.pages, doneDirty := g.dirty, runBy := []
          agree := same, nomaj := !same && maj.isNone, odd := 0 }
        let s1 := g.runBy.foldl (fun a k => completeOp a k (if same then 0 else 0x33)) s
        if same then modPart s1 pn fun p => { p with digest := done }
        else match maj with
          | some l =>
            let odds := (ws.map (·.1)).filter (fun d => !l.contains d)
            modPart s1 pn fun p =>
              { p with digest := { done with reload := true, odd := odds.foldl (fun a d => a + 2 ^ d) 0, leave := odds } }
          | none =>
            let s2 := modPart s1 pn fun p => { p with digest := done }
            let v := match partOf s2 pn with | some p => digStat p.digest | none => 0
            moduleEvent (faultSig s2 { fsid := 0x50, kind := 7, die := 0x10, part := pn, code := 0x33, sev := 0, detail := leBytes 4 v }) 9

/-- The writes queued in a stack applied to its lines. -/
def drained (h : Hbm) : Hbm := (h.queue.filter (fun q => q.write)).foldl (fun a q => hbmStore a q.key q.data q.mask) h
/-- The bank-set line that a key of a stack holds under a mask (13 R307 read backward). -/
def lineOfKey (mask key : Nat) : Option Nat :=
  let col := key % 16
  let row := key / 16 % 16384
  let pc := key / 16 / 16384 % 64
  let bank := key / 16 / 16384 / 64
  let bs := bankList mask
  if bs.contains bank then
    let r := row * bs.length + bs.findIdx (fun b => b == bank)
    some (r * 1024 + (pc ^^^ (r % 64)) * 16 + col)
  else none
/-- Whether a key of a stack lies in a partition's weight range. -/
def weightKey (p : Partition) (key : Nat) : Bool := match lineOfKey p.cur.banks key with | some l => inWeights p l | none => false
/-- The weight range of a partition copied from one die's bank set to another's (R229, 01 R36). -/
def copyWeights (s : State) (p : Partition) (src dst : Nat) : State :=
  let h := drained (dieOf s src).hbm
  let mine := h.lines.filter (fun e => weightKey p e.1)
  let bad := h.poison.filter (fun e => weightKey p e.1)
  modDie s dst fun e =>
    let keep := e.hbm.lines.filter (fun x => !weightKey p x.1)
    let keepP := e.hbm.poison.filter (fun x => !weightKey p x.1)
    { e with hbm :=
      { e.hbm with
        lines := mine.foldl (fun a x => mput a x.1 x.2) keep
        poison := bad.foldl (fun a x => mput a x.1 x.2) keepP
        queue := e.hbm.queue.filter (fun q => !(q.write && weightKey p q.key)) } }

/-- REPLICA_RELOAD_COMPLETE (R229): the copy from a majority die to an odd replica has ended; where the page digests match it rejoins at the next
step boundary, and the majority's writes go on reaching it until then. -/
def execReplicaReloadComplete (part : Fin 64) (die : Die) (s : State) : Out :=
  .next <|
    let pn := part.val
    match partOf s pn with
    | none => s
    | some p =>
      let g := p.digest
      if !g.reload ∨ !g.odd.testBit die.val ∨ g.leave.contains die.val ∨ g.rejoin.contains die.val ∨ !p.outDies.testBit die.val then s
      else match (majority g.doneWeights).bind (fun l => (l.filter (dieUp s)).head?) with
        | none => s
        | some src =>
          let s1 := copyWeights s p src die.val
          if pageDigests s1 p pn die.val ≠ pageDigests s1 p pn src then s1
          else modPart s1 pn fun p =>
            let rest := (p.digest.weights.map (·.1)).filter (fun d =>
              p.digest.odd.testBit d && d != die.val && p.copying.contains d && !p.digest.rejoin.contains d)
            { p with digest := { p.digest with rejoin := p.digest.rejoin ++ [die.val], reload := !rest.isEmpty } }

/-! ## Lock-step (R235 to R239) -/

/-- The report of a divergence in HLT_LS_DIV0 to HLT_LS_DIV2, unless one is held. -/
def reportDivergence (s : State) (xmod : Bool) (a b : LsRec) : State :=
  if flag s (hltB + 0x2600) 31 then s
  else
    let s1 := setRaw s (hltB + 0x2600) (BitVec.ofNat 32 (2 ^ 31 + b2n xmod * 2 ^ 30 + b.die % 16 * 2 ^ 16 + a.die % 16 * 2 ^ 12 + a.lt % 128))
    let s2 := setRaw s1 (hltB + 0x2604) (BitVec.ofNat 32 a.opseq)
    setRaw s2 (hltB + 0x2608) (BitVec.ofNat 32 (b.pt % 256 * 2 ^ 24 + a.pt % 256 * 2 ^ 16 + a.kernel % 65536))

/-- LOCKSTEP_RECORD (R237, R238): the records of a primary's pair that have their partner are compared. Unequal ones end their
operations with E_CHECKSUM, raise a suspect event on both dies and are reported by the lowest of them. -/
def execLockstepRecord (part : Fin 64) (s : State) : Out :=
  .next <|
    match s.pairs.find? (fun q => q.primary == part.val) with
    | none => s
    | some q =>
      let both := q.fromPrimary.filterMap (fun r => (partner q.fromMirror r).map (fun x => (r, x)))
      let bad := both.filter (fun x => x.1.crc != x.2.crc)
      let s1 := { s with pairs := s.pairs.map (fun e =>
        if e.primary = part.val then
          { e with
            fromPrimary := e.fromPrimary.filter (fun r => (partner q.fromMirror r).isNone)
            fromMirror := e.fromMirror.filter (fun r => (partner q.fromPrimary r).isNone) }
        else e) }
      match bad.mergeSort (fun a b => decide (lsOrd a.1 ≤ lsOrd b.1)) with
      | [] => s1
      | (a, b) :: _ =>
        let xm := q.module != 0xFF
        let s2 := reportDivergence s1 xm a b
        let s3 := suspect s2 a.die 7
        let s4 := if xm then s3 else suspect s3 b.die 7
        let seqs := bad.map (fun x => x.1.opseq)
        let ks := (s4.ops.filter (fun e => (e.2.part == q.primary) && seqs.contains e.2.opseq && (e.2.phase == .running || e.2.phase == .held))).map (·.1)
        ks.foldl (fun a k => endOp a k 0x31 id) s4

end Sys2Proof.Machine
end

