-- ==== Sys2Proof/Machine/QueueCore.lean ====
section
/-! DEFINITION. Tenant contexts, completion records, interrupts and the end of operations by an event (16 R397 to R405, R411, R415,
R419 to R423). -/

namespace Sys2Proof.Machine

/-! ## Contexts (R397, R400) -/

/-- The link a context belongs to (R392). -/
def linkOf (s : State) (n : Nat) : Nat := if twoLinks s && decide (2048 ≤ n) then 1 else 0
/-- The partition a context is bound to. -/
def boundPart (s : State) (n : Nat) : Option Nat := if flag s (tcB n) 27 then some (fld s (tcB n) 21 6) else none
/-- The home die of a context: that of its partition (R399); die 0 where it has none (DESIGN CHOICE, note 60). -/
def ctxHome (s : State) (n : Nat) : Nat := (((boundPart s n).bind (partOf s)).bind homeDie).getD 0
/-- The size of a submission ring. -/
def ringSize (s : State) (n : Nat) (express : Bool) : Nat := 2 ^ fld s (tcB n + 8) (if express then 16 else 24) 5
/-- The size of the completion ring. -/
def cqSize (s : State) (n : Nat) : Nat := 2 ^ fld s (tcB n + 8) 8 5
/-- The base of a ring in host memory: offsets 0x10, 0x18 and 0x20 of the entry. -/
def ringBase (s : State) (n off : Nat) : Nat := (raw s (tcB n + off)).toNat / 4096 * 4096 + (raw s (tcB n + off + 4)).toNat * 2 ^ 32
/-- Descriptors fetched from a ring since the context was enabled. -/
def fetchedOf (t : Tc) (express : Bool) : Nat := if express then t.xFetched else t.nFetched
/-- Descriptors a doorbell has announced and that are not fetched (R403). -/
def pendingOf (s : State) (n : Nat) (express : Bool) : Nat :=
  let t := tcOf s n
  let z := ringSize s n express
  ((if express then t.xTail else t.nTail) + z - fetchedOf t express % z) % z
/-- Operations of a context that hold a tag (INFLIGHT). -/
def inflight (s : State) (n : Nat) : Nat := (s.ops.filter (fun e => e.2.ctx == n && e.2.tagged)).length

/-! ## Operations ended by an event (R415, R416, R397, R394) -/

/-- The region of a stopped load: empty and in reset with its isolation closed (11 R281). -/
def emptyRegion (s : State) (d r : Nat) : State :=
  modDie s d fun e => { e with mortar := { e.mortar with regions := mdel e.mortar.regions r } }
/-- A region load leaves its die's queue. -/
def dropLoad (s : State) (d k : Nat) : State :=
  modDie s d fun e => { e with mortar := { e.mortar with loads := e.mortar.loads.filter (fun l => l.op != k) } }
/-- A region load cancelled or timed out (11 R281, R282): once accepted it leaves its region empty; at or after step 9 it is not ended. -/
def stopLoad (s : State) (k : Nat) (code : BitVec 8) : State :=
  match s.dies.find? (fun e => e.2.mortar.loads.any (fun l => l.op == k)) with
  | none => endOp s k code id
  | some e =>
    match e.2.mortar.loads.find? (fun l => l.op == k) with
    | none => endOp s k code id
    | some l =>
      if l.verified then s
      else
        let s1 := dropLoad s e.1 k
        endOp (if l.accepted then emptyRegion s1 e.1 l.region else s1) k code id

/-- A critical command ended with a code: only before Keystone has accepted it (18 R457). -/
def stopCritical (s : State) (k : Nat) (code : BitVec 8) : State :=
  if s.ks.running.any (fun c => c.op == some k) ∨ s.ks.queue.any (fun c => c.op == some k && c.accepted) then s
  else endOp (modKs s fun x => { x with queue := x.queue.filter (fun c => c.op != some k) }) k code id

/-- An operation in a unit ended with a code, as the rows of R415 have it for its opcode. -/
def endRunning (s : State) (k : Nat) (code : BitVec 8) (o : Op) : State :=
  match opcOf o with
  | 1 => endOp (looseDests s k) k code id
  | 2 => (match cstepOf s (cscGroup o) (cscStep o) with | some _ => cancelStep s (cscGroup o) (cscStep o) code | none => endOp s k code id)
  | 3 => endOp (leaveFtn (someLines s k o) o.runDie k) k code id
  | 4 => endOp (leaveFtn s o.runDie k) k code id
  | 7 => stopLoad s k code
  | 8 =>
    endOp (modPart s o.part fun p => { p with digest := { p.digest with requested := p.digest.requested.filter (· != k), runBy := p.digest.runBy.filter (· != k) } })
      k code id
  | 0x10 => stopCritical s k code
  | _ => endOp s k code id

/-- An operation cancelled or timed out (R415, R416): past its decision nothing changes. -/
def cancelOp (s : State) (k : Nat) (code : BitVec 8) : State :=
  match opOf s k with
  | none => s
  | some o =>
    if decided o then s
    else match o.phase with
      | .running => endRunning s k code o
      | .held => endRunning s k code o
      | _ => completeOp s k code

/-- Whether an operation has been fetched and not dispatched. -/
def undispatched (o : Op) : Bool := match o.phase with | .fetched => true | .admitted => true | .ready => true | _ => false

/-- Every operation of a context fetched and not dispatched completes CANCELLED (R397). -/
def cancelWaiting (s : State) (n : Nat) : State :=
  (s.ops.filter (fun e => e.2.ctx == n && undispatched e.2)).foldl (fun a e => completeOp a e.1 0x01) s

/-- A ring fault (R397, R402, R403, R405): the context enters ERROR. -/
def ringFault (s : State) (n cause : Nat) : State :=
  match (tcOf s n).phase with
  | .active => cancelWaiting (modTc s n fun t => { t with phase := .error, errc := cause }) n
  | .draining => cancelWaiting (modTc s n fun t => { t with phase := .error, errc := cause }) n
  | _ => s

/-- A context leaves ACTIVE or ERROR toward DISABLED (R397). -/
def drainContext (s : State) (n : Nat) : State := cancelWaiting (modTc s n fun t => { t with phase := .draining }) n

/-- A context enabled (R398): indices, sequence numbers and the completion slot at 0; both buckets of the Weir full (DEDUCED, note 81). -/
def enableContext (s : State) (n : Nat) : State :=
  modTc s n fun t =>
    { phase := .active, life := t.life + 1, pend := t.pend, weirAt := mltNs s
      opsTokens := fld s (tcB n + 0x2C) 16 16 * 1000000, bytesTokens := ((fld s (tcB n + 0x30) 20 12 * 2 ^ 20 * 1000 : Nat) : Int) }

/-! ## Interrupts (R422, R423) -/

/-- Whether a context's MODE signals anything (R392, R422): 1, or 2 with a vector of its link that is not the module's own. -/
def irqMode (s : State) (n : Nat) : Nat :=
  let m := fld s (tcB n + 0xC) 30 2
  let v := fld s (tcB n + 0xC) 16 11
  if m = 1 then 1 else if m = 2 ∧ 16 ≤ v ∧ !(twoLinks s && decide (1024 ≤ v)) then 2 else 0
/-- The interrupt of a context sent. -/
def sendIrq (s : State) (n : Nat) : State :=
  match irqMode s n with
  | 1 => send s (.irqWrite ((raw s (tcB n + 0x34)).toNat + (raw s (tcB n + 0x38)).toNat * 2 ^ 32) (raw s (tcB n + 0x3C)))
  | 2 => msix s (linkOf s n) (fld s (tcB n + 0xC) 16 11)
  | _ => s
/-- A context signals (R423): at once, or held with PEND while MASK = 1. -/
def signalIrq (s : State) (n : Nat) : State :=
  let s1 := modTc s n fun t => { t with unsignalled := 0, firstUnsig := none }
  if irqMode s n = 0 then s1
  else if flag s (tcB n + 0xC) 29 then modTc s1 n fun t => { t with pend := true }
  else sendIrq s1 n
/-- A record that counts toward an interrupt has been written (R423). -/
def countRecord (s : State) (n : Nat) : State :=
  let s1 := modTc s n fun t => { t with unsignalled := t.unsignalled + 1, firstUnsig := some (t.firstUnsig.getD (mltNs s)) }
  if max 1 (fld s (tcB n + 0xC) 8 8) ≤ (tcOf s1 n).unsignalled then signalIrq s1 n else s1

/-- COALESCING_TIMER_EXPIRY (R423): TMR µs after the first unsignalled record. -/
def execCoalescingTimerExpiry (ctx : Fin 4096) (s : State) : Out :=
  .next <|
    let tmr := fld s (tcB ctx + 0xC) 0 8
    match (tcOf s ctx).firstUnsig with
    | some t => if tmr ≠ 0 ∧ t + tmr * 1000 ≤ mltNs s then signalIrq s ctx else s
    | none => s

/-! ## Completion records (R405, R411, R419) -/

/-- Whether the completion ring has a free slot: one slot stays unused (R403, R405). -/
def slotFree (s : State) (n : Nat) : Bool :=
  let t := tcOf s n
  let z := cqSize s n
  decide ((t.records % z + z - t.cHead) % z < z - 1)
/-- The last bytes of a record: DONE, SQHD and GEN. -/
def recordTail (s : State) (n : Nat) (express : Bool) : List Byte :=
  let t := tcOf s n
  leBytes 8 (mltNs s) ++ leBytes 2 (fetchedOf t express % ringSize s n express) ++ leBytes 2 ((t.records / cqSize s n + 1) % 2 * 256)
/-- The record of an operation. -/
def opRecord (s : State) (o : Op) : List Byte :=
  let i := o.info
  leBytes 4 (opId o) ++ leBytes 4 o.opseq
    ++ leBytes 4 (o.code.toNat + (b2n i.nv + 2 * b2n i.ovf + 4 * b2n i.unf + 8 * b2n i.susp + 32 * b2n o.express) * 2 ^ 8
        + (i.runs % 4 + i.cdie % 16 * 16) * 2 ^ 16)
    ++ leBytes 4 i.xaddr.toNat ++ leBytes 4 (i.cause.toNat + i.lt % 128 * 2 ^ 8 + i.fdie % 16 * 2 ^ 16) ++ recordTail s o.ctx o.express
/-- The record of a message (R411): bytes 12 to 18 carry ADDR, SMOD, SDIE and LINES − 1. -/
def messageRecord (s : State) (n : Nat) (w : WaitRec) : List Byte :=
  leBytes 8 0 ++ leBytes 4 (16 * 2 ^ 8) ++ leBytes 4 w.addr ++ leBytes 4 (w.smod % 256 + w.sdie % 16 * 2 ^ 8 + (w.lines - 1) % 64 * 2 ^ 16)
    ++ recordTail s n false
/-- A record put into the next completion slot. -/
def putRecord (s : State) (n : Nat) (b : List Byte) : State :=
  let t := tcOf s n
  modTc (hostWrite s (ringBase s n 0x20 + 32 * (t.records % cqSize s n)) b) n fun t => { t with records := t.records + 1 }

/-- The key of an operation's code among those its context keeps. -/
def codeKey (life : Nat) (express : Bool) (opseq : Nat) : Nat := (life * 2 + b2n express) * 2 ^ 32 + opseq
/-- The codes of completed operations a context keeps for later dependences (R414): those an offset can still reach. -/
def keepCode (s : State) (o : Op) : State :=
  let live (l : Nat) : Bool := s.ops.any (fun e => e.2.ctx == o.ctx && e.2.life == l)
  modTc s o.ctx fun t =>
    let reach (key : Nat) : Bool :=
      let l := key / 2 ^ 33
      live l || (l == t.life && decide ((fetchedOf t ((key / 2 ^ 32).testBit 0) + 2 ^ 32 - key % 2 ^ 32) % 2 ^ 32 ≤ 4096))
    { t with codes := (mput t.codes (codeKey o.life o.express o.opseq) o.code).filter (fun e => reach e.1) }

/-- An operation leaves the queue processor: its tiles and its tag are free, and lock-step records of it that never met their partner
(DEDUCED, note 77); an operation with STEPEND leaves its boundary due (R417) (DEDUCED, note 100). -/
def retireOp (s : State) (k : Nat) (o : Op) : State :=
  let s1 := keepCode (freeTiles s k) o
  let s2 := if stepEnd o then modPart s1 o.part fun p => { p with stepDue := p.stepDue ++ [o.order] } else s1
  let mine (l : List LsRec) : List LsRec := l.filter (fun r => r.opseq != o.opseq)
  { s2 with
    ops := mdel s2.ops k
    pairs := s2.pairs.map (fun q => if q.primary = o.part then { q with fromPrimary := mine q.fromPrimary, fromMirror := mine q.fromMirror } else q) }

/-- Whether an operation has completed (R414): its code stands and its tiles have stopped (DEDUCED, note 89). -/
def completed (s : State) (k : Nat) (o : Op) : Bool := o.phase == .recordDue && tilesQuiet s k

/-- Whether a context writes completion records (R397): while ACTIVE or DRAINING. -/
def recordsGo (s : State) (n : Nat) : Bool := (tcOf s n).phase == .active || (tcOf s n).phase == .draining

/-- The record of an operation, with the format flags of all its tiles, written and its tag freed (DEDUCED, note 90). -/
def finishRecord (s : State) (n k : Nat) (o : Op) (ok : Bool) : State :=
  if o.discard then retireOp s k o
  else if !recordsGo s n ∨ !slotFree s n then s
  else if !ok then ringFault s n 5
  else
    let s1 := retireOp (putRecord s n (opRecord s { o with info := tileFlags s k o.info })) k o
    if opFlag o 0 then countRecord s1 n else s1

/-! ## Tags (R412) -/

/-- Tags a context holds on a die. -/
def heldOn (s : State) (n d : Nat) : Nat := (s.ops.filter (fun e => e.2.ctx == n && e.2.tagged && e.2.home == d)).length
/-- The contexts whose table entry reserves tags on a die, with RSV. -/
def reservers (s : State) (d : Nat) : List (Nat × Nat) :=
  let ns := ((s.regs.filter (fun e => decide (0x100000 ≤ e.1) && decide (e.1 < 0x140000) && e.1 % 64 == 0x28)).map (fun e => e.1 % 0x100000 / 64))
  (ns.map (fun n => (n, fld s (tcB n + 0x28) 12 8))).filter (fun e => (boundPart s e.1).isSome && ctxHome s e.1 == d)
/-- The sum of RSV on a die (QP_STAT.RSVSUM). -/
def rsvSum (s : State) (d : Nat) : Nat := (reservers s d).foldl (fun a e => a + e.2) 0
/-- Tags of a die kept back for contexts other than `n`. -/
def keptBack (s : State) (n d : Nat) : Nat := ((reservers s d).filter (fun e => e.1 != n)).foldl (fun a e => a + (e.2 - heldOn s e.1 d)) 0
/-- Whether a context may take a tag of its home die. -/
def tagFree (s : State) (n : Nat) : Bool :=
  let d := ctxHome s n
  let free := 3072 - tagsOn s d
  decide (inflight s n < fld s (tcB n + 0x28) 20 12) && decide (0 < free) &&
    (decide (keptBack s n d < free) || decide (heldOn s n d < fld s (tcB n + 0x28) 12 8))

/-! ## The Weir's buckets (R413) -/

/-- Both buckets filled up to now: the operations bucket in millionths of a token, the bytes bucket in thousandths of a byte. -/
def refill (s : State) (n : Nat) : State :=
  modTc s n fun t =>
    let dt := mltNs s - t.weirAt
    { t with
      weirAt := mltNs s
      opsTokens := min (t.opsTokens + dt * fld s (tcB n + 0x2C) 0 16) (fld s (tcB n + 0x2C) 16 16 * 1000000)
      bytesTokens := min (t.bytesTokens + ((dt * fld s (tcB n + 0x30) 0 20 : Nat) : Int)) ((fld s (tcB n + 0x30) 20 12 * 2 ^ 20 * 1000 : Nat) : Int) }

end Sys2Proof.Machine
end

