-- ==== Sys2Proof/Machine/Keystone.lean ====
section
/-! DEFINITION. Keystone: the queue of critical commands and its checks, keys and fuses, debug, attestation (18). -/

namespace Sys2Proof.Machine

/-! ## Commands (R449 to R451) -/

/-- CCODE. -/
def ksCode (c : KsCmd) : Nat := fieldLe c.desc 32 2
/-- SLOT. -/
def ksSlot (c : KsCmd) : Nat := byteAt c.desc 34 % 8
/-- PLEN. -/
def ksPlen (c : KsCmd) : Nat := fieldLe c.desc 36 4
/-- CTR. -/
def ksCtr (c : KsCmd) : Nat := fieldLe c.desc 40 8
/-- Byte `i` of the parameter block. -/
def ksByte (c : KsCmd) (i : Nat) : Nat := byteAt c.params i
/-- The number that names a command among those not complete: 0 the mailbox's, one more than its operation's key otherwise. -/
def ksId (c : KsCmd) : Nat := match c.op with | some k => k + 1 | none => 0
/-- A key slot (R444). -/
def slotOf (k : Keystone) (i : Nat) : KeySlot := mget {} k.slots i
/-- A key slot changed. -/
def modSlot (s : State) (i : Nat) (f : KeySlot → KeySlot) : State := modKs s fun k => { k with slots := mmod {} k.slots i f }
/-- The rights bit a command needs (R445, R451): none where it needs no right, and `none` of an unknown CCODE. -/
def ksRight (code : Nat) : Option (Option Nat) :=
  match code with
  | 0x01 => some (some 0) | 0x02 => some (some 0) | 0x10 => some (some 1) | 0x11 => some (some 1) | 0x13 => some none | 0x18 => some (some 2)
  | 0x19 => some (some 2) | 0x1A => some (some 2) | 0x1B => some (some 2) | 0x20 => some (some 3) | 0x21 => some (some 3) | 0x22 => some (some 3)
  | 0x30 => some (some 4) | 0x31 => some (some 4) | 0x40 => some (some 5) | 0x41 => some (some 5) | 0x42 => some (some 5) | 0x50 => some (some 6)
  | 0x60 => some none | _ => none
/-- The commands accepted in recovery stage A (R440; 11 R272) (DEDUCED, note 106). -/
def romAccepts (code : Nat) : Bool := [0x01, 0x02, 0x10, 0x11, 0x13, 0x18, 0x19, 0x1A, 0x1B].contains code
/-- The bytes of its parameter block a command reads (R446, R448, R451, R452, R457, R464, R469). -/
def ksNeed (code : Nat) : Nat :=
  match code with
  | 0x01 => 16 | 0x02 => 8 | 0x10 => 68 | 0x13 => 32 | 0x18 => 68 | 0x19 => 68 | 0x1A => 0 | 0x20 => 64 | 0x21 => 64 | 0x31 => 4 | 0x40 => 4
  | 0x60 => 48 | _ => 1
/-- The message a tag covers (R450). -/
def ksMessage (c : KsCmd) : List Byte :=
  leBytes 8 Config.serial.toNat ++ c.desc.take 1 ++ [(c.desc.getD 1 0) &&& 0x7F#8] ++ (c.desc.drop 2).take 46 ++ c.params
/-- Whether SLOT, CTR and TAG are 0. -/
def ksUntagged (c : KsCmd) : Bool := byteAt c.desc 34 == 0 && ksCtr c == 0 && fieldLe c.desc 48 16 == 0

/-! ## The checks (R453, R440, R448, R454) -/

/-- Step 1: the header and fields of R449, R451, R457. -/
def ksFormOk (c : KsCmd) : Bool :=
  byteAt c.desc 0 == 0x10 && byteAt c.desc 1 / 4 % 32 == 0 && fieldLe c.desc 16 8 == 0 && decide (fieldLe c.desc 24 2 ≤ 256) &&
    decide (fieldLe c.desc 26 2 ≤ 256) && fieldLe c.desc 30 2 == 0 && decide (byteAt c.desc 34 < 8) && byteAt c.desc 35 == 0 &&
    decide (ksPlen c ≤ 4096) && (ksRight (ksCode c)).isSome &&
    (!(ksCode c == 0x60 || (ksCode c == 0x13 && c.op.isNone)) || ksUntagged c)
/-- The first check of steps 1 to 5 that a command fails: the step and the code. -/
def ksFault (s : State) (c : KsCmd) : Option (Nat × BitVec 8) :=
  let x := slotOf s.ks (ksSlot c)
  let code := ksCode c
  if !ksFormOk c then some (1, 0x22)
  else if !s.ks.owned then (if code = 0x13 ∧ c.op = none then none else some (2, 0x20))
  else if code = 0x13 then some (2, 0x20)
  else if stageOf s = 0 ∧ !romAccepts code then some (1, Config.refusalCode code)
  else if code = 0x60 then none
  else if x.state ≠ 1 then some (2, 0x20)
  else if (hmac256 x.key (ksMessage c)).take 16 ≠ (c.desc.drop 48).take 16 then some (3, 0x20)
  else if ksCtr c ≤ x.lastCtr then some (4, 0x21)
  else match ksRight code with
    | some (some r) => if x.rights.testBit r then none else some (5, 0x20)
    | _ => none

/-- A counter record (R455), 16 bytes: slot, CTR, and the CRC-32 of 11 R268 over both. -/
def ctrRecord (slot ctr : Nat) : List Byte :=
  let b := leBytes 4 slot ++ leBytes 8 ctr
  b ++ leBytes 4 (crc32 b)
/-- What a counter record says, slot and CTR: none where its CRC fails. -/
def ctrOf (b : List Byte) : Option (Nat × Nat) :=
  if fieldLe b 12 4 == crc32 (b.take 12) then some (fieldLe b 0 4, fieldLe b 4 8) else none
/-- The latest counter of a slot that a sector records. -/
def ctrIn (store : List (List Byte)) (slot : Nat) : Option Nat :=
  ((store.filterMap ctrOf).filter (fun r => r.1 == slot)).getLast?.map (·.2)
/-- A counter record appended to the sector in use (R455); one that holds its 256 records makes way for the other, which begins with the latest record of
every slot (DESIGN CHOICE, note 160). -/
def appendCtr (store : List (List Byte)) (slot ctr : Nat) : List (List Byte) :=
  (if store.length < 256 then store else (upTo 8).filterMap (fun i => (ctrIn store i).map (ctrRecord i))) ++ [ctrRecord slot ctr]
/-- The counters in force at power-up (R455): those of Keystone's store; none falls (R444). -/
def readCounters (k : Keystone) : Keystone :=
  { k with slots := (upTo 8).foldl (fun m i => match ctrIn k.store i with | some c => mmod {} m i (fun x => { x with lastCtr := max x.lastCtr c }) | none => m) k.slots }
/-- LASTCTR of the command's slot takes its CTR, and the counter record is in Keystone's store (R455). -/
def ksCommit (s : State) (c : KsCmd) : State :=
  if ksCode c = 0x13 ∨ ksCode c = 0x60 then s
  else modKs (modSlot s (ksSlot c) fun x => { x with lastCtr := ksCtr c }) fun k => { k with store := appendCtr k.store (ksSlot c) (ksCtr c) }

/-- A command complete with a code (R511): its record is due, or the mailbox reports it. -/
def ksComplete (s : State) (c : KsCmd) (code : BitVec 8) : State :=
  match c.op with
  | some k => completeOp s k code
  | none => setFlag (setFld (modKs s fun k => { k with mailBusy := false }) (ksB + 0x140) 0 8 code.toNat) (ksB + 0x140) 29 true

/-- The command at the head of the queue taken through steps 1 to 6, each that fails making way for the next (R453) (DEDUCED, note 96). -/
def ksCheck : Nat → State → State
  | 0, s => s
  | n + 1, s =>
    match s.ks.queue with
    | [] => s
    | c :: r =>
      if c.accepted then s
      else
        let c1 := { c with params := hostRead s (fieldLe c.desc 8 8) (if ksPlen c ≤ 4096 then ksPlen c else 0) }
        match ksFault s c1 with
        | none => modKs (ksCommit s c1) fun k => { k with queue := { c1 with accepted := true } :: r }
        | some (step, code) =>
          let s1 := if step = 5 then ksCommit s c1 else s
          let s2 := if step = 1 then s1 else bump s1 (ksB + 0x320) 0 32 1
          ksCheck n (ksComplete (modKs s2 fun k => { k with queue := r }) c1 code)

/-- A command in the queue, and checked where it is the only one. -/
def ksEnter (s : State) (c : KsCmd) : State := ksCheck 17 (modKs s fun k => { k with queue := k.queue ++ [c] })
/-- The head of the queue out of it, and the next one checked. -/
def ksPop (s : State) : State := ksCheck 17 (modKs s fun k => { k with queue := k.queue.drop 1 })
/-- The head complete with a code. -/
def ksEnd (s : State) (c : KsCmd) (code : BitVec 8) : State := ksPop (ksComplete s c code)
/-- The head's change is recorded: the next command is taken, this one completes later (R511). -/
def ksLater (s : State) (c : KsCmd) : State := ksPop (modKs s fun k => { k with running := k.running ++ [c] })
/-- A command whose change has been made completes (R511). -/
def ksFinish (s : State) (id : Nat) (code : BitVec 8) : State :=
  match s.ks.running.find? (fun c => ksId c == id) with
  | some c => ksComplete (modKs s fun k => { k with running := k.running.filter (fun x => ksId x != id) }) c code
  | none => s
/-- Step 7 of a command of CCODE `code`, where it is at the head and has passed step 6; a block shorter than the bytes it reads is
refused (DEDUCED, note 70). -/
def ksHead (s : State) (code : Nat) (f : KsCmd → State) : State :=
  match s.ks.queue with
  | c :: _ => if c.accepted ∧ ksCode c = code then (if c.params.length < ksNeed code then ksEnd s c 0x22 else f c) else s
  | [] => s

/-- CRITICAL (R453): a ready CRITICAL operation enters Keystone's queue while it holds fewer than 16 and is checked in its turn. -/
def execCritical (ctx : Fin 4096) (express : Bool) (opseq : W32) (s : State) : Out :=
  .next <|
    match named s ctx express opseq with
    | none => s
    | some (k, o) =>
      let free : Bool := match partOf s o.part with | some p => stepFree s o.part p o | none => true
      if opcOf o = 0x10 ∧ o.phase = .ready ∧ free = true ∧ s.ks.queue.length < 16 then ksEnter (startOp s k o.home) { op := some k, desc := o.desc } else s

/-- The mailbox descriptor queued (R459): ignored while BUSY = 1. -/
def mailboxGo (s : State) : State :=
  if s.ks.mailBusy ∨ 16 ≤ s.ks.queue.length then s
  else ksEnter (modKs s fun k => { k with mailBusy := true }) { op := none, desc := (upTo 16).flatMap (fun i => leBytes 4 (raw s (ksB + 0x100 + 4 * i)).toNat) }

/-! ## Fuses and keys (R444 to R448, R451) -/

/-- SVN_COMMIT (R451). -/
def execSvnCommit (s : State) : Out :=
  .next <| ksHead s 0x02 fun c =>
    let t := ksByte c 0
    let v := fieldLe c.params 4 4
    if t = 0 ∨ 6 < t ∨ v ≤ mget 0 s.ks.svn t ∨ 32 < v then ksEnd s c 0x22
    else ksEnd (modKs s fun k => { k with svn := mput k.svn t v }) c 0

/-- The key a wrapped block holds (R446): none where its tag fails. -/
def unwrap (s : State) (c : KsCmd) : Option (List Byte) :=
  let kw := hmac256 (slotOf s.ks (ksSlot c)).key (ascii "NRV960KW" ++ leBytes 8 (ksCtr c))
  Config.gcmOpen kw ((c.params.drop 8).take 12) [] ((c.params.drop 20).take 32) ((c.params.drop 52).take 16)
/-- Whether the fields of a wrapped block are in range for a target. -/
def wrapOk (c : KsCmd) (image : Bool) : Bool :=
  (if image then ksByte c 0 == 0xFF else decide (ksByte c 0 < 8) && decide (ksByte c 1 < 128)) && fieldLe c.params 2 6 == 0

/-- KEY_INSTALL (R444, R446, R454): into an EMPTY or REVOKED slot; slot 0 is rotated from slot 0, and from any slot with the right
once its counter is exhausted. The slot keeps its LASTCTR. -/
def execKeyInstall (s : State) : Out :=
  .next <| ksHead s 0x10 fun c =>
    let t := ksByte c 0
    let x := slotOf s.ks t
    if !wrapOk c false then ksEnd s c 0x22
    else if !(x.state ≠ 1 ∨ (t = 0 ∧ (ksSlot c = 0 ∨ x.lastCtr = 2 ^ 64 - 1))) then ksEnd s c (Config.refusalCode 0x10)
    else match unwrap s c with
      | none => ksEnd s c 0x20
      | some key => ksEnd (modSlot s t fun x => { x with state := 1, key := key, rights := if t = 0 then 0x7F else ksByte c 1 }) c 0

/-- KEY_REVOKE (R444, R451). -/
def execKeyRevoke (s : State) : Out :=
  .next <| ksHead s 0x11 fun c =>
    let t := ksByte c 0
    if t = 0 ∨ 7 < t then ksEnd s c 0x22
    else if (slotOf s.ks t).state = 0 then ksEnd s c (Config.refusalCode 0x11)
    else ksEnd (modSlot s t fun x => { x with state := 2 }) c 0

/-- OWNER_PROVISION (R448): slot 0 takes the key in plaintext and every right, and OWNED is blown. -/
def execOwnerProvision (s : State) : Out :=
  .next <| ksHead s 0x13 fun c =>
    ksEnd (modKs (modSlot s 0 fun x => { x with state := 1, key := c.params.take 32, rights := 0x7F }) fun k => { k with owned := true }) c 0

/-- IMGKEY_VBAT (R446, R447). -/
def execImgkeyVbat (s : State) : Out :=
  .next <| ksHead s 0x18 fun c =>
    if !wrapOk c true then ksEnd s c 0x22
    else match unwrap s c with
      | none => ksEnd s c 0x20
      | some key =>
        let s1 := modKs s fun k => { k with vbatKey := some key }
        ksEnd (if s.ks.keysrcNow then setFlag s1 cfgB 28 false else s1) c 0

/-- IMGKEY_FUSE (R446, R447): once; a second one is refused with E_VERSION. -/
def execImgkeyFuse (s : State) : Out :=
  .next <| ksHead s 0x19 fun c =>
    if !wrapOk c true ∨ s.ks.fuseKey.isSome then ksEnd s c 0x22
    else match unwrap s c with
      | none => ksEnd s c 0x20
      | some key =>
        let s1 := modKs s fun k => { k with fuseKey := some key }
        ksEnd (if s.ks.keysrcNow then s1 else setFlag s1 cfgB 28 false) c 0

/-- KEYSRC_FUSE (R451): the fuse is set; the key it selects is used from the next power-up on. -/
def execKeysrcFuse (s : State) : Out := .next <| ksHead s 0x1A fun c => ksEnd (modKs s fun k => { k with keysrc := true }) c 0

/-- ROOT_REVOKE (R451): the last root that is not revoked stays. -/
def execRootRevoke (s : State) : Out :=
  .next <| ksHead s 0x1B fun c =>
    let i := ksByte c 0
    let r := s.ks.rootRevoked ||| 2 ^ (i % 4)
    if 3 < i ∨ r = 15 then ksEnd s c 0x22 else ksEnd (modKs s fun k => { k with rootRevoked := r }) c 0

/-- DEBUG_ENABLE (R451): opening JTAG debug raises the suspect event of every die. -/
def execDebugEnable (s : State) : Out :=
  .next <| ksHead s 0x50 fun c =>
    let b := ksByte c 0
    if 1 < b then ksEnd s c 0x22
    else
      let s1 := modKs s fun k => { k with debug := b == 1 }
      ksEnd (if b = 1 then allDies.foldl (fun a d => suspect a d 8) s1 else s1) c 0

/-! ## Attestation (R457, R458) -/

/-- The selector of an ATTEST. -/
def atSel (c : KsCmd) : Nat := fieldLe c.params 32 4
/-- Why an ATTEST is refused, and the result digest it reports. -/
def atDigest (s : State) (c : KsCmd) : Except (BitVec 8) (List Byte) :=
  let sel := atSel c
  let r := mget {} (dieOf s (bitsOf sel 0 4)).mortar.regions (bitsOf sel 4 3)
  if sel.testBit 31 ∧ (r.phase ≠ .released ∨ r.isolated) then .error 0x10
  else if !sel.testBit 30 then .ok (List.replicate 32 0)
  else
    let pn := bitsOf sel 8 6
    match (partOf s pn).bind homeDie with
    | none => .error 0x10
    | some d =>
      let x := readBytes s pn d (fieldLe c.params 36 4) 0 208
      if x.1 ≠ 0 then .error x.1
      else if sha256 (x.2.take 176) ≠ x.2.drop 176 then .error 0x33 else .ok (x.2.drop 176)
/-- An image as stored: header, signature block and payload. -/
def storedImage (b : List Byte) : List Byte := b.take (640 + imgPlen b)
/-- Bytes 0 to 423 of the report (R458). -/
def atReport (s : State) (c : KsCmd) (digest : List Byte) : List Byte :=
  let sel := atSel c
  let imgs := (upTo 6).map (fun t => mfind s.hub.running (t + 1))
  let reg := mget {} (dieOf s (bitsOf sel 0 4)).mortar.regions (bitsOf sel 4 3)
  let flags := stageOf s + 4 * b2n (detOn s) + 8 * b2n (!s.pairs.isEmpty) + 16 * b2n s.ks.keysrc + 32 * b2n s.ks.owned + 64 * b2n s.ks.debug
  ascii "NRV960AT" ++ leBytes 4 0x01000000 ++ leBytes 4 flags ++ leBytes 8 Config.serial.toNat ++ c.params.take 32 ++ leBytes 4 (raw s 4).toNat ++ leBytes 4 sel
    ++ imgs.flatMap (fun i => leBytes 4 (match i with | some b => imgVer b | none => 0xFFFFFFFF))
    ++ imgs.flatMap (fun i => match i with | some b => sha256 (storedImage b) | none => List.replicate 32 0)
    ++ (if sel.testBit 31 then sha256 (storedImage reg.image) else List.replicate 32 0) ++ digest ++ leBytes 8 (mltNs s)
    ++ (upTo 8).map (fun i => BitVec.ofNat 8 (slotOf s.ks i).state) ++ (upTo 8).flatMap (fun i => leBytes 8 (slotOf s.ks i).lastCtr)

/-- ATTEST (R457, R458): the report, its signature and the certificate are written to host memory (DEDUCED, note 97). -/
def execAttest (s : State) : Out :=
  .next <| ksHead s 0x60 fun c =>
    match atDigest s c with
    | .error e => ksEnd s c e
    | .ok d =>
      let b := atReport s c d
      let sig := beBytes 96 (Config.attestSign s.fresh (sha256 b)).toNat
      ksEnd (hostWrite { s with fresh := s.fresh + 1 } (fieldLe c.params 40 8) (b ++ sig ++ leBytes 1024 Config.attestCert.toNat)) c 0

end Sys2Proof.Machine
end

