-- ==== Sys2Proof/Machine/HbmOps.lean ====
section
/-! DEFINITION. The HBM controller: queues, command order, row disturbance, errors, repair, training (13). -/

namespace Sys2Proof.Machine

/-- The HBM of a die. -/
def hbmOf (s : State) (d : Nat) : Hbm := (dieOf s d).hbm
/-- The HBM of a die changed. -/
def modHbm (s : State) (d : Nat) (f : Hbm → Hbm) : State := modDie s d fun e => { e with hbm := f e.hbm }
/-- HBM_STAT of a die. -/
def hbmStat (d : Nat) : Nat := hbmB d
/-- HBM_CTRL of a die. -/
def hbmCtrl (d : Nat) : Nat := hbmB d + 4
/-- The key of a bank of a pseudo-channel. -/
def bankKey (pc bank : Nat) : Nat := pc * 64 + bank
/-- The key of a queue of a pseudo-channel: its class. -/
def classKey (pc : Nat) (training : Bool) : Nat := pc * 2 + b2n training

/-! ## The slot split (R310) -/

/-- The partitions of a class that hold a bank set on a die, and how many banks in all. -/
def classBanks (s : State) (d : Nat) (training : Bool) : Nat :=
  s.parts.foldl (fun a p =>
    if p.2.cur.training = training ∧ p.2.bankDies.testBit d then a + (bankList p.2.cur.banks).length else a) 0
/-- The slots of the serving class of b_s banks beside b_t of the training class (R310). -/
def servingSlots (bs bt : Nat) : Nat :=
  if bs + bt = 0 then 0
  else if bt = 0 then 32
  else if bs = 0 then 0
  else min 28 (max 4 ((64 * bs + (bs + bt)) / (2 * (bs + bt))))
/-- HBM_SLOTS of a die set anew (R310). -/
def splitSlots (s : State) (d : Nat) : State :=
  let bs := classBanks s d false
  let bt := classBanks s d true
  let ss := servingSlots bs bt
  setFld (setFld s (hbmB d + 8) 8 8 ss) (hbmB d + 8) 0 8 (if bs + bt = 0 then 0 else 32 - ss)
/-- The slots per frame of a class. -/
def slotsOf (s : State) (d : Nat) (training : Bool) : Nat := fld s (hbmB d + 8) (if training then 0 else 8) 8

/-! ## Queues (R309, R312) -/

/-- The entries of a queue. -/
def queueOf (h : Hbm) (pc : Nat) (training write : Bool) : List HbmReq :=
  h.queue.filter (fun q => q.pc == pc && q.training == training && q.write == write)
/-- Whether a queued read has a queued write before it to its bank and row (R312). -/
def orderMatch (h : Hbm) (pc bank : Nat) : Bool :=
  h.queue.any (fun r => !r.write && r.pc == pc && r.bank == bank &&
    h.queue.any (fun w => w.write && w.pc == pc && w.bank == bank && w.row == r.row && decide (w.id < r.id)))
/-- The bank leaves in-order mode when no queued read has such a match (R312). -/
def settleOrder (h : Hbm) (pc bank : Nat) : Hbm :=
  if orderMatch h pc bank then h else { h with inOrder := mdel h.inOrder (bankKey pc bank) }
/-- A request put into its queue; it ends a power-down (R315). -/
def enqueueHbm (h : Hbm) (q : HbmReq) : Hbm :=
  { h with
    queue := h.queue ++ [{ q with id := h.nextId }], nextId := h.nextId + 1
    powerDown := mdel h.powerDown q.pc, pdSince := mput h.pdSince q.pc q.arrived }
/-- The class whose queue takes a request to a bank (R309, R317): that of the partition that holds it, of a bank outside all bank sets the class with
more slots. -/
def bankClass (s : State) (d bank : Nat) : Bool :=
  match s.parts.find? (fun p => p.2.bankDies.testBit d && p.2.cur.banks.testBit bank) with
  | some p => p.2.cur.training
  | none => decide (slotsOf s d false < slotsOf s d true)

/-- HBM_READ (R309, R312): a line read enters its class's read queue of 24; a full queue, or one of another class, takes none. -/
def execHbmRead (die : Die) (pc bank : Fin 64) (row : Fin 16384) (col : Fin 16) (training : Bool) (s : State) : Out :=
  .next <|
    let h := hbmOf s die
    if 24 ≤ (queueOf h pc training false).length ∨ training ≠ bankClass s die bank then s
    else modHbm s die fun h =>
      let h1 := enqueueHbm h ⟨0, pc, bank, row, col, training, false, 0, 0, mltNs s⟩
      if mget 16384 h.openRow (bankKey pc bank) = row.val ∧ h.queue.any (fun w => w.write && w.pc == pc && w.bank == bank && w.row == row.val) then
        { h1 with inOrder := mput h1.inOrder (bankKey pc bank) true }
      else h1

/-- HBM_WRITE (R309): a line write, whole or of the bytes its mask names, enters its class's write queue of 16 and is
acknowledged; a full queue, or one of another class, takes none. -/
def execHbmWrite (die : Die) (pc bank : Fin 64) (row : Fin 16384) (col : Fin 16) (training : Bool) (mask : BitVec 64)
    (data : Line) (s : State) : Out :=
  .next <|
    let h := hbmOf s die
    if 16 ≤ (queueOf h pc training true).length ∨ training ≠ bankClass s die bank then s
    else modHbm s die fun h => enqueueHbm h ⟨0, pc, bank, row, col, training, true, data, mask, mltNs s⟩

/-! ## Which command issues (R311, R312) -/

/-- Whether a channel runs at 7.68 Gb/s. -/
def fastCh (h : Hbm) (pc : Nat) : Bool := mget false h.fast (pc / 2)
/-- Whether an entry has waited 16 frames: 32 slots of 2.083 ns, of 5 ns at 3.2 Gb/s. -/
def aged (h : Hbm) (now : Nat) (q : HbmReq) : Bool :=
  if fastCh h q.pc then decide (3200 ≤ 3 * (now - q.arrived)) else decide (2560 ≤ now - q.arrived)
/-- Whether an entry's bank lets it issue: no repair holds the bank, and in in-order mode nothing queued before it waits. -/
def mayIssue (h : Hbm) (q : HbmReq) : Bool :=
  !(match h.repair with | some (pc, b, _) => pc == q.pc && b == q.bank | none => false) &&
  !(mget false h.inOrder (bankKey q.pc q.bank) &&
    h.queue.any (fun x => x.pc == q.pc && x.bank == q.bank && decide (x.id < q.id)))
/-- Whether the write queue is being drained: from 12 entries or an age of 2 µs, down to 4 (R311) (DEDUCED, note 53). -/
def drainNow (h : Hbm) (now pc : Nat) (training : Bool) : Bool :=
  let w := queueOf h pc training true
  (mget false h.draining (classKey pc training) && decide (4 < w.length)) || decide (12 ≤ w.length) ||
    w.any (fun q => decide (q.arrived + 2000 ≤ now))
/-- The entry that issues next (R311). -/
def pickHbm (h : Hbm) (now pc : Nat) (training : Bool) : Option HbmReq :=
  let e := h.queue.filter (fun q => q.pc == pc && q.training == training && mayIssue h q)
  let hit (q : HbmReq) : Bool := mget 16384 h.openRow (bankKey q.pc q.bank) == q.row
  let old := e.find? (aged h now)
  let rd := (e.find? (fun q => !q.write && hit q)).or (e.find? (fun q => !q.write))
  let wr := e.find? (fun q => q.write)
  old.or (if drainNow h now pc training then wr.or rd else rd.or wr)

/-! ## Activates and the row-disturbance table (R314) -/

/-- The entry with the smallest count, lowest number on a tie. -/
def rhSmallest (t : List RhEntry) : Nat :=
  (upTo t.length).foldl (fun a i => if (t.getD i ⟨0, 0, 0⟩).count < (t.getD a ⟨0, 0, 0⟩).count then i else a) 0
/-- The table after an activate of (k, r), and whether the neighbours are refreshed. -/
def rhActivate (t : List RhEntry) (k r thresh : Nat) : List RhEntry × Bool :=
  let i :=
    match t.findIdx? (fun e => e.bank == k && e.row == r) with
    | some i => i
    | none => if t.length < 32 then t.length else rhSmallest t
  let e : RhEntry := ⟨k, r, (t.getD i ⟨k, r, 0⟩).count + 1⟩
  let due := decide (thresh ≤ e.count)
  let e1 : RhEntry := if due then { e with count := 0 } else e
  (if i < t.length then t.set i e1 else t ++ [e1], due)
/-- RH_THRESH of HBM_CTRL. -/
def rhThresh (s : State) (d : Nat) : Nat := fld s (hbmCtrl d) 16 12
/-- The row opened in its bank by an activate, where another is open; a neighbour refresh counts. -/
def activate (s : State) (d pc bank row : Nat) : State :=
  let h := hbmOf s d
  if mget 16384 h.openRow (bankKey pc bank) = row then s
  else
    let t := rhActivate (mget [] h.rh pc) bank row (rhThresh s d)
    let s1 := modHbm s d fun h => { h with openRow := mput h.openRow (bankKey pc bank) row, rh := mput h.rh pc t.1 }
    if t.2 then bump s1 (hbmB d + 0x14) 0 32 1 else s1

/-! ## Errors (R316, R318) -/

/-- HBM_ERR_LOG written while it holds no error. -/
def logHbm (s : State) (d : Nat) (ce : Bool) (pc bank row col : Nat) : State :=
  let k := hbmB d + 0x18
  if flag s k 31 then s
  else setRaw s k (BitVec.ofNat 32 (2 ^ 31 + b2n ce * 2 ^ 30 + pc * 2 ^ 24 + bank * 2 ^ 18 + col * 2 ^ 14 + row))
/-- A row's repair due, once. -/
def wantRepair (h : Hbm) (pc bank row : Nat) : Hbm :=
  if h.repairDue.contains (pc, bank, row) || h.repair == some (pc, bank, row) then h
  else { h with repairDue := h.repairDue ++ [(pc, bank, row)] }
/-- The partition that holds a bank on a die. -/
def bankOwner (s : State) (d bank : Nat) : Nat :=
  ((s.parts.find? (fun p => p.2.bankDies.testBit d && p.2.cur.banks.testBit bank)).map (·.1)).getD 0xFF

/-- A corrected error: counted; more than 16 in one second in one pseudo-channel raise a suspect event; four of one row in 24
hours make its repair due and are logged. -/
def correctedErr (s : State) (d pc bank row col : Nat) : State :=
  let now := mltNs s
  let h := hbmOf s d
  let rk := (bank * 64 + pc) * 16384 + row
  let sec := now :: (mget [] h.cePc pc).filter (fun t => decide (now < t + 1000000000))
  let day := now :: (mget [] h.ceRow rk).filter (fun t => decide (now < t + 86400000000000))
  let many := decide (16 < sec.length)
  let rep := decide (4 ≤ day.length)
  let s1 := bump s (hbmB d + 0xC) 0 32 1
  let s2 := modHbm s1 d fun h =>
    { h with cePc := mput h.cePc pc (if many then [] else sec), ceRow := mput h.ceRow rk (if rep then [] else day) }
  let s3 := if many then suspect s2 d 4 else s2
  if rep then logHbm (modHbm s3 d fun h => wantRepair h pc bank row) d true pc bank row col else s3

/-- An uncorrectable error: the line is poisoned, counted, logged and exported, a suspect event raised, its row's repair due. -/
def uncorrectable (s : State) (d pc bank row col : Nat) : State :=
  let s1 := modHbm (bump s (hbmB d + 0x10) 0 32 1) d fun h =>
    wantRepair { h with poison := mput h.poison (hbmKey pc bank row col) true } pc bank row
  let s2 := suspect (logHbm s1 d false pc bank row col) d 1
  faultSig s2
    { fsid := 0x11, kind := 3, die := d, unit := pc, part := bankOwner s d bank, code := 0x50, sev := 0,
      detail := leBytes 4 (raw s2 (hbmB d + 0x18)).toNat }

/-- A read of a place: its status and data, with what the codes find. -/
def readPlace (s : State) (d : Nat) (q : HbmReq) (err : ReadErr) : State × Status × Line :=
  match hbmSee (hbmOf s d) q.id q.key with
  | (true, _) => (s, 0x50, 0)
  | (false, x) =>
    match err with
    | .clean => (s, 0, x)
    | .corrected => (correctedErr s d q.pc q.bank q.row q.col, 0, x)
    | .uncorrectable => (uncorrectable s d q.pc q.bank q.row q.col, 0x50, 0)

/-- A response handed to the group port. -/
def answerHbm (s : State) (d id : Nat) (r : Status × Line) : State :=
  modHbm s d fun h => { h with answers := (id, r.1, r.2) :: h.answers }

/-- An issued command: a read answers; a whole line is written; a part of a line is read, changed and written, and a line that
cannot be corrected stays poisoned and answers E_ECC. -/
def issueHbm (s : State) (d : Nat) (q : HbmReq) (err : ReadErr) : State :=
  if !q.write then
    let r := readPlace s d q err
    answerHbm r.1 d q.id r.2
  else if q.mask = -1 then modHbm s d fun h => hbmStore h q.key q.data q.mask
  else
    let r := readPlace s d q err
    if r.2.1 = 0 then modHbm r.1 d fun h => hbmStore h q.key q.data q.mask else answerHbm r.1 d q.id r.2

/-- HBM_COMMAND_ISSUE (R310 to R312, R314, R316): in a slot of the class, the controller's next command of a pseudo-channel
issues; a channel in training issues none. -/
def execHbmCommandIssue (die : Die) (pc : Fin 64) (training : Bool) (err : ReadErr) (s : State) : Out :=
  .next <|
    let h := hbmOf s die
    if slotsOf s die training = 0 ∨ (flag s (hbmStat die) 30 ∧ fld s (hbmStat die) 16 5 = pc / 2) then s
    else
      let dr := drainNow h (mltNs s) pc training
      match pickHbm h (mltNs s) pc training with
      | none => s
      | some q =>
        let s1 := issueHbm (activate s die pc q.bank q.row) die q err
        modHbm s1 die fun h =>
          settleOrder
            { h with
              pdSince := mput h.pdSince pc (mltNs s)
              queue := h.queue.filter (fun x => x.id != q.id)
              draining := mput h.draining (classKey pc training) dr } pc q.bank

/-! ## Refresh, temperature, power-down (R314, R315) -/

/-- PER_BANK_REFRESH (R314, R315): a bank is refreshed; its row closes and its pseudo-channel leaves power-down. -/
def execPerBankRefresh (die : Die) (pc bank : Fin 64) (s : State) : Out :=
  .next <| modHbm s die fun h =>
    { h with openRow := mdel h.openRow (bankKey pc bank), powerDown := mdel h.powerDown pc, pdSince := mput h.pdSince pc (mltNs s) }

/-- REFRESH_WINDOW_START (R314): every entry of every table is freed. -/
def execRefreshWindowStart (die : Die) (s : State) : Out := .next <| modHbm s die fun h => { h with rh := [] }

/-- STACK_TEMPERATURE_READ (R314): above 85 °C the refresh rate doubles, HBM_STAT.HOT. -/
def execStackTemperatureRead (die : Die) (celsius : Int) (s : State) : Out :=
  .next (setFlag s (hbmStat die) 29 (decide (85 < celsius)))

/-- POWER_DOWN_ENTRY (R315): PD_TIMER, unless 0, has run on a pseudo-channel with no queued entry and no open row. -/
def execPowerDownEntry (die : Die) (pc : Fin 64) (s : State) : Out :=
  .next <|
    let h := hbmOf s die
    let timer := fld s (hbmCtrl die) 0 16
    if timer = 0 ∨ mltNs s < mget 0 h.pdSince pc + 10 * timer ∨ h.queue.any (fun q => q.pc == pc) ∨ h.openRow.any (fun e => e.1 / 64 == pc) then s
    else modHbm s die fun h => { h with powerDown := mput h.powerDown pc true }

/-! ## Scrub, repair, training (R317 to R319) -/

/-- PATROL_SCRUB (R316, R317): the scrub reads one line. -/
def execPatrolScrub (die : Die) (pc bank : Fin 64) (row : Fin 16384) (col : Fin 16) (err : ReadErr) (s : State) : Out :=
  .next <|
    let h := hbmOf s die
    if mget false h.poison (hbmKey pc bank row col) then s
    else match err with
      | .clean => s
      | .corrected => correctedErr s die pc bank row col
      | .uncorrectable => uncorrectable s die pc bank row col

/-- The spare group of a row: its pseudo-channel, stack ID and bank group (R318). -/
def spareKey (pc bank : Nat) : Nat := pc * 16 + bank / 4

/-- The module manager starts the repair of the first row that is due (R318 step 1), unless the row's channel is in training
(R320); without a spare row the row stays in service. -/
def startRepair (s : State) (d : Nat) : State :=
  let h := hbmOf s d
  match h.repair, h.repairDue with
  | none, (pc, b, r) :: rest =>
    if flag s (hbmStat d) 30 ∧ fld s (hbmStat d) 16 5 = pc / 2 then s
    else if mget 0 h.softUsed (spareKey pc b) = 0 then
      setFlag (modHbm s d fun h => { h with repair := some (pc, b, r), repairDue := rest }) (hbmB d + 0x1C) 31 true
    else
      faultSig (bump (modHbm s d fun h => { h with repairDue := rest }) (hbmB d + 0x1C) 0 8 1)
        { fsid := 0x10, kind := 3, die := d, unit := pc, part := bankOwner s d b, sev := 2,
          detail := leBytes 4 pc ++ leBytes 4 b ++ leBytes 4 r }
  | _, _ => s

/-- Steps 2 to 4 of R318: the 16 lines read and written back, lines that cannot be corrected poisoned, the soft repair applied
and logged, the bank released. -/
def endRepair (s : State) (d : Nat) (bad : BitVec 16) : State :=
  match (hbmOf s d).repair with
  | none => s
  | some (pc, b, r) =>
    let s1 := modHbm s d fun h =>
      { h with
        repair := none, softUsed := mput h.softUsed (spareKey pc b) 1
        poison := (upTo 16).foldl (fun a c => if bad.getLsbD c then mput a (hbmKey pc b r c) true else a) h.poison
        openRow := mdel h.openRow (bankKey pc b) }
    setFlag (bump (modHub s1 fun u => { u with repairs := u.repairs ++ [(d, pc, b, r)] }) (hbmB d + 0x1C) 16 8 1)
      (hbmB d + 0x1C) 31 false

/-- ROW_REPAIR (R318, R320): the module manager starts a repair, or ends the one under way with the lines whose read could not
be corrected. -/
def execRowRepair (die : Die) (done : Option (BitVec 16)) (s : State) : Out :=
  .next (match done with | none => startRepair s die | some bad => endRepair s die bad)

/-- A die's logged repairs at its power-up (R318; 11 R274 step 7): each becomes a hard repair where its bank group still has one; another is
applied again as a soft one (DEDUCED, note 24). -/
def hardRepairs (s : State) (d : Nat) : State :=
  (s.hub.repairs.filter (fun e => e.1 == d)).foldl (fun (a : State) e =>
    let key := spareKey e.2.1 e.2.2.1
    if a.hub.hardRepairs.any (fun x => x.1 == d && spareKey x.2.1 x.2.2.1 == key) then
      bump (modHbm a d fun h => { h with softUsed := mput h.softUsed key 1 }) (hbmB d + 0x1C) 16 8 1
    else
      bump (modHub a fun u => { u with repairs := u.repairs.filter (· != e), hardRepairs := u.hardRepairs ++ [e] }) (hbmB d + 0x1C) 8 8 1)
    (setFld s (hbmB d + 0x1C) 8 16 0)

/-- CHANNEL_TRAINING (R319): the next channel in increasing number starts its training, or ends it: at 7.68 Gb/s, or left at
3.2 Gb/s with SLOWCH. -/
def execChannelTraining (die : Die) (done : Option Bool) (s : State) : Out :=
  .next <|
    let k := hbmStat die
    let h := hbmOf s die
    match done with
    | none =>
      if flag s k 30 ∨ stageOf s < 2 ∨ 32 ≤ h.trained ∨ h.repair.any (fun r => r.1 / 2 == h.trained) then s
      else setFld (setFlag s k 30 true) k 16 5 h.trained
    | some ok =>
      if !flag s k 30 then s
      else
        let c := fld s k 16 5
        let s1 := setFlag (modHbm s die fun h => { h with trained := c + 1, fast := if ok then mput h.fast c true else h.fast }) k 30 false
        if ok then setFlag s1 k 31 (decide ((hbmOf s1 die).fast.length = 32)) else setFlag s1 k 28 true

end Sys2Proof.Machine
end

