-- ==== Sys2Proof/Machine/Words.lean ====
section
/-! DEFINITION. The words of the tile sequencer (03, 04, 05): each row names a die, a physical tile and the 56 bits below the
opcode; the word issues where it is the one at the tile's PC. -/

namespace Sys2Proof.Machine

/-- NOP: nothing (R117). -/
def execNop (die : Die) (pt : PT) (w : BitVec 56) (s : State) : Out := runWord 0x00 (fun _ => issueNop) die pt w s
/-- ADD: D := A + B modulo 2^32 (R117). -/
def execAdd (die : Die) (pt : PT) (w : BitVec 56) (s : State) : Out := runWord 0x01 (fun _ => issueAdd) die pt w s
/-- SUB: D := A - B modulo 2^32 (R117). -/
def execSub (die : Die) (pt : PT) (w : BitVec 56) (s : State) : Out := runWord 0x02 (fun _ => issueSub) die pt w s
/-- AND: bitwise AND (R117). -/
def execAnd (die : Die) (pt : PT) (w : BitVec 56) (s : State) : Out := runWord 0x03 (fun _ => issueAnd) die pt w s
/-- OR: bitwise OR (R117). -/
def execOr (die : Die) (pt : PT) (w : BitVec 56) (s : State) : Out := runWord 0x04 (fun _ => issueOr) die pt w s
/-- XOR: bitwise XOR (R117). -/
def execXor (die : Die) (pt : PT) (w : BitVec 56) (s : State) : Out := runWord 0x05 (fun _ => issueXor) die pt w s
/-- SHL: shift left by B mod 32 (R117). -/
def execShl (die : Die) (pt : PT) (w : BitVec 56) (s : State) : Out := runWord 0x06 (fun _ => issueShl) die pt w s
/-- SHR: logical shift right (R117). -/
def execShr (die : Die) (pt : PT) (w : BitVec 56) (s : State) : Out := runWord 0x07 (fun _ => issueShr) die pt w s
/-- SRA: arithmetic shift right (R117). -/
def execSra (die : Die) (pt : PT) (w : BitVec 56) (s : State) : Out := runWord 0x08 (fun _ => issueSra) die pt w s
/-- MUL: low 32 bits of A × B (R117). -/
def execMul (die : Die) (pt : PT) (w : BitVec 56) (s : State) : Out := runWord 0x09 (fun _ => issueMul) die pt w s
/-- SLT: signed set-less-than (R117). -/
def execSlt (die : Die) (pt : PT) (w : BitVec 56) (s : State) : Out := runWord 0x0A (fun _ => issueSlt) die pt w s
/-- LI: D := IMM (R117). -/
def execLi (die : Die) (pt : PT) (w : BitVec 56) (s : State) : Out := runWord 0x0B (fun _ => issueLi) die pt w s
/-- MFV: one lane into a scalar register (R117). -/
def execMfv (die : Die) (pt : PT) (w : BitVec 56) (s : State) : Out := runWord 0x0C (fun _ => issueMfv) die pt w s
/-- BR: branch with two delay slots (R122). -/
def execBr (die : Die) (pt : PT) (w : BitVec 56) (s : State) : Out := runWord 0x20 (fun _ => issueBr) die pt w s
/-- REP: zero-overhead repeat (R124 to R126). -/
def execRep (die : Die) (pt : PT) (w : BitVec 56) (s : State) : Out := runWord 0x22 (fun _ => issueRep) die pt w s
/-- WLCH: wait for a launch (R131). -/
def execWlch (die : Die) (pt : PT) (w : BitVec 56) (s : State) : Out := runWord 0x23 (fun _ => issueWlch) die pt w s
/-- END: end of the kernel (R147). -/
def execEnd (die : Die) (pt : PT) (w : BitVec 56) (s : State) : Out := runWord 0x24 issueEnd die pt w s
/-- ALLOC: request an allocation (04 R104). -/
def execAlloc (die : Die) (pt : PT) (w : BitVec 56) (s : State) : Out := runWord 0x30 (fun _ => issueAlloc) die pt w s
/-- FREE: free an allocation (04 R104). -/
def execFree (die : Die) (pt : PT) (w : BitVec 56) (s : State) : Out := runWord 0x31 (fun _ => issueFree) die pt w s
/-- WB: write back a region or lines (R116, R145, R146). -/
def execWb (die : Die) (pt : PT) (w : BitVec 56) (s : State) : Out := runWord 0x32 issueWb die pt w s
/-- CRD: a Cistern row into a vector register (R142). -/
def execCrd (die : Die) (pt : PT) (w : BitVec 56) (s : State) : Out := runWord 0x33 (fun _ => issueCrd) die pt w s
/-- CWR: vector lanes into a Cistern row (R143). -/
def execCwr (die : Die) (pt : PT) (w : BitVec 56) (s : State) : Out := runWord 0x34 (fun _ => issueCwr) die pt w s
/-- MX: matrix instruction (03 R81 to R83). -/
def execMx (die : Die) (pt : PT) (w : BitVec 56) (s : State) : Out := runWord 0x40 (fun _ => issueMx) die pt w s
/-- WLD: load the shadow weight block (03 R64, R65). -/
def execWld (die : Die) (pt : PT) (w : BitVec 56) (s : State) : Out := runWord 0x41 (fun _ => issueWld) die pt w s
/-- EW: element-wise array instruction (03 R84 to R86). -/
def execEw (die : Die) (pt : PT) (w : BitVec 56) (s : State) : Out := runWord 0x42 (fun _ => issueEw) die pt w s
/-- VADD: R135. -/
def execVadd (die : Die) (pt : PT) (w : BitVec 56) (s : State) : Out := runWord 0x60 (fun _ => issueVadd) die pt w s
/-- VSUB: R135. -/
def execVsub (die : Die) (pt : PT) (w : BitVec 56) (s : State) : Out := runWord 0x61 (fun _ => issueVsub) die pt w s
/-- VMUL: R135. -/
def execVmul (die : Die) (pt : PT) (w : BitVec 56) (s : State) : Out := runWord 0x62 (fun _ => issueVmul) die pt w s
/-- VFMA: fused multiply-add (R117). -/
def execVfma (die : Die) (pt : PT) (w : BitVec 56) (s : State) : Out := runWord 0x63 (fun _ => issueVfma) die pt w s
/-- VMIN: R137. -/
def execVmin (die : Die) (pt : PT) (w : BitVec 56) (s : State) : Out := runWord 0x64 (fun _ => issueVmin) die pt w s
/-- VMAX: R137. -/
def execVmax (die : Die) (pt : PT) (w : BitVec 56) (s : State) : Out := runWord 0x65 (fun _ => issueVmax) die pt w s
/-- VCMP: per-lane comparison into a mask (R137). -/
def execVcmp (die : Die) (pt : PT) (w : BitVec 56) (s : State) : Out := runWord 0x66 (fun _ => issueVcmp) die pt w s
/-- VSEL: selection by a mask (R117). -/
def execVsel (die : Die) (pt : PT) (w : BitVec 56) (s : State) : Out := runWord 0x67 (fun _ => issueVsel) die pt w s
/-- CMUL: complex multiply (R136). -/
def execCmul (die : Die) (pt : PT) (w : BitVec 56) (s : State) : Out := runWord 0x68 (fun _ => issueCmul) die pt w s
/-- VMAXI: running maximum with index (R138). -/
def execVmaxi (die : Die) (pt : PT) (w : BitVec 56) (s : State) : Out := runWord 0x69 (fun _ => issueVmaxi) die pt w s
/-- VMINI: running minimum with index (R138). -/
def execVmini (die : Die) (pt : PT) (w : BitVec 56) (s : State) : Out := runWord 0x6A (fun _ => issueVmini) die pt w s
/-- RMAXI: maximum over the lanes (R138). -/
def execRmaxi (die : Die) (pt : PT) (w : BitVec 56) (s : State) : Out := runWord 0x6B (fun _ => issueRmaxi) die pt w s
/-- RMINI: minimum over the lanes (R138). -/
def execRmini (die : Die) (pt : PT) (w : BitVec 56) (s : State) : Out := runWord 0x6C (fun _ => issueRmini) die pt w s
/-- VRSUM: lane sum in the fixed tree (R139). -/
def execVrsum (die : Die) (pt : PT) (w : BitVec 56) (s : State) : Out := runWord 0x6D (fun _ => issueVrsum) die pt w s
/-- VFN: EXP2, LOG2, RCP, RSQ (R140). -/
def execVfn (die : Die) (pt : PT) (w : BitVec 56) (s : State) : Out := runWord 0x6E (fun _ => issueVfn) die pt w s
/-- VCVT: round to an output format (R141). -/
def execVcvt (die : Die) (pt : PT) (w : BitVec 56) (s : State) : Out := runWord 0x6F (fun _ => issueVcvt) die pt w s
/-- VIADD: INT32 add (R117). -/
def execViadd (die : Die) (pt : PT) (w : BitVec 56) (s : State) : Out := runWord 0x70 (fun _ => issueViadd) die pt w s
/-- VISUB: INT32 subtract (R117). -/
def execVisub (die : Die) (pt : PT) (w : BitVec 56) (s : State) : Out := runWord 0x71 (fun _ => issueVisub) die pt w s
/-- VIMUL: INT32 multiply (R117). -/
def execVimul (die : Die) (pt : PT) (w : BitVec 56) (s : State) : Out := runWord 0x72 (fun _ => issueVimul) die pt w s
/-- VLOGIC: AND, OR, XOR (R117). -/
def execVlogic (die : Die) (pt : PT) (w : BitVec 56) (s : State) : Out := runWord 0x73 (fun _ => issueVlogic) die pt w s
/-- VSHIFT: shifts (R117). -/
def execVshift (die : Die) (pt : PT) (w : BitVec 56) (s : State) : Out := runWord 0x74 (fun _ => issueVshift) die pt w s
/-- VPERM: permutations (R117). -/
def execVperm (die : Die) (pt : PT) (w : BitVec 56) (s : State) : Out := runWord 0x75 (fun _ => issueVperm) die pt w s
/-- VBCAST: a scalar into every lane (R117). -/
def execVbcast (die : Die) (pt : PT) (w : BitVec 56) (s : State) : Out := runWord 0x76 (fun _ => issueVbcast) die pt w s
/-- VLD: load from the operand buffer (R141). -/
def execVld (die : Die) (pt : PT) (w : BitVec 56) (s : State) : Out := runWord 0x77 (fun _ => issueVld) die pt w s
/-- VST: convert and store (R141). -/
def execVst (die : Die) (pt : PT) (w : BitVec 56) (s : State) : Out := runWord 0x78 (fun _ => issueVst) die pt w s

end Sys2Proof.Machine
end

