-- ==== Sys2Proof/Machine/Fabric.lean ====
section
/-! DEFINITION. What a Mortar fabric computes: logic cells, clusters and the carry chain, set-reset and preloaded contents, block-memory
rows (10 R241 to R246, R251 to R253). -/

namespace Sys2Proof.Machine

/-! ## Cells and clusters (R241, R242) -/

/-- Logic cells of the static shell, of a region and of the hub fabric (R243). -/
def shellCells : Nat := 32768
/-- Logic cells of a region (R243). -/
def regionCells : Nat := 61440
/-- Logic cells of the hub fabric (R243). -/
def hubCells : Nat := 65536
/-- Block memories of a region (R243). -/
def regionMemories : Nat := 120
/-- Block memories of a static shell and of the hub fabric (R243). -/
def shellMemories : Nat := 64

/-- The cluster of a cell: sixteen cells form one (R242). -/
def clusterOf (cell : Nat) : Nat := cell / 16
/-- Whether the carry chain begins at a cell: the first cell of the lowest cluster of a column (R242). A fabric's cells are numbered from 0, so the chain
of a region never comes from another. -/
def chainBegins (cell : Nat) : Bool := cell % 16 == 0 && clusterOf cell % max 1 Config.columnClusters == 0
/-- The entry of a truth table that four inputs select (R241; the first input is the lowest bit) (DESIGN CHOICE, note 144). -/
def tableOut (truth : BitVec 16) (i0 i1 i2 i3 : Bool) : Bool := truth.getLsbD (i0.toNat + 2 * i1.toNat + 4 * i2.toNat + 8 * i3.toNat)
/-- The carryOf of three bits, the carry of a one-bit sum. -/
def carryOf (a b c : Bool) : Bool := (a && b) || (a && c) || (b && c)

/-- What a fabric's nets are read from: its cells, the value of each flip-flop, the memory bits and shell signals that reach it. -/
structure FabricView where
  cells : Nat → Cell
  flops : Nat → Bool
  memory : Nat → Bool → Nat → Bool
  shell : Nat → Bool

/-- The value of a net (R241, R242) as an input of a cell, or, of `.carry`, of the carry that reaches the cell: of a cell above the bottom of its chain the carry
of the sum of the first two inputs of the cell below (DEDUCED, note 144). A loop of tables has no stated value. -/
def netVal (v : FabricView) : Nat → Nat → Net → Bool
  | 0, cell, _ => Config.loopValue cell
  | _ + 1, _, .const b => b
  | _ + 1, _, .flop c => v.flops c
  | _ + 1, _, .memory m p b => v.memory m p b
  | _ + 1, _, .shell p => v.shell p
  | f + 1, _, .table c =>
    let x := v.cells c
    tableOut x.truth (netVal v f c x.in0) (netVal v f c x.in1) (netVal v f c x.in2) (netVal v f c x.in3)
  | f + 1, c, .carry =>
    if chainBegins c then false
    else
      let x := v.cells (c - 1)
      carryOf (netVal v f (c - 1) x.in0) (netVal v f (c - 1) x.in1) (netVal v f (c - 1) .carry)

/-- The depth of nets a fabric can have without a loop: a table and a carry for each cell. -/
def netDepth (n : Nat) : Nat := 2 * n + 2

/-- A cell's flip-flop after a cycle of `clk` (R241): its set or reset first, then its clock enable; on another clock it keeps its value. -/
def flopNext (v : FabricView) (n cell : Nat) (clk : Fin 3) : Bool :=
  let x := v.cells cell
  let val (t : Net) : Bool := netVal v (netDepth n) cell t
  if x.clock ≠ clk then v.flops cell
  else if val x.ctrl then x.sets
  else if val x.enable then val (.table cell)
  else v.flops cell

/-- The value of a flip-flop, by those that are off their initial values. -/
def flopVal (cells : Nat → Cell) (flipped : SMap Bool) (cell : Nat) : Bool := (cells cell).init != mget false flipped cell

/-- A fabric of `n` cells after a cycle of one of its clocks: the flip-flops off their initial values. While set-reset is asserted every flip-flop holds its
initial value (R245). -/
def fabricCycle (n : Nat) (cells : Nat → Cell) (setReset : Bool) (memory : Nat → Bool → Nat → Bool) (shell : Nat → Bool) (clk : Fin 3)
    (flipped : SMap Bool) : SMap Bool :=
  if setReset then []
  else
    let v : FabricView := { cells := cells, flops := flopVal cells flipped, memory := memory, shell := shell }
    (upTo n).filterMap (fun c => if flopNext v n c clk != (cells c).init then some (c, true) else none)

/-! ## Block memories (R246, R251 to R253) -/

/-- Whether a memory keeps SECDED: only in the 512 × 72 shape (R253). -/
def BramCfg.protected_ (c : BramCfg) : Bool := c.secded && c.a == .x72 && c.b == .x72
/-- The row and the bit of it at which a port's word begins. -/
def wordAt (mem : Nat) (sh : BramShape) (word : Nat) : Nat × Nat := (mem * 512 + word * sh.width / 72, word * sh.width % 72)
/-- The low `w` bits of a word. -/
def lowBits (w : Nat) (x : BitVec 72) : BitVec 72 := BitVec.ofNat 72 (x.toNat % 2 ^ w)
/-- A row with its check bits: 64 data bits and 8 check bits where the memory is protected (R253). -/
def checked (c : BramCfg) (x : BitVec 72) : BitVec 72 :=
  if c.protected_ then (Config.checkBits (x.setWidth 64) ++ x.setWidth 64).setWidth 72 else x
/-- The word of a port. -/
def wordRead (m : SMap (BitVec 72)) (mem : Nat) (sh : BramShape) (word : Nat) : BitVec 72 :=
  lowBits sh.width (mget 0 m (wordAt mem sh word).1 >>> (wordAt mem sh word).2)
/-- A word written through a port. -/
def wordWrite (m : SMap (BitVec 72)) (c : BramCfg) (mem : Nat) (sh : BramShape) (word : Nat) (v : BitVec 72) : SMap (BitVec 72) :=
  let at_ := wordAt mem sh word
  let old := mget 0 m at_.1
  mset 0 m at_.1 (checked c (old ^^^ (lowBits sh.width ((old >>> at_.2) ^^^ v) <<< at_.2)))
/-- Whether two ports' words share a bit: the same word (R252). -/
def sameWord (a : BramShape) (wa : Nat) (b : BramShape) (wb : Nat) : Bool :=
  decide (wa * a.width < (wb + 1) * b.width) && decide (wb * b.width < (wa + 1) * a.width)

/-- The configuration of a fabric's block memories in a payload. -/
def memoryConfigs (p : List Byte) (n : Nat) : SMap BramCfg := (upTo n).map (fun m => (m, Config.bramCfg p m))
/-- Their contents as the payload preloads them while set-reset is asserted; a memory it leaves undefined is written with zeros (R246). -/
def preloadOf (p : List Byte) (n : Nat) : SMap (BitVec 72) :=
  ((upTo n).filter (Config.preloads p)).foldl
    (fun a m => (upTo 512).foldl (fun a r => mset 0 a (m * 512 + r) (checked (Config.bramCfg p m) (Config.preload p m r))) a) []

/-- A shell or the hub's fabric configured from its payload and released (R245, R246): its own set-reset net no longer asserted. -/
def fabricOf (p : List Byte) : Fabric :=
  { configured := true, payload := p, setReset := false, flipped := [], bramCfg := memoryConfigs p shellMemories, bram := preloadOf p shellMemories }

end Sys2Proof.Machine
end

