-- ==== Sys2Proof/Machine/LinkPkt.lean ====
section
/-! DEFINITION. Remote requests and their answers over the Vidonlink: tags, COPY and MESSAGE, requests served, forwarded or refused,
management packets, surveys (14 R337 to R343, R362; 16 R407, R411). -/

namespace Sys2Proof.Machine

/-! ## Packets on their way (R337, R341) -/

/-- A packet handed to a die of this module over plane 3. -/
def loopPkt (s : State) (d : Nat) (p : Pkt) : State := modPort s d fun t => { t with loop := t.loop ++ [pktFlits p] }
/-- A packet sent by die `d`: to a die of this module, or out of the port its route names, with one hop more; none where it is not
forwarded. A port being retired takes no new request (R356). -/
def routePkt (s : State) (d : Nat) (p : Pkt) : Option State :=
  if p.dmod = modId s d then some (loopPkt s p.ddie p)
  else ((routeOf s d p.dmod p.hops).filter (fun n => 3 < p.typ || !(portOf s n).refuse)).map (fun n =>
    let q := { p with hops := p.hops + 1 }
    let s1 := queuePkt s n q
    if p.typ ≤ 3 then modPort s1 n fun t => { t with relayed := t.relayed ++ [lineOf (pktHeader q)] } else s1)
/-- The answer to a request: its type, the way back, the tag it carries (R337, R338). -/
def answerOf (s : State) (d : Nat) (q : Pkt) (st : Status) (data : List Line) : Pkt :=
  { typ := if q.typ = 1 then 4 else 5, dmod := q.smod, ddie := q.sdie, sdie := q.ddie, smod := modId s d, cls := q.cls, part := q.part
    tag := q.tag, gen := q.gen, lines := q.lines, status := st.toNat, addr := q.addr, payload := if st = 0 then data else [] }
/-- A request answered from die `d`; an answer without a route is discarded and counted. -/
def respond (s : State) (d : Nat) (q : Pkt) (st : Status) (data : List Line) : State :=
  (routePkt s d (answerOf s d q st data)).getD (noRoute s d)

/-! ## Tags (R343) -/

/-- A free tag of a die's requester, the next in turn. -/
def freeTag (p : Port) : Option Nat :=
  (((upTo 4096).map (fun i => (p.nextTag + i) % 4096)).find? (fun t => !mhas p.tags t))
/-- A request issued by die `d` under a tag; none while all 4,096 are live. One that is not forwarded is answered at once with
E_LINK_LOST by this module (R341). -/
def issueReq (s : State) (d : Nat) (p : Pkt) (r : TagRec) : Option (State × Bool) :=
  let t := portOf s d
  match freeTag t with
  | none => none
  | some n =>
    let g := mget 0 t.gens n
    let q := { p with tag := n, gen := g, sdie := d, smod := modId s d }
    let port := if q.dmod = modId s d then d else fld s (vlR d (0x400 + 4 * q.dmod)) 0 4
    match routePkt s d q with
    | none => some (s, false)
    | some s1 => some (modPort s1 d fun t =>
        { t with tags := mput t.tags n { r with gen := g, issued := mltNs s, port := port }, nextTag := (n + 1) % 4096 }, true)
/-- A tag given up: its generation moves on. -/
def retireTag (s : State) (d n : Nat) : State :=
  modPort s d fun t => { t with tags := mdel t.tags n, gens := mput t.gens n ((mget 0 t.gens n + 1) % 16) }
/-- A live request ended with a code and no answer. -/
def failTag (s : State) (d n : Nat) (code : BitVec 8) : State :=
  match mfind (portOf s d).tags n with
  | none => s
  | some r =>
    let s1 := retireTag s d n
    match r.op with
    | some k => endOp s1 k code id
    | none => s1

/-- TRANSACTION_TIMEOUT (R343, R363): a request has waited VL_TIMEOUT.MS: it ends with E_TIMEOUT, or with E_LINK_LOST where its
port is lost. -/
def execTransactionTimeout (die : Die) (tag : Fin 4096) (s : State) : Out :=
  .next <|
    match mfind (portOf s die).tags tag with
    | none => s
    | some r =>
      if r.issued + timeoutNs s die ≤ mltNs s then failTag s die tag (if (portOf s r.port).phase = .lost then 0x12 else 0x11) else s

/-! ## COPY and MESSAGE (16 R407, R411) -/

/-- LINES of a COPY. -/
def cpLines (o : Op) : Nat := dF o 48 4
/-- SKIND or DKIND of a COPY: 0 host, 1 local, 2 remote. -/
def cpKind (o : Op) (dst : Bool) : Nat := bitsOf (dF o 52 1) (if dst then 2 else 0) 2
/-- SADDR or DADDR. -/
def cpAddr (o : Op) (dst : Bool) : Nat := dF o (if dst then 40 else 32) 8
/-- SPOS or DPOS. -/
def cpPos (o : Op) (dst : Bool) : Nat := byteAt o.desc (if dst then 54 else 53)
/-- The die of a local address of a COPY. -/
def cpDie (s : State) (o : Op) (dst : Bool) : Option Nat := (partOf s o.part).bind (fun p => spanDie p (cpPos o dst))
/-- The class of an operation's requests: that of its partition (12 R289). -/
def opClass (s : State) (o : Op) : Nat := match partOf s o.part with | some p => b2n p.cur.training | none => 0
/-- The header of a remote request of a COPY for `n` lines from line `i` of its range. -/
def cpPkt (s : State) (o : Op) (dst : Bool) (i n : Nat) (data : List Line) : Pkt :=
  { typ := if dst then 2 else 1, dmod := byteAt o.desc 55, ddie := cpPos o dst % 16, sdie := 0, smod := 0, cls := opClass s o
    part := byteAt o.desc 56 % 64, lines := n, addr := cpAddr o dst + i, payload := data }
/-- Lines of a COPY known to be written; the last ones end it. -/
def cpDone (s : State) (k n : Nat) : State :=
  let s1 := modOp s k fun o => { o with linesDone := o.linesDone + n }
  match opOf s1 k with
  | some o => if o.linesDone = cpLines o then finishOp s1 k else s1
  | none => s1
/-- Lines of a COPY put where they go, `ms` those of a lock-step mirror's own run: `none` while no tag is free for a remote write. -/
def cpStore (s : State) (k i : Nat) (o : Op) (xs : List Line) (ms : List Byte) : Option State :=
  let a := cpAddr o true + i
  match cpKind o true with
  | 0 => some (cpDone (if o.discard then s else hostWrite s (cpAddr o true + 64 * i) (xs.flatMap lineBytes)) k xs.length)
  | 1 =>
    match cpDie s o true with
    | none => some (endOp s k 0x10 id)
    | some d =>
      let r := writeBoth s o.part d a 0 (xs.flatMap lineBytes) ms
      some (if r.1 = 0 then cpDone r.2 k xs.length else endAddr r.2 k r.1 a d)
  | _ =>
    (issueReq s o.runDie (cpPkt s o true i xs.length xs) ⟨0, 0, 0, some k, i, xs.length, true, false⟩).map
      (fun r => if r.2 then r.1 else endOp r.1 k 0x12 id)
/-- The next lines of a COPY, at most 64: read, or asked for, and sent on. -/
def cpStep (s : State) (k n : Nat) (o : Op) : State :=
  let i := o.linesSent
  let n := min (min n 64) (cpLines o - i)
  let sent (s : State) : State := modOp s k fun o => { o with linesSent := i + n }
  if n = 0 then s
  else match cpKind o false with
    | 0 =>
      let b := hostRead s (cpAddr o false + 64 * i) (64 * n)
      ((cpStore s k i o (toLines b) b).map sent).getD s
    | 1 =>
      match cpDie s o false with
      | none => endOp s k 0x10 id
      | some d =>
        let r := readLines s o.part d (cpAddr o false + i) n
        let own := r.2.flatMap lineBytes
        if r.1 = 0 then ((cpStore s k i o r.2 (mirrorBytes s o.part d (cpAddr o false + i) 0 (64 * n) own)).map sent).getD s else endAddr s k r.1 (cpAddr o false + i) d
    | _ =>
      match issueReq s o.runDie (cpPkt s o false i n []) ⟨0, 0, 0, some k, i, n, false, false⟩ with
      | none => s
      | some r => if r.2 then sent r.1 else endOp r.1 k 0x12 id

/-- COPY (R407, R415): a ready operation is dispatched; each time the next `lines` of its lines, at most 64, are moved. -/
def execCopy (ctx : Fin 4096) (express : Bool) (opseq : W32) (lines : Nat) (s : State) : Out :=
  .next <|
    match named s ctx express opseq with
    | none => s
    | some (k, o) =>
      if opcOf o ≠ 5 then s
      else
        let s1 := if mayDispatch s o then startOp s k o.home else s
        match opOf s1 k with
        | none => s1
        | some o => if o.phase = .running ∧ !o.finished then cpStep s1 k lines o else s1

/-- MESSAGE (R411): a ready operation reads its lines on the home die and sends them in one packet. -/
def execMessage (ctx : Fin 4096) (express : Bool) (opseq : W32) (s : State) : Out :=
  .next <|
    match named s ctx express opseq with
    | none => s
    | some (k, o) =>
      let fresh := mayDispatch s o
      if opcOf o ≠ 6 ∨ !(fresh || (o.phase == .running && o.linesSent == 0)) then s
      else
        let s1 := if fresh then startOp s k o.home else s
        let d := if fresh then o.home else o.runDie
        let n := byteAt o.desc 43 + 1
        let r := readLines s1 o.part o.home (dF o 32 4) n
        if r.1 ≠ 0 then endAddr s1 k r.1 (dF o 32 4) o.home
        else
          let p : Pkt :=
            { typ := 3, dmod := byteAt o.desc 40, ddie := byteAt o.desc 41, sdie := d, smod := 0, cls := opClass s o
              part := byteAt o.desc 42, lines := n, addr := dF o 36 4, payload := r.2 }
          match issueReq s1 d p ⟨0, 0, 0, some k, 0, n, true, true⟩ with
          | none => s1
          | some q => if q.2 then modOp q.1 k fun o => { o with linesSent := n } else endOp q.1 k 0x12 id

/-! ## Requests served (R342) -/

/-- Whether the Runnel's plane 3 reaches the bank sets and the Basin of a die: a memory bridge's Sluice is open (12 R286, R293). -/
def bridgeOpen (s : State) (d : Nat) : Bool := [20, 21, 22, 23].any (fun n => (sluiceOf s d (136 + n)).phase == .opened)
/-- Why a destination die refuses a request before any target sees it (DEDUCED, note 92). -/
def refusal (s : State) (q : Pkt) : Status :=
  match partOf s q.part with
  | none => 0x20
  | some p =>
    if !p.cur.peers.contains q.smod then 0x20
    else if !p.cur.span.testBit q.ddie then 0x22
    else if (upTo q.lines).any (fun i => isDoorway p (q.addr + i) && q.typ != 1 || place p q.part (q.addr + i) == .refused) then 0x22
    else if !dieUp s q.ddie || !bridgeOpen s q.ddie then 0x10
    else 0
/-- An uncorrectable error met by a remote request is a suspect event of the die (09 R219). -/
def eccSuspect (s : State) (d : Nat) (code : Status) : State := if code = 0x50 then suspect s d 1 else s
/-- A read request served on its die. -/
def serveRead (s : State) (d : Nat) (q : Pkt) : State :=
  match refusal s q with
  | 0 => let r := readLines s q.part q.ddie q.addr q.lines; respond (eccSuspect s q.ddie r.1) d q r.1 r.2
  | e => respond s d q e []
/-- A write request served on its die. -/
def serveWrite (s : State) (d : Nat) (q : Pkt) : State :=
  match refusal s q with
  | 0 => let r := writeLines s q.part q.ddie q.addr q.payload; respond (eccSuspect r.2 q.ddie r.1) d q r.1 []
  | e => respond s d q e []
/-- A message served (R411): its lines are written and its record waits for a slot of the partition's message context; it is
acknowledged once the record is written (DEDUCED, note 83). -/
def serveMessage (s : State) (d : Nat) (q : Pkt) : State :=
  let m := ((partOf s q.part).bind (fun p => p.cur.msgCtx)).filter (fun n => (tcOf s n).phase == .active)
  match refusal s q, m with
  | 0, some n =>
    let r := writeLines s q.part q.ddie q.addr q.payload
    if r.1 = 0 then modTc r.2 n fun t => { t with waiting := t.waiting ++ [⟨q.addr, q.smod, q.sdie, q.lines, q.ddie, q.cls, q.part, q.tag, q.gen⟩] }
    else respond (eccSuspect r.2 q.ddie r.1) d q r.1 []
  | 0, none => respond s d q 0x10 []
  | e, _ => respond s d q e []

/-- The packet a command takes at a die: at the front of a virtual lane of its port, or of its queue from this module. -/
def takePkt (s : State) (d vl typ : Nat) (loc : Bool) : Option (Pkt × State) :=
  if loc then
    match (portOf s d).loop with
    | f :: r =>
      let h := pktOf (f.headD 0)
      let b := f.flatMap lineBytes
      let p := { h with payload := toLines ((b.drop 16).take (64 * payloadLines h)) }
      if p.typ = typ then some (p, modPort s d fun t => { t with loop := r }) else none
    | [] => none
  else match headPkt s d vl with
    | some p => if p.typ = typ then some (p, popFlits s d vl (pktLen p)) else none
    | none => none

/-- A request at a die (R341): for this module it is served; else forwarded, or answered with E_LINK_LOST where it stops. New
requests of a port that is being retired are refused with it too (R356). -/
def takeRequest (die : Nat) (typ : Nat) (loc : Bool) (f : State → Nat → Pkt → State) (s : State) : Out :=
  .next <|
    match takePkt s die 2 typ loc with
    | none => s
    | some (p, s1) =>
      if !loc && (portOf s die).refuse then respond s1 die p 0x12 []
      else if loc ∨ p.dmod = modId s die then f s1 die p
      else (routePkt s1 die p).getD (respond s1 die p 0x12 [])

/-- READ_REQUEST (R338, R341, R342): at a die, from its port or from this module. -/
def execReadRequest (die : Die) (fromModule : Bool) (s : State) : Out := takeRequest die 1 fromModule serveRead s
/-- WRITE_REQUEST (R338, R341, R342). -/
def execWriteRequest (die : Die) (fromModule : Bool) (s : State) : Out := takeRequest die 2 fromModule serveWrite s
/-- MESSAGE_PACKET (R338, R341, R342; 16 R411). -/
def execMessagePacket (die : Die) (fromModule : Bool) (s : State) : Out := takeRequest die 3 fromModule serveMessage s

/-! ## Answers (R343) -/

/-- The answer of a live request taken by its operation: a COPY's lines go on or are counted, a MESSAGE ends. -/
def applyAnswer (s : State) (d : Nat) (r : TagRec) (p : Pkt) : Option State :=
  match r.op with
  | none => some s
  | some k =>
    match opOf s k with
    | none => some s
    | some o =>
      if o.phase ≠ .running ∨ o.runDie ≠ d then some s
      else if p.status ≠ 0 then some (endOp s k (BitVec.ofNat 8 p.status) fun i => { i with xaddr := if p.status = 0x22 then BitVec.ofNat 32 p.addr else i.xaddr })
      else if r.message then some (finishOp s k)
      else if r.write then some (cpDone s k r.lines)
      else cpStore s k r.line o (p.payload.take r.lines) ((p.payload.take r.lines).flatMap lineBytes)
/-- An answer at a die of this module: matched with its live request, or late and counted. -/
def takeAnswer (s : State) (p : Pkt) : Option State :=
  let d := p.ddie
  match mfind (portOf s d).tags p.tag with
  | some r =>
    if r.gen = p.gen ∧ (p.typ = 4) = !r.write ∧ mltNs s < r.issued + timeoutNs s d then
      applyAnswer (modPort s d fun t => { t with tags := mdel t.tags p.tag }) d r p
    else some (bump s (vlR d 0x14) 8 12 1)
  | none => some (bump s (vlR d 0x14) 8 12 1)
/-- A relayed request that its answer has passed. -/
def unrelay (s : State) (d : Nat) (p : Pkt) : State :=
  modPort s d fun t => { t with relayed := delFirst (fun h => let q := pktOf h; q.smod == p.dmod && q.sdie == p.ddie && q.tag == p.tag && q.gen == p.gen) t.relayed }
/-- An answer at a die: of this module's request, or forwarded, or discarded and counted. -/
def execAnswer (die : Nat) (typ : Nat) (loc : Bool) (s : State) : Out :=
  .next <|
    match takePkt s die 3 typ loc with
    | none => s
    | some (p, s1) =>
      let s2 := if loc then s1 else unrelay s1 die p
      if loc ∨ p.dmod = modId s die then (takeAnswer s2 p).getD s
      else (routePkt s2 die p).getD (noRoute s2 die)

/-- READ_RESPONSE (R338, R343). -/
def execReadResponse (die : Die) (fromModule : Bool) (s : State) : Out := execAnswer die 4 fromModule s
/-- WRITE_ACKNOWLEDGEMENT (R338, R343; 16 R411): of a write or a message. -/
def execWriteAcknowledgement (die : Die) (fromModule : Bool) (s : State) : Out := execAnswer die 5 fromModule s

/-! ## Management packets and surveys (R338, R362; 08 R209; 09 R237) -/

/-- A management packet about a step of this module's group and epoch: the ring's origin last in it, it goes on to the next module unless the decision is
taken here. -/
def takeStepMsg (s : State) (b : List Byte) : State :=
  match groupOf s (fieldLe b 1 2), cstepOf s (fieldLe b 1 2) (fieldLe b 7 4) with
  | some g, some c =>
    if c.epoch ≠ fieldLe b 3 4 then s
    else match byteAt b 0 with
      | 3 =>
        let v : Verdict := match byteAt b 11 with | 0 => .hold | 1 => .fixedOrder | 2 => .relaunch (fieldLe b 13 8) | _ => .ends (BitVec.ofNat 8 (fieldLe b 13 8))
        applyVerdict (sendOn s g (byteAt b 12) b) c v
      | 4 => modStep s c.group c.step fun c => { c with nacked := fieldLe b 11 6 :: c.nacked }
      | 5 => modStep s c.group c.step fun c => { c with transit := mdel c.transit (fieldLe b 11 6) }
      | 6 => if decides g then cancelStep s c.group c.step (BitVec.ofNat 8 (byteAt b 11)) else sendOn s g (byteAt b 12) b
      | 7 => if decides g then pieceBack s g c (fieldLe b 11 4) (decide (byteAt b 15 = 1)) else sendOn s g (byteAt b 16) b
      | _ => s
  | _, _ => s
/-- A management packet for this module: a Cascade progress message, a lock-step record, or what a step's modules tell each other. -/
def takeMgmt (s : State) (p : Pkt) : State :=
  let b := p.payload.flatMap lineBytes
  match byteAt b 0 with
  | 1 => modStep s (fieldLe b 1 2) (fieldLe b 3 4) fun c => { c with heard := mput c.heard (fieldLe b 7 2) (mltNs s) }
  | 2 =>
    let r : LsRec := ⟨fieldLe b 2 4, fieldLe b 6 2, byteAt b 8, BitVec.ofNat 64 (fieldLe b 9 8), byteAt b 17, byteAt b 18⟩
    { s with pairs := s.pairs.map (fun q => if q.primary = byteAt b 1 ∧ q.module ≠ 0xFF then { q with fromMirror := q.fromMirror ++ [r] } else q) }
  | _ => takeStepMsg s b

/-- MANAGEMENT_PACKET (R338, R341). -/
def execManagementPacket (die : Die) (fromModule : Bool) (s : State) : Out :=
  .next <|
    match takePkt s die 4 6 fromModule with
    | none => s
    | some (p, s1) =>
      if fromModule ∨ p.dmod = modId s die then takeMgmt s1 p
      else (routePkt s1 die p).getD (noRoute s1 die)

/-- The ports of this module that are up. -/
def upPorts (s : State) : List Nat := allDies.filter (fun d => (portOf s d).phase == .up)
/-- A 128-byte report (R362): module ID, port, the peer's ID and port, whether it was surveyed, and the values of R361: RTT in
bytes 8 to 43, local skews in bytes 44 to 61 (DESIGN CHOICE, note 84). -/
def surveyReport (s : State) (d : Nat) (r : Option PlumbRes) : List Byte :=
  let p := portOf s d
  let vals := match r with
    | some x => x.rtt.flatMap (fun v => leBytes 4 (encodeInt 32 v)) ++ x.local_.flatMap (fun v => leBytes 2 (encodeInt 16 v))
    | none => []
  padTo 128 (leBytes 1 (modId s d) ++ leBytes 1 d ++ leBytes 1 p.peerMod ++ leBytes 1 p.peerPort ++ leBytes 4 (b2n r.isSome) ++ vals)
/-- A report written into the result buffer of its survey's operation, while it runs. -/
def takeReport (s : State) (num : Nat) (b : List Byte) : State :=
  match (mfind s.hub.surveyOps num).bind (fun k => (opOf s k).map (fun o => (k, o))) with
  | none => s
  | some (k, o) =>
    if o.phase ≠ .running ∨ dF o 40 4 < 128 * (o.count + 1) then s
    else
      let s1 := if o.discard then s else hostWrite s (dF o 32 8 + 128 * o.count) b
      modOp s1 k fun o => { o with count := o.count + 1 }
/-- A survey packet: its payload begins with a kind, 0 a flood and 1 a report, and the survey number. -/
def surveyPkt (s : State) (d dmod hops kind num : Nat) (b : List Byte) : Pkt :=
  { typ := 7, dmod := dmod, ddie := d, sdie := d, smod := modId s d, hops := hops, lines := 3
    payload := toLines (leBytes 4 kind ++ leBytes 4 num ++ b ++ List.replicate (184 - b.length) 0) }
/-- A report sent to the origin of its survey. -/
def sendReport (s : State) (d num : Nat) (b : List Byte) : State :=
  match mfind s.hub.surveys num with
  | none => s
  | some org =>
    if org = modId s d then takeReport s num b
    else (routePkt s d (surveyPkt s d org 0 1 num b)).getD (noRoute s d)
/-- A survey taken up once (R362): flooded over every other up port at protocol 1.1, and measured, or reported as not surveyed, on
every up port. -/
def takeFlood (s : State) (num org hops : Nat) (src : Option Nat) : State :=
  if mhas s.hub.surveys num then s
  else
    let s0 := modHub s fun h => { h with surveys := mput h.surveys num org }
    let s1 := if hops < 8 then
        ((upPorts s).filter (fun d => (portOf s d).pver == 1 && src != some d)).foldl
          (fun a d => queuePkt a d { surveyPkt a d (portOf a d).peerMod (hops + 1) 0 num [] with smod := org }) s0
      else s0
    (upPorts s).foldl (fun a d => if (portOf a d).pver = 1 then startPlumb a d [num] else sendReport a d num (surveyReport a d none)) s1

/-- SURVEY_PACKET (R362): a flood or a report at a die's port, or a report from this module. -/
def execSurveyPacket (die : Die) (fromModule : Bool) (s : State) : Out :=
  .next <|
    match takePkt s die 4 7 fromModule with
    | none => s
    | some (p, s1) =>
      let b := p.payload.flatMap lineBytes
      if byteAt b 0 = 0 then takeFlood s1 (fieldLe b 4 4) p.smod p.hops (some die)
      else if fromModule ∨ p.dmod = modId s die then takeReport s1 (fieldLe b 4 4) ((b.drop 8).take 128)
      else (routePkt s1 die p).getD (noRoute s1 die)

/-- SURVEY (R362): a ready operation is dispatched and its flood sent; 1 s later it completes with the count of its reports. -/
def execSurvey (ctx : Fin 4096) (express : Bool) (opseq : W32) (s : State) : Out :=
  .next <|
    match named s ctx express opseq with
    | none => s
    | some (k, o) =>
      if opcOf o ≠ 9 then s
      else if mayDispatch s o then
        let num := modId s o.home * 256 + s.hub.surveyNext % 256
        let s1 := modHub (startOp s k o.home) fun h =>
          { h with surveyNext := (h.surveyNext + 1) % 256, surveyOps := mput h.surveyOps num k, surveys := mdel h.surveys num }
        takeFlood s1 num (modId s o.home) 0 none
      else if o.phase = .running ∧ o.dispatchedAt + 1000000000 ≤ mltNs s then
        completeOp (modOp (modHub s fun h => { h with surveyOps := h.surveyOps.filter (fun e => e.2 != k) }) k fun o =>
          { o with info := { o.info with xaddr := BitVec.ofNat 32 o.count } }) k 0
      else s

/-! ## Express messages that arrive (R339, R341) -/

/-- EXPRESS_MESSAGE_ARRIVAL (R339, R341): the flit at the front of the XP buffer is delivered or forwarded. -/
def execExpressMessageArrival (die : Die) (s : State) : Out :=
  .next <|
    match headFlit (portOf s die) 0 with
    | some x => routeExpress (popFlits s die 0 1) die x
    | none => s

end Sys2Proof.Machine
end

