-- ==== Sys2Proof/Machine/Mortar.lean ====
section
/-! DEFINITION. The Mortar fabric: region loads and releases, upsets, cells, block memories, serial blocks, ring oscillators (10; 11 R278
to R282). -/

namespace Sys2Proof.Machine

/-- A region changed. -/
def modRegion (s : State) (d r : Nat) (f : Region → Region) : State :=
  modDie s d fun e => { e with mortar := { e.mortar with regions := mmod {} e.mortar.regions r f } }
/-- The divisor of a fabric clock: its frequency is 4.8 GHz divided by it (10 R248). -/
def morDiv (s : State) (d c : Nat) : Nat := max 1 (fld s (morB d + 4) (8 * c) 8)
/-- Whether a region's logic runs and reaches its shell interface: released, and not isolated since. -/
def regionLive (s : State) (d r : Nat) : Bool := regionSends s d r && (regionOf s d r).clocksOn && !(regionOf s d r).setReset
/-- Whether step 4 of a load can be reached (11 R280): the drain of the region's ports is over and every credit it held is back. -/
def creditsBack (s : State) (d r : Nat) : Bool :=
  (sluiceOf s d (regionPort r)).phase != .drain && !(dieOf s d).runnel.reqs.any (fun q => q.init == 136 + r && q.credited)
/-- What MOR_REG_r.STATE reads (10 R260): loading from step 4 of a load on (11 R280). -/
def regionShown (s : State) (d r : Nat) : RegionPhase :=
  if (dieOf s d).mortar.loads.any (fun l => l.accepted && l.region == r) && creditsBack s d r then .loading else (regionOf s d r).phase

/-- The Mortar of a die at its base configuration (10 R245): all nine set-reset nets are asserted together, the regions are empty, and the static
shell is configured from the compute-die shell and released. -/
def baseMortar (s : State) : Mortar := { shellOk := true, shell := fabricOf ((plainOf s.ks (mget [] s.hub.running 4)).getD []) }
/-- The ports of a die's regions closed: no region answers before its release (10 R247 step 5). -/
def regionsClosed (m : SMap Sluice) : SMap Sluice := (upTo 8).foldl (fun a r => mput a (regionPort r) { phase := .closed }) m

/-! ## Region loads (11 R278 to R282) -/

/-- The image of a region load in host memory. -/
def loadImage (s : State) (o : Op) : List Byte := hostRead s (dF o 32 8) (dF o 40 4)
/-- REGION of a REGION_LOAD. -/
def rlRegion (o : Op) : Nat := dF o 47 1 / 16 % 8

/-- REGION_LOAD (R278, R279): a ready operation enters its die's queue; a LEN that disagrees with PLEN, or a region not granted, ends it
with the region left as it was. -/
def execRegionLoad (ctx : Fin 4096) (express : Bool) (opseq : W32) (s : State) : Out :=
  .next <|
    match named s ctx express opseq with
    | none => s
    | some (k, o) =>
      if opcOf o ≠ 7 ∨ !mayDispatch s o then s
      else
        let s1 := startOp s k o.home
        match partOf s o.part, (partOf s o.part).bind (fun p => spanDie p (dF o 47 1 % 16)) with
        | some p, some d =>
          if !p.cur.regions.testBit (rlRegion o) then endOp s1 k 0x10 id
          else if dF o 40 4 ≠ 656 + leNat (hostRead s (dF o 32 8 + 24) 4) then endOp s1 k 0x22 id
          else modDie s1 d fun e => { e with mortar := { e.mortar with loads := e.mortar.loads ++ [{ op := k, region := rlRegion o }] } }
        | _, _ => endOp s1 k 0x10 id

/-- The load at the head of a die's queue. -/
def headLoad (s : State) (d : Nat) : Option RegionLoad := (dieOf s d).mortar.loads.head?
/-- The head load changed. -/
def modHeadLoad (s : State) (d : Nat) (f : RegionLoad → RegionLoad) : State :=
  modDie s d fun e => { e with mortar := { e.mortar with loads := match e.mortar.loads with | l :: r => f l :: r | [] => [] } }
/-- A region isolated (10 R245, R247, R259): set-reset asserted, so that its flip-flops take their initial values, clocks and write ports off,
isolation closed; the Sluice of its attach point and Basin port rises. -/
def isolateRegion (s : State) (d r : Nat) (ph : RegionPhase) : State :=
  modRegion (raiseSluices s d [regionPort r]) d r fun x =>
    { x with phase := ph, setReset := true, flipped := [], clocksOn := false, writePorts := false, isolated := true }

/-- REGION_LOAD_ACCEPTANCE (R280 steps 1 to 4): the head load is accepted: its deadline runs, the scrub of its region pauses, the region is
isolated where it was released, its earlier image gone; it is loading once the drain is over; it is bound to no partition (DEDUCED, note 94). -/
def execRegionLoadAcceptance (die : Die) (s : State) : Out :=
  .next <|
    match headLoad s die with
    | none => s
    | some l =>
      match opOf s l.op with
      | none => dropLoad s die l.op
      | some o =>
        if l.accepted then s
        else
          let was := (regionOf s die l.region).phase
          let s1 := if was = .released then isolateRegion s die l.region was else s
          let s2 := modRegion s1 die l.region fun x =>
            { x with phase := (if creditsBack s1 die l.region then .loading else x.phase), image := [], payload := [], flipped := []
                     bram := [], bramCfg := [], bramOut := [], bramLatch := [], boundTo := none, nondet := false, scrubPaused := true
                     clks := imgClks (hostRead s (dF o 32 8) 128) }
          modHeadLoad s2 die fun l => { l with accepted := true, deadline := mltNs s + dF o 44 3 * 1000, det := strict s o.part }

/-- Why the image of a load is refused (R266, R280 steps 5 to 8; 10 R244, R248, R250): header faults first; then E_AUTH before
E_VERSION (16 R421). -/
def regionFault (s : State) (d : Nat) (l : RegionLoad) (b : List Byte) : Option (BitVec 8) :=
  let slow := [0, 1, 2].any (fun c => decide (imgFmax b c ≠ 0) && decide (imgFmax b c * morDiv s d c < 4800000))
  if !hdrOk 16 b then some 0x22
  else if !sigOk s.ks b then some 0x20
  else match plainOf s.ks b with
    | none => some 0x20
    | some p =>
      if !(checkPairs s b).1 || slow || (imgNondet b && l.det) || (!imgNondet b && Config.portsNondet (BitVec.ofNat 32 (fieldLe b 52 4))) ||
          !Config.framesInside p 16 then some 0x22
      else none
/-- REGION_IMAGE_VERIFIED (R280 steps 4 to 9): the drain is over and every credit back, the deadline not passed: the image is read, checked, decrypted
and written into configuration and block memory; a refused one leaves the region empty. -/
def execRegionImageVerified (die : Die) (s : State) : Out :=
  .next <|
    match headLoad s die with
    | none => s
    | some l =>
      match opOf s l.op with
      | none => s
      | some o =>
        if !l.accepted ∨ l.verified ∨ !creditsBack s die l.region ∨ l.deadline < mltNs s then s
        else
          let b := loadImage s o
          let s0 := (checkPairs s b).2
          match regionFault s die l b with
          | some c => endOp (emptyRegion (dropLoad (if hdrOk 16 b && c == 0x22 then s0 else s) die l.op) die l.region) l.op c id
          | none =>
            let p := (plainOf s.ks b).getD []
            let s1 := modRegion s0 die l.region fun x =>
              { x with phase := .loading, image := b, payload := p, nondet := imgNondet b, clks := imgClks b, boundTo := some o.part
                       bramCfg := memoryConfigs p regionMemories, bram := preloadOf p regionMemories }
            modHeadLoad s1 die fun l => { l with verified := true }

/-- REGION_RELEASE (10 R247; R280 step 10): clocks, set-reset, write ports and isolation in their order; the ports answer again, and the
load completes OK. -/
def execRegionRelease (die : Die) (s : State) : Out :=
  .next <|
    match headLoad s die with
    | none => s
    | some l =>
      if !l.verified then s
      else
        let s1 := modRegion s die l.region fun x =>
          { x with phase := .released, clocksOn := true, setReset := false, writePorts := true, isolated := false, scrubPaused := false }
        completeOp (dropLoad (openSluice s1 die (regionPort l.region)) die l.op) l.op 0

/-- REGION_DEADLINE_EXPIRY (R281): before step 9 the load stops and its region is empty; an image verified at the deadline itself is in time. -/
def execRegionDeadlineExpiry (die : Die) (s : State) : Out :=
  .next <|
    match headLoad s die with
    | none => s
    | some l =>
      if l.accepted ∧ !l.verified ∧ l.deadline < mltNs s then endOp (emptyRegion (dropLoad s die l.op) die l.region) l.op 0x40 id else s

/-! ## Configuration upsets (10 R259) -/

/-- The loads of a die ended with E_TARGET_OFF where a test accepts them (11 R282), also between steps 9 and 10: an accepted one leaves its region
empty. -/
def stopLoads (s : State) (d : Nat) (f : RegionLoad → Bool) : State :=
  ((dieOf s d).mortar.loads.filter f).foldl (fun a l =>
    let s1 := dropLoad a d l.op
    endOp (if l.accepted then emptyRegion s1 d l.region else s1) l.op 0x10 id) s

/-- CONFIG_SCRUB (R259): a frame of a region, or of the shell (none), is scrubbed: clean, one bit in error, or two. The scrub of a
region that is loading is paused. -/
def execConfigScrub (die : Die) (region : Option (Fin 8)) (frame : W32) (upset : ReadErr) (s : State) : Out :=
  .next <|
    match region, upset with
    | some r, .corrected => if (regionOf s die r).scrubPaused then s else bump s (morB die + 0x200 + 4 * r) 16 16 1
    | some r, .uncorrectable => if (regionOf s die r).scrubPaused then s else isolateRegion s die r .fault
    | none, .uncorrectable =>
      let s1 := (dieOf s die).mortar.loads.foldl (fun a l => endOp (emptyRegion (dropLoad a die l.op) die l.region) l.op 0x10 id) s
      let s2 := (upTo 8).foldl (fun a r => isolateRegion a die r .fault) s1
      let s3 := setFlag (modDie s2 die fun e => { e with mortar := { e.mortar with shellOk := false, shell := {} } }) (morB die) 30 true
      faultSig s3 { fsid := 0x60, kind := 1, die := die, sev := 1, detail := leBytes 4 frame.toNat }
    | _, _ => s

/-! ## Logic cells (10 R241, R242, R245) -/

/-- What a port of a region's memory last delivered. -/
def memoryBit (x : Region) (m : Nat) (portB : Bool) (bit : Nat) : Bool := ((mget (0, false) x.bramOut (m * 2 + portB.toNat)).1).getLsbD bit
/-- A region after a cycle of one of its clocks, with what its shell interface carries (R241, R245); a region that does not run keeps its
flip-flops. No command of the table makes a cycle (note 144). -/
def regionCycle (x : Region) (clk : Fin 3) (shell : Nat → Bool) : Region :=
  if !x.clocksOn || !x.clks.testBit clk then x
  else { x with flipped := fabricCycle regionCells (Config.cell x.payload) x.setReset (memoryBit x) shell clk x.flipped }
/-- The value of a region's flip-flop. -/
def regionFlop (x : Region) (cell : Nat) : Bool := flopVal (Config.cell x.payload) x.flipped cell

/-! ## Block memories (10 R251 to R253) -/

/-- Bits set in a 72-bit word. -/
def ones72 (x : BitVec 72) : Nat := ((upTo 72).filter (fun i => x.getLsbD i)).length
/-- An access that lies in a port's shape; in the 512 × 72 shape port A only writes and port B only reads (R251). -/
def portAccess (sh : BramShape) (portB : Bool) (q : Option BramAccess) : Option BramAccess :=
  (q.filter (fun q => decide (q.word.val < sh.depth))).bind (fun q =>
    if sh = .x72 then (if portB then some { q with data := none } else if q.data.isSome then some q else none) else some q)
/-- What a port writes: its word and the data, cut to its width. -/
def portWrite (sh : BramShape) (q : Option BramAccess) : Option (Nat × BitVec 72) := q.bind (fun q => q.data.map (fun v => (q.word.val, lowBits sh.width v)))

/-- BLOCK_MEMORY_ACCESS (R251 to R253): what ports A and B of a memory of a released region do in one cycle of its clock. A port that writes reads its
new data; port B beside a write of A reads the old; of two writes to one word A's stands. `flips` are the bits in error of
the word port B reads (DESIGN CHOICE, note 63); an output register shows a read one cycle later. -/
def execBlockMemoryAccess (die : Die) (region : Fin 8) (mem : Fin 120) (a b : Option BramAccess) (flips : BitVec 72) (s : State) : Out :=
  .next <|
    let x := regionOf s die region
    match mfind x.bramCfg mem with
    | none => s
    | some c =>
      if !regionLive s die region then s
      else
        let a := portAccess c.a false a
        let b := portAccess c.b true b
        let same := (match a, b with | some p, some q => sameWord c.a p.word c.b q.word | _, _ => false)
        let aw := portWrite c.a a
        let bw := if same && aw.isSome then none else portWrite c.b b
        let err := if c.protected_ then ones72 flips else 0
        let free := (Config.freeValue s.fresh).setWidth 72
        let outA : Option (BitVec 72 × Bool) := if c.a = .x72 then none else a.map (fun q =>
          (match q.data with
           | some v => lowBits c.a.width v
           | none => if same && bw.isSome then lowBits c.a.width free else wordRead x.bram mem c.a q.word, false))
        let outB : Option (BitVec 72 × Bool) := b.map (fun q =>
          match q.data with
          | some v => (if same && aw.isSome then lowBits c.b.width free else lowBits c.b.width v, false)
          | none =>
            let w := wordRead x.bram mem c.b q.word
            (if c.protected_ && err == 1 then w else w ^^^ lowBits c.b.width flips, c.protected_ && err == 2))
        let put (m : SMap (BitVec 72)) (sh : BramShape) (w : Option (Nat × BitVec 72)) : SMap (BitVec 72) := match w with | some e => wordWrite m c mem sh e.1 e.2 | none => m
        let keep (m : SMap (BitVec 72 × Bool)) (k : Nat) (v : Option (BitVec 72 × Bool)) : SMap (BitVec 72 × Bool) := match v with | some e => mput m k e | none => m
        let both (m : SMap (BitVec 72 × Bool)) : SMap (BitVec 72 × Bool) := keep (keep m (mem * 2) outA) (mem * 2 + 1) outB
        let shift (m : SMap (BitVec 72 × Bool)) : SMap (BitVec 72 × Bool) :=
          keep (keep m (mem * 2) (mfind x.bramLatch (mem * 2))) (mem * 2 + 1) (mfind x.bramLatch (mem * 2 + 1))
        let s1 := modRegion (if same then { s with fresh := s.fresh + 1 } else s) die region fun x =>
          { x with
            bram := put (put x.bram c.b bw) c.a aw
            bramOut := if c.outReg then shift x.bramOut else both x.bramOut
            bramLatch := if c.outReg then both x.bramLatch else x.bramLatch }
        if b.isSome && err == 1 then bump s1 (morB die + 0x200 + 4 * region) 0 16 1 else s1

/-! ## Serial blocks and ring oscillators (10 R254, R255; 20 R498) -/

/-- What a die's serial pins show: what the released region that MOR_SER names drives; idle without one (R255). -/
def serialPins (s : State) (d : Nat) : SerialPins :=
  if flag s (morB d + 8) 3 && regionLive s d (fld s (morB d + 8) 0 3) then (dieOf s d).mortar.serial.driven else {}
/-- What the debug header shows of the serial blocks: those of the die that the hub's multiplexer passes on. -/
def headerPins (s : State) : SerialPins := match s.hub.serialDie with | some d => serialPins s d | none => {}

/-- RING_OSCILLATOR_WINDOW (R254): the count of an oscillator over the last window is latched. -/
def execRingOscillatorWindow (die : Die) (osc : Fin 4) (count : W32) (s : State) : Out := .next (setRaw s (morB die + 0x300 + 4 * osc) count)

end Sys2Proof.Machine
end

