-- ==== Sys2Proof/Machine/Partitions.lean ====
section
/-! DEFINITION. Partitions: creation, change and deletion, grade and lock-step, bank sets, step boundaries (01 R35, R36; 00 R4, R5; 13 R306, R308;
16 R417; 18 R452, R511). -/

namespace Sys2Proof.Machine

/-! ## The partition block (18 R452) -/

/-- A partition block read. -/
def parseBlock (b : List Byte) : PartBlock :=
  { training := (byteAt b 1).testBit 0, chain := (byteAt b 1).testBit 1, replay := bitsOf (byteAt b 1) 2 2, span := fieldLe b 2 2
    firstLt := byteAt b 4, ltCount := byteAt b 5
    msgCtx := if (byteAt b 7).testBit 7 then none else some (byteAt b 6 + byteAt b 7 % 16 * 256)
    banks := fieldLe b 8 8, credit := fieldLe b 16 2, regions := byteAt b 18, staging := byteAt b 19 + 1, basin := fieldLe b 20 4
    wFirst := fieldLe b 24 4, wCount := fieldLe b 28 4, peers := ((upTo 16).map (fun i => byteAt b (32 + i))).filter (fun m => m != 0xFF) }
/-- Whether every field is in its range. -/
def blockOk (b : List Byte) (create : Bool) : Bool :=
  let x := parseBlock b
  decide (byteAt b 0 < 64) && byteAt b 1 / 16 == 0 && x.span != 0 && decide (1 ≤ x.ltCount) && decide (x.firstLt + x.ltCount ≤ 128) &&
    byteAt b 7 / 16 % 8 == 0 && x.banks != 0 && decide (x.basin ≤ 96 * 2 ^ 14) &&
    decide (x.wFirst + x.wCount ≤ (bankList x.banks).length * 2 ^ 24) && (!x.chain || decide (4 ≤ x.staging)) &&
    (!create || x.replay != 3) && fieldLe b 48 16 == 0
/-- The dies a block names. -/
def blkDies (x : PartBlock) : List Nat := allDies.filter (fun d => x.span.testBit d)
/-- The logical tiles a block names. -/
def blkTiles (x : PartBlock) : List Nat := (blkDies x).flatMap (fun d => (upTo x.ltCount).map (fun i => ltKey d (x.firstLt + i)))
/-- The banks of a partition on a die: those its block names there and those in use. -/
def banksOn (p : Partition) (d : Nat) : Nat :=
  (if p.blk.span.testBit d then p.blk.banks else 0) ||| (if p.bankDies.testBit d then p.cur.banks else 0)
/-- Whether a block names what another partition owns (R35, R306): a tile its block names, one of its banks, one of its regions. -/
def blkClash (s : State) (pn : Nat) (x : PartBlock) : Bool :=
  s.parts.any (fun e => e.1 != pn && (blkDies x).any (fun d =>
    let q := e.2
    (q.blk.span.testBit d && decide (q.blk.firstLt < x.firstLt + x.ltCount) && decide (x.firstLt < q.blk.firstLt + q.blk.ltCount)) ||
      (x.banks &&& banksOn q d) != 0 || (q.blk.span.testBit d && (x.regions &&& q.blk.regions) != 0)))
/-- The number of logical tiles a block may name (R5, 11 R275): those of the grade, or of the grade that is pending, and in stage B
LT0 to LT31. -/
def ltTop (s : State) : Nat :=
  let g := if s.ks.grades.any (·.toB) then min 112 (lTiles s) else lTiles s
  match stageOf s with | 3 => g | 2 => min 32 g | _ => 0
/-- Whether a block names a tile, a bank or a die that is not there (R5, R275, R306, 19 R465) (DEDUCED, note 99). -/
def blkAbsent (s : State) (x : PartBlock) : Bool :=
  decide (ltTop s < x.firstLt + x.ltCount) || (flag s 4 10 && x.banks / 2 ^ 48 != 0) || (blkDies x).any (fun d => !dieUp s d)

/-! ## What follows a change (R36, R511) -/

/-- A region withdrawn from a partition (R36, 11 R282): a load of it ends, a released one is isolated and emptied. -/
def withdrawRegion (s : State) (pn d r : Nat) : State :=
  let mine (l : RegionLoad) : Bool := l.region == r && (match opOf s l.op with | some o => o.part == pn | none => true)
  let s1 := stopLoads s d mine
  if (regionOf s1 d r).boundTo = some pn then emptyRegion (isolateRegion s1 d r .empty) d r else s1
/-- Regions withdrawn from a partition on every die where the block `now` does not name them, also on dies that have left its span. -/
def withdrawRegions (s : State) (pn : Nat) (now : PartBlock) : State :=
  allDies.foldl (fun a d => (upTo 8).foldl (fun a r =>
    if now.span.testBit d && now.regions.testBit r then a else withdrawRegion a pn d r) a) s
/-- Whether a command of Keystone in progress is of a CCODE and names the partition in byte 0. -/
def ksNames (c : KsCmd) (code pn : Nat) : Bool := ksCode c == code && ksByte c 0 == pn
/-- Commands whose partition is as R511 wants it complete; what takes effect at completion does (R36). -/
def settlePart (s : State) (pn : Nat) : State :=
  match partOf s pn with
  | none => ((s.ks.running.filter (fun c => ksNames c 0x22 pn)).map ksId).foldl (fun a i => ksFinish a i 0) s
  | some p =>
    if !p.clearing.isEmpty || !p.copyTo.isEmpty then s
    else
      let made := (s.ks.running.filter (fun c => ksNames c 0x20 pn && p.joining.isEmpty)).map ksId
      let changed := (s.ks.running.filter (fun c => ksNames c 0x21 pn)).map ksId
      let s1 :=
        if changed.isEmpty then s
        else
          let s0 := withdrawRegions s pn p.blk
          modPart s0 pn fun p => { p with cur := { p.cur with regions := p.blk.regions, peers := p.blk.peers, msgCtx := p.blk.msgCtx } }
      (made ++ changed).foldl (fun a i => ksFinish a i 0) s1
/-- Whether a tile that waits to join its partition can (R36 stage 3): it belongs to no other, and its die's bank set is ready; where the
change moves the partition to other banks, those of all its dies (R35). -/
def canJoin (s : State) (pn : Nat) (p : Partition) (t : Nat) : Bool :=
  (p.cur.banks == p.blk.banks || p.clearing.isEmpty) && !p.clearing.contains (t / 128) && !p.copyTo.contains (t / 128) && dieUp s (t / 128) && !s.parts.any (fun e => e.1 != pn && e.2.tiles.contains t)
/-- A partition asks for a step boundary while a tile is leaving or can join (R417). -/
def wantBoundary (s : State) (pn : Nat) : State :=
  match partOf s pn with
  | some p =>
    if !p.releasing.isEmpty || p.joining.any (canJoin s pn p) || (p.clearing.isEmpty && p.cur.banks != p.blk.banks) then
      modPart s pn fun p => { p with boundaryWanted := true }
    else s
  | none => s
/-- Every partition's wants. -/
def wantBoundaries (s : State) : State := (s.parts.map (·.1)).foldl wantBoundary s

/-! ## The operating grade (00 R4, R5) -/

/-- The spares of a die that are free and passed their last Tap test, rising (19 R461). -/
def freeSpares (s : State) (d : Nat) : List Nat := (upTo 136).filter (fun p => freeTarget s d p && s.hub.passed.contains (tileKey d p))
/-- A logical tile mapped onto a physical tile: GEN goes up where it is another one than before (03 R90). -/
def mapLt (s : State) (d lt pt : Nat) : State :=
  modDie s d fun e =>
    let last := mget (lt, 0) e.lastMap lt
    let gen : BitVec 8 := if mhas e.lastMap lt && last.1 != pt then last.2 + 1 else last.2
    { e with ltMap := mput e.ltMap lt (some (pt, gen)) }
/-- A logical tile unmapped. -/
def unmapLt (s : State) (d lt : Nat) : State :=
  match ptOf s d lt with
  | none => s
  | some m => modDie s d fun e => { e with ltMap := mdel e.ltMap lt, lastMap := mput e.lastMap lt m }
/-- Logical tiles mapped onto the free spares of a die, in rising order. -/
def mapLts (s : State) (d : Nat) (lts : List Nat) : State :=
  (lts.zip (freeSpares s d)).foldl (fun a e => mapLt a d e.1 e.2) s
/-- LT112 to LT127. -/
def highLts : List Nat := (upTo 16).map (· + 112)
/-- The oldest pending grade change made, or refused, now that every partition has reached its boundary (R5). -/
def makeGrade (s : State) (g : GradeChange) : State :=
  let up := allDies.filter (dieUp s)
  if g.toB = gradeB s then ksFinish s g.cmd 0
  else if g.toB then
    let s1 := allDies.foldl (fun a d => highLts.foldl (fun a lt => unmapLt a d lt) a) s
    ksFinish (setFld (setFlag s1 4 8 true) 4 0 8 0x70) g.cmd 0
  else if up.any (fun d => decide ((freeSpares s d).length < 16)) then ksFinish s g.cmd 0x10
  else
    let s1 := up.foldl (fun a d => mapLts a d highLts) s
    ksFinish (setFld (setFlag s1 4 8 false) 4 0 8 0x80) g.cmd 0
/-- Pending grade changes that wait for no boundary any more, in their order. -/
def gradesFuel : Nat → State → State
  | 0, s => s
  | n + 1, s =>
    match s.ks.grades with
    | g :: rest => if g.wait = [] then gradesFuel n (makeGrade (modKs s fun k => { k with grades := rest }) g) else s
    | [] => s
/-- A partition has reached a boundary, or is gone: the grade changes that waited for it alone are made (R5). -/
def applyGrades (s : State) (pn : Nat) : State :=
  gradesFuel s.ks.grades.length (modKs s fun k => { k with grades := k.grades.map (fun g => { g with wait := g.wait.filter (· != pn) }) })

/-! ## Commands (18 R451, R452) -/

/-- The code a block is refused with (R452). -/
def blockFault (s : State) (b : List Byte) (create : Bool) : Option (BitVec 8) :=
  let x := parseBlock b
  let pn := byteAt b 0
  let there := (partOf s pn).filter (fun p => !p.deleting)
  if !blockOk b create then some 0x22
  else match create, there with
    | true, some _ => some 0x10
    | false, none => some 0x10
    | false, some p => if p.cur.chain != x.chain then some 0x22 else if blkAbsent s x || blkClash s pn x then some 0x10 else none
    | true, none => if (partOf s pn).isSome || blkAbsent s x || blkClash s pn x then some 0x10 else none

/-- PART_CREATE (R452, R511; 09 R221; 13 R308): the partition holds nothing until its bank sets are cleared and its tiles have joined. -/
def execPartCreate (s : State) : Out :=
  .next <| ksHead s 0x20 fun c =>
    match blockFault s c.params true with
    | some e => ksEnd s c e
    | none =>
      let x := parseBlock c.params
      let pn := ksByte c 0
      let rp := match x.replay with | 1 => false | 2 => true | _ => flag s (hltB + 0x2000) 29
      let p : Partition := { blk := x, cur := { x with span := 0 }, tiles := [], joining := blkTiles x, clearing := blkDies x, shards := x.span, replay := rp }
      let clean (e : DieSt) : DieSt := { e with basin := e.basin.filter (fun l => l.1 / 2 ^ 30 != pn), staging := mdel e.staging pn }
      ksLater { s with parts := mput s.parts pn p, dies := s.dies.map (fun e => (e.1, clean e.2)) } c

/-- PART_CHANGE (R36, R452, R511): the change is recorded; REPLAY and the number of staging pieces stay as created (06 R168); banks it adds are cleared, tiles leave and join at step boundaries. -/
def execPartChange (s : State) : Out :=
  .next <| ksHead s 0x21 fun c =>
    match blockFault s c.params false, partOf s (ksByte c 0) with
    | some e, _ => ksEnd s c e
    | none, none => s
    | none, some p =>
      let x := { parseBlock c.params with replay := p.blk.replay, staging := p.blk.staging }
      let pn := ksByte c 0
      let new := blkTiles x
      let inUse (d : Nat) : Nat := if p.bankDies.testBit d && (spanDies p).contains d then p.cur.banks else 0
      let add := (blkDies x).filter (fun d => (x.banks &&& inUse d) != x.banks)
      let s1 := modPart s pn fun p =>
        { p with
          blk := x, joining := new.filter (fun t => !p.tiles.contains t)
          releasing := p.tiles.filter (fun t => !new.contains t), clearing := add, copyTo := [], boundaryWanted := true }
      settlePart (wantBoundaries (ksLater s1 c)) pn

/-- The registers of the contexts bound to a partition read BOUND = 0 (16 R399). -/
def unbind (s : State) (pn : Nat) : State :=
  ((s.regs.filter (fun e => decide (0x100000 ≤ e.1) && decide (e.1 < 0x140000) && e.1 % 64 == 0)).map (·.1)).foldl
    (fun a k => if flag a k 27 && fld a k 21 6 == pn then setFlag a k 27 false else a) s
/-- The operations of a partition ended with E_TARGET_OFF (16 R418): those dispatched, and those not. -/
def endPartOps (s : State) (pn : Nat) : State :=
  (s.ops.filter (fun e => e.2.part == pn)).foldl (fun a e =>
    match opOf a e.1 with
    | none => a
    | some o => if decided o then a else match o.phase with
      | .running => endRunning a e.1 0x10 o
      | .held => endRunning a e.1 0x10 o
      | _ => completeOp a e.1 0x10) s
/-- The Runnel ports of a partition on a die: its tiles' and its regions'. -/
def partPorts (s : State) (pn : Nat) (p : Partition) (d : Nat) : List Nat :=
  (p.tiles.filter (fun t => t / 128 == d)).filterMap (fun t => (ptOf s d (t % 128)).map (·.1)) ++
    ((upTo 8).filter (fun r => (regionOf s d r).boundTo == some pn)).map regionPort
/-- The HBM slots of every die divided anew (13 R310). -/
def splitAll (s : State) : State := allDies.foldl splitSlots s
/-- A partition released under R295: it is gone from the tables; what waits for its resources may go on. -/
def dropPart (s : State) (pn : Nat) : State :=
  let s1 := { s with
    parts := mdel s.parts pn
    pairs := s.pairs.filter (fun q => !(q.primary == pn || (q.module == 0xFF && q.mirror == pn)))
    groups := s.groups.map (fun e => (e.1, { e.2 with parts := e.2.parts.filter (· != pn) })) }
  wantBoundaries (splitAll (applyGrades (settlePart s1 pn) pn))
/-- Whether the ports of a partition on a die are closed and under isolation no more. -/
def portsDone (s : State) (d : Nat) (ports : List Nat) : Bool :=
  ports.all (fun q => (sluiceOf s d q).phase == .closed && !(dieOf s d).runnel.domains.any (fun x => x.contains q))
/-- A die of a deleted partition is drained (12 R295): its tiles' ports open again, free; with the last die the partition is gone. -/
def releaseDie (s : State) (pn d : Nat) : State :=
  match partOf s pn with
  | none => s
  | some p =>
    if !p.deleting ∨ !p.delDies.contains d ∨ !portsDone s d (partPorts s pn p d) then s
    else
      let s1 := ((partPorts s pn p d).filter (fun q => decide (q < 136))).foldl (fun a q => openSluice a d q) s
      let s2 := modPart s1 pn fun p => { p with delDies := p.delDies.filter (· != d) }
      if p.delDies.filter (· != d) = [] then dropPart s2 pn else s2

/-- PART_DELETE (R511; 16 R399, R418; 11 R282; 12 R295): its operations end, its regions are emptied, its contexts are unbound, and the
Sluices of its ports rise; it completes once they are safe (DEDUCED, note 98). -/
def execPartDelete (s : State) : Out :=
  .next <| ksHead s 0x22 fun c =>
    let pn := ksByte c 0
    if 64 ≤ pn then ksEnd s c 0x22
    else match (partOf s pn).filter (fun p => !p.deleting) with
      | none => ksEnd s c 0x10
      | some p =>
        let ds := (spanDies p).filter (fun d => dieUp s d && !(partPorts s pn p d).isEmpty)
        let s1 := unbind (endPartOps s pn) pn
        let s2 := ds.foldl (fun a d => raiseSluices a d (partPorts s pn p d)) s1
        let s3 := withdrawRegions s2 pn { p.blk with span := 0 }
        let s4 := ksLater (modPart s3 pn fun p => { p with deleting := true, delDies := ds }) c
        if ds.isEmpty then dropPart s4 pn else s4

/-- SLUICE_SAFE (12 R295 steps 5 to 7): the domain of a die is safe; a deleted partition's resources there are released. -/
def execSluiceSafe (die : Die) (s : State) : Out :=
  .next <|
    let s1 := sluiceSafe s die
    (s1.parts.map (·.1)).foldl (fun a pn => releaseDie a pn die) s1

/-! ## Bank sets (13 R308; 01 R36) -/

/-- Every place of a die in banks of a mask zeroed. -/
def clearBanks (s : State) (d mask : Nat) : State :=
  let inM (key : Nat) : Bool := mask.testBit (key / 2 ^ 24)
  modDie s d fun e =>
    { e with hbm :=
      { e.hbm with
        lines := e.hbm.lines.filter (fun x => !inM x.1), poison := e.hbm.poison.filter (fun x => !inM x.1)
        queue := e.hbm.queue.filter (fun q => !mask.testBit q.bank) } }

/-- BANK_SET_CLEAR_COMPLETE (R308): the banks a partition was promised on a die read zero and are granted to it; in replica mode the
weight range is then copied to a new die from the lowest one it has (R36). -/
def execBankSetClearComplete (part : Fin 64) (die : Die) (s : State) : Out :=
  .next <|
    match partOf s part with
    | none => s
    | some p =>
      if !p.clearing.contains die.val then s
      else
        let old := p.bankDies.testBit die && (spanDies p).contains die.val
        let s1 := clearBanks s die (if old then p.blk.banks &&& ((2 ^ 64 - 1) ^^^ p.cur.banks) else p.blk.banks)
        let copy := !p.cur.chain && !(spanDies p).isEmpty && !(spanDies p).contains die.val
        settlePart (wantBoundaries (modPart s1 part fun p =>
          { p with clearing := p.clearing.filter (· != die.val), copyTo := if copy then p.copyTo ++ [die.val] else p.copyTo })) part

/-- The weight range copied from a die's bank set in use to the bank set named on a new die. -/
def copyRange (s : State) (p : Partition) (src dst : Nat) : State :=
  let h := drained (dieOf s src).hbm
  let put (key : Nat) : Option Nat :=
    (lineOfKey p.cur.banks key).bind (fun l => if inWeights p l then (hbmPlace p.blk.banks l).map (fun q => hbmKey q.1 q.2.1 q.2.2.1 q.2.2.2) else none)
  modDie s dst fun e =>
    { e with hbm :=
      { e.hbm with
        lines := h.lines.foldl (fun a x => match put x.1 with | some k => mset 0 a k x.2 | none => a) e.hbm.lines
        poison := h.poison.foldl (fun a x => match put x.1 with | some k => mput a k x.2 | none => a) e.hbm.poison } }

/-- WEIGHT_COPY_COMPLETE (R36): the copy equals its source, page by page. -/
def execWeightCopyComplete (part : Fin 64) (die : Die) (s : State) : Out :=
  .next <|
    match partOf s part with
    | none => s
    | some p =>
      match (spanDies p).head? with
      | none => s
      | some src =>
        if !p.copyTo.contains die.val then s
        else settlePart (wantBoundaries (modPart (copyRange s p src die) part fun p => { p with copyTo := p.copyTo.filter (· != die.val) })) part

/-! ## The grade command (00 R4, R5; 18 R511) -/

/-- GRADE_SET (R4, R5, R511): refused with E_AUTH for grade A on a module made as grade B, with E_TARGET_OFF for grade B while a block names
LT112 or above; else it waits for the step boundary of every partition, behind the changes that pend. To the grade in operation, with none
pending, there is nothing to change and it completes at once (DESIGN CHOICE, note 143). -/
def execGradeSet (s : State) : Out :=
  .next <| ksHead s 0x30 fun c =>
    let g := ksByte c 0
    if 1 < g then ksEnd s c 0x22
    else if g = 0 ∧ flag s 4 9 then ksEnd s c 0x20
    else if g = 1 ∧ s.parts.any (fun e => decide (112 < e.2.blk.firstLt + e.2.blk.ltCount)) then ksEnd s c 0x10
    else if (g == 1) = gradeB s ∧ s.ks.grades = [] then ksEnd s c 0
    else
      let s1 := modKs { s with parts := s.parts.map (fun e => (e.1, { e.2 with boundaryWanted := true })) } fun k =>
        { k with grades := k.grades ++ [{ toB := g == 1, cmd := ksId c, wait := s.parts.map (·.1) }] }
      let s2 := ksLater s1 c
      gradesFuel s2.ks.grades.length s2

/-! ## Lock-step pairs (09 R235) -/

/-- Whether two partitions hold one weight image: the same range with the same bytes, die by die of their spans. -/
def sameWeights (s : State) (a b : Nat) (p q : Partition) : Bool :=
  p.cur.wFirst == q.cur.wFirst && p.cur.wCount == q.cur.wCount && (spanDies p).length == (spanDies q).length &&
    ((spanDies p).zip (spanDies q)).all (fun e =>
      (upTo p.cur.wCount).all (fun i => readLine s a e.1 (p.cur.wFirst + i) == readLine s b e.2 (p.cur.wFirst + i)))
/-- LOCKSTEP_SET (R235): two partitions of this module on different dies with equal tile counts, one mode and one weight image, or a partition of
this module and one of another (DEDUCED, note 159). -/
def execLockstepSet (s : State) : Out :=
  .next <| ksHead s 0x31 fun c =>
    let a := ksByte c 0
    let b := ksByte c 1
    let m := ksByte c 2
    let live (n : Nat) : Option Partition := (partOf s n).filter (fun p => !p.deleting)
    if 64 ≤ a ∨ 64 ≤ b ∨ 1 < ksByte c 3 then ksEnd s c 0x22
    else if ksByte c 3 = 0 then
      if s.pairs.any (fun q => q.primary == a && q.mirror == b && q.module == m) then
        ksEnd { s with pairs := s.pairs.filter (fun q => !(q.primary == a && q.mirror == b && q.module == m)) } c 0
      else ksEnd s c (Config.refusalCode 0x31)
    else match live a, live b with
      | none, _ => ksEnd s c 0x10
      | some p, q =>
        let same := match q with
          | some q => a != b && p.tiles.length == q.tiles.length && p.cur.chain == q.cur.chain && sameWeights s a b p q &&
            (spanDies p).all (fun d => !(spanDies q).contains d)
          | none => false
        if m = 0xFF ∧ q = none then ksEnd s c 0x10
        else if (m = 0xFF ∧ !same) ∨ inPair s a ∨ (m = 0xFF ∧ inPair s b) then ksEnd s c (Config.refusalCode 0x31)
        else ksEnd { s with pairs := s.pairs ++ [{ primary := a, mirror := b, module := m }] } c 0

/-! ## Step boundaries (16 R417) -/

/-- Whether an operation must have completed before its partition's boundary: dispatched and not complete; what waits for the boundary
itself, a DIGEST or a command of Keystone, does not hold it up (DEDUCED, note 71). -/
def holdsBoundary (pn n : Nat) (o : Op) : Bool :=
  o.part == pn && o.started && o.phase != .recordDue && opcOf o != 8 && opcOf o != 0x10 && decide (o.order ≤ n)

/-- Bits of a die mask where the die satisfies a test. -/
def maskWhere (m : Nat) (f : Nat → Bool) : Nat := allDies.foldl (fun a d => if m.testBit d && f d then a + 2 ^ d else a) 0
/-- The die that takes over the span position of a die that leaves (08 R194, 19 R466): the next in module ring order within the span. -/
def nextInRing (p : Partition) (d : Nat) : Option Nat :=
  let i := ringOrder.findIdx (fun e => e == d)
  ((upTo 15).map (fun j => ringOrder.getD ((i + 1 + j) % 16) 0)).find? (fun e => (spanDies p).contains e)
/-- A die leaves a partition's work. In replica mode its position, and those it stood in for, become aliases of the next die; in chain mode
the chain re-forms without it (06 R170). -/
def leaveSpan (p : Partition) (d : Nat) : Partition :=
  let p1 := { p with outDies := p.outDies ||| 2 ^ d, bankDies := if p.bankDies.testBit d then p.bankDies - 2 ^ d else p.bankDies }
  if p.cur.chain then
    { p1 with cur := { p1.cur with span := maskWhere p1.cur.span (fun e => e != d) }, outDies := maskWhere p1.outDies (fun e => e != d) }
  else match nextInRing p1 d with
  | some e => { p1 with aliases := mput (p1.aliases.map (fun a => if a.2 = d then (a.1, e) else a)) d e }
  | none => { p1 with aliases := mput p1.aliases d 16 }
/-- A die back in a partition's work: its alias ends. -/
def enterSpan (p : Partition) (d : Nat) : Partition :=
  { p with
    cur := { p.cur with span := p.cur.span ||| 2 ^ d }, outDies := if p.outDies.testBit d then p.outDies - 2 ^ d else p.outDies
    aliases := mdel p.aliases d, bankDies := p.bankDies ||| 2 ^ d }

/-- Replicas that leave or rejoin at a boundary (09 R229). -/
def digestMoves (s : State) (pn : Nat) : State :=
  modPart s pn fun p =>
    let g := p.digest
    let p1 := g.leave.foldl (fun a d => { leaveSpan a d with copying := a.copying ++ [d] }) p
    let p2 := g.rejoin.foldl enterSpan p1
    { p2 with copying := p2.copying.filter (fun d => !g.rejoin.contains d), digest := { p2.digest with leave := [], rejoin := [] } }

/-- The parts of a change that take effect at a boundary (R36): tiles leave; a die without tiles leaves the span; class, shares, windows and
ranges change (the weight range and the Basin window, for which R36 has no row: DESIGN CHOICE, note 99); tiles join, and their dies enter the
span; once all have, the stored slices are those of the new span (06 R166). -/
def movesAt (s : State) (pn : Nat) : State :=
  let s1 := modPart s pn fun p =>
    let left := p.tiles.filter (fun t => !p.releasing.contains t)
    let still (d : Nat) : Bool := left.any (fun t => t / 128 == d) || (p.outDies.testBit d && p.blk.span.testBit d)
    let span := maskWhere p.cur.span still
    let x := p.blk
    { p with
      tiles := left, releasing := [], bankDies := maskWhere p.bankDies still, outDies := maskWhere p.outDies (fun d => span.testBit d)
      aliases := p.aliases.filter (fun a => span.testBit a.1)
      cur := { p.cur with
        span := span, training := x.training, credit := x.credit, firstLt := x.firstLt, ltCount := x.ltCount, basin := x.basin
        wFirst := x.wFirst, wCount := x.wCount, banks := if p.clearing.isEmpty then x.banks else p.cur.banks } }
  match partOf s1 pn with
  | none => s1
  | some p =>
    let js := p.joining.filter (canJoin s1 pn p)
    modPart s1 pn fun p => (js.map (· / 128)).eraseDups.foldl enterSpan { p with tiles := p.tiles ++ js, joining := p.joining.filter (fun t => !js.contains t), shards := if p.joining.all js.contains then p.blk.span else p.shards }

/-- A boundary of a partition: `counted` where an operation with STEPEND forms it. -/
def atBoundary (s : State) (pn : Nat) (counted : Bool) : State :=
  let s1 := modPart s pn fun p => { p with steps := p.steps + b2n counted, boundaryWanted := false }
  let s2 := splitAll (movesAt (digestMoves s1 pn) pn)
  let s3 := applyGrades s2 pn
  let n := fld s3 (hltB + 0x2000) 0 16
  let due := match partOf s3 pn with
    | some p => (counted && n != 0 && p.steps % n == 0) || !p.digest.requested.isEmpty
    | none => false
  settlePart (wantBoundaries (if due then startEpoch s3 pn else s3)) pn

/-- STEP_BOUNDARY (R417): of the oldest operation with STEPEND that has completed, together with every operation dispatched before it; or
one the module manager needs in a partition that has none pending. -/
def execStepBoundary (part : Fin 64) (s : State) : Out :=
  .next <|
    match partOf s part with
    | none => s
    | some p =>
      match p.stepDue.foldl (fun (a : Option Nat) n => some (min n (a.getD n))) none with
      | some n =>
        if s.ops.any (fun e => holdsBoundary part n e.2) then s
        else atBoundary (modPart s part fun p => { p with stepDue := p.stepDue.filter (· != n) }) part true
      | none =>
        if p.boundaryWanted ∧ !s.ops.any (fun e => e.2.part == part.val && (stepEnd e.2 || holdsBoundary part e.2.order e.2)) then atBoundary s part false
        else s

end Sys2Proof.Machine
end

