-- ==== Sys2Proof/Machine/Clepsydra.lean ====
section
/-! DEFINITION. Clepsydra: the two timescales, sources and the time root, steps, slews and epochs, stopped clocks (15). -/

namespace Sys2Proof.Machine

/-! ## Counters (R365 to R368) -/

/-- The increment of one CK_CLP cycle in units of 2^-40 ns (R367): 1.25 ns × (1 + (FREQ + SLEW) × 2^-40), with the bits below
2^-40 ns dropped (DEDUCED, note 37). -/
def increment (c : Clep) : Nat := (5 * ((2 ^ 40 : Nat) + c.freq + c.slew) / 4).toNat

/-- One CK_CLP cycle: both timescales advance by the same increment (R367). Without power there is none (DESIGN CHOICE, note 121). -/
def tickClock (s : State) : State :=
  if !s.pwr.good then s
  else { s with
    clp := { s.clp with dev := (s.clp.dev + increment s.clp) % (2 ^ 88 * 1000000000), mlt := (s.clp.mlt + increment s.clp) % 2 ^ 104 }
    hub := { s.hub with cycles := s.hub.cycles + 1 } }

/-- 100 ppm in units of 2^-40 (R367). -/
def ppm100 : Int := 109951162
/-- 500 ppm in units of 2^-40 (R367). -/
def ppm500 : Int := 549755813
/-- A frequency correction within ±100 ppm (R367). -/
def clampFreq (f : Int) : Int := max (-ppm100) (min ppm100 f)

/-- A change of the counters broadcast with at least 2 µs of lead (R368). -/
def broadcast (s : State) (c : CounterChange) : State :=
  modClp s fun k => { k with changes := k.changes ++ [(mltNs s + 2000, c)] }

/-- One counter change takes effect (R367, R374). -/
def applyChange (s : State) : CounterChange → State
  | .freq f => modClp s fun k => { k with freq := clampFreq f }
  | .slew th =>
    setFlag (modClp s fun k => { k with slew := (if th < 0 then -ppm500 else ppm500), slewEnds := mltNs s + 2000 * th.natAbs / 65536 }) clpB 27 true
  | .slewEnd => setFlag (modClp s fun k => { k with slew := 0, slewEnds := 0 }) clpB 27 false

/-- COUNTER_CHANGE_APPLY (R368): the oldest broadcast change whose named MLT has come applies on every counter pair; before
that MLT nothing does. -/
def execCounterChangeApply (s : State) : Out :=
  .next <|
    match s.clp.changes with
    | (at_, c) :: r => if at_ ≤ mltNs s then applyChange (modClp s fun k => { k with changes := r }) c else s
    | [] => s

/-- SLEW_END (R374): 2,000 × abs(θ) after its start a slew ends. -/
def execSlewEnd (s : State) : Out :=
  .next (if flag s clpB 27 ∧ s.clp.slewEnds ≤ mltNs s then applyChange s .slewEnd else s)

/-! ## The time root and its election (R369, R371) -/

/-- CLP_CTRL.SRC. -/
def srcSel (s : State) : Nat := fld s (clpB + 4) 29 2
/-- Whether a port is a PTP port: up, and not in LP1 or LP2 (R371). -/
def ptpPort (s : State) (d : Nat) : Bool := (portOf s d).phase == .up
/-- Whether any port of the module is a PTP port. -/
def anyPtp (s : State) : Bool := allDies.any (ptpPort s)
/-- Whether this module slaves to another (CLP_STAT.ROOT clear with a root port known). -/
def isSlave (s : State) : Bool := s.clp.rootPort.isSome

/-- This module's own data for the best master algorithm (R369, R371). -/
def ownMaster (s : State) : Master :=
  ⟨if srcSel s = 2 then fld s (clpB + 4) 8 8 else 0, if flag s (clpB + 4) 28 then 6 else 248, 0xFE, 0xFFFF,
   fld s (clpB + 4) 0 8, (Config.clockIdentity Config.serial).toNat, 0, 0⟩

/-- The order of the best master algorithm: priority1, class, accuracy, variance, priority2, identity, then steps removed. -/
def masterBetter (a b : Master) : Bool :=
  let ka := [a.prio1, a.cls, a.acc, a.var, a.prio2, a.ident, a.steps]
  let kb := [b.prio1, b.cls, b.acc, b.var, b.prio2, b.ident, b.steps]
  match (List.zip ka kb).find? (fun p => p.1 != p.2) with
  | some p => decide (p.1 < p.2)
  | none => false

/-- The best of the masters heard on PTP ports: its port and data. -/
def bestHeard (s : State) : Option (Nat × Master) :=
  (s.clp.masters.filter (fun p => ptpPort s p.1)).foldl
    (fun (a : Option (Nat × Master)) p =>
      match a with
      | none => some p
      | some q => if masterBetter p.2 q.2 then some p else a) none

/-- The election (R369): the module is root unless a better master is heard on a PTP port (DEDUCED, note 113). -/
def elect (s : State) : State :=
  let rp : Option Nat :=
    match bestHeard s with
    | some (d, m) => if masterBetter m (ownMaster s) then some d else none
    | none => none
  modClp s fun k => { k with rootPort := rp }

/-- The source is lost (R369): holdover with the last FREQ; a slew stops (R388); module event 7. -/
def sourceLoss (s : State) : State :=
  let s1 := if flag s clpB 27 then applyChange s .slewEnd else s
  moduleEvent (setFlag (setFlag s1 clpB 29 false) clpB 28 true) 7

/-- A measured θ is shown in CLP_OFFSET, in 1/16 ns, saturating (R389). -/
def showTheta (s : State) (th : Int) : State :=
  let v := max (-2147483648) (min 2147483647 (th / 4096))
  setRaw s (clpB + 0xC) (BitVec.ofInt 32 v)

/-- Units of 1/65,536 ns in a µs and a ms. -/
def usUnits : Int := 65536000
/-- Units of 1/65,536 ns in a ms. -/
def msUnits : Int := 65536000000

/-- The source answers: holdover is over, and LOCKED says whether θ is below 1 µs (R369; DEDUCED, note 31). -/
def lockedBy (s : State) (th : Int) : State :=
  setFlag (setFlag s clpB 29 (decide (-usUnits < th) && decide (th < usUnits))) clpB 28 false

/-- A step raised by a root (R374): a new epoch with EOFF + θ, announced and applied 256 ms later, or 2 µs later with no PTP
port up; a second one after the first (R388) (DEDUCED, note 38). -/
def raiseStep (s : State) (th : Int) : State :=
  let lead := if anyPtp s then 256000000 else 2000
  let last := s.clp.pending.getLast?
  let num : BitVec 16 := (match last with | some p => p.num | none => (epochNow s).num) + 1
  let at_ := max (mltNs s + lead) (match last with | some p => p.apply + 1 | none => 0)
  setFlag (modClp s fun k => { k with pending := k.pending ++ [⟨num, (epochNow s).eoff + th, at_⟩] }) clpB 26 true

/-- Whether a slave whose root is ahead by θ adopts the root's time: 1 ms or more, at its first lock since power-up or after MLTCONF (R374,
R376; DEDUCED, note 39). -/
def adopts (s : State) (th : Int) : Bool := decide (msUnits ≤ th) && (!s.clp.everLocked || flag s clpB 25)
/-- A slew that a new θ replaces by none ends (R374). -/
def endSlew (s : State) : State := if flag s clpB 27 then broadcast s .slewEnd else s

/-- What a new θ does, at a root or at a slave (R374). `re` is the root's epoch (R375). -/
def correct (s : State) (root : Bool) (th : Int) (re : Epoch) : State :=
  let s0 := showTheta s th
  let a := if th < 0 then -th else th
  if a < usUnits then
    modClp (broadcast (endSlew s0) (.freq (Config.servo th s0.clp.freq))) fun k => { k with everLocked := k.everLocked || !root }
  else if a < msUnits then broadcast s0 (.slew th)
  else if root then raiseStep (endSlew s0) th
  else if 0 < th then (if adopts s th then modClp (endSlew s0) fun k => { k with adopt := some (th, re) } else endSlew s0)
  else moduleEvent (setFlag (setFlag (setFlag (endSlew s0) clpB 25 true) clpB 28 true) clpB 29 false) 7

/-- PTM_DIALOGUE (R370): no answer counts a miss, the third in a row loses the source of a root with SRC = 1; an answer
(master time and link delay, ns) gives θ against device time less the host offset, which disciplines only such a root. -/
def execPtmDialogue (answer : Option (Nat × Nat)) (s : State) : Out :=
  .next <|
    match answer with
    | none =>
      let s1 := modClp s fun k => { k with misses := k.misses + 1 }
      if s1.clp.misses = 3 ∧ srcSel s = 1 ∧ ¬ isSlave s then sourceLoss s1 else s1
    | some (m, delay) =>
      let th : Int := ((m + delay) * 65536 : Nat) - ((devFrac s : Int) - s.clp.hostOffset)
      let s1 := modClp s fun k => { k with misses := 0 }
      if srcSel s = 1 ∧ ¬ isSlave s then lockedBy (correct s1 true th (epochNow s)) th else showTheta s1 th

/-! ## PTP over Vidonlink (R371, R372, R375) -/

/-- A signed number from `n` big-endian bytes at an offset. -/
def beInt (b : List Byte) (o n : Nat) : Int := signedOf (8 * n) (beNat ((b.drop o).take n))

/-- The 42-byte data field of the epoch TLV this clock sends (R372). -/
def epochTlv (s : State) : List Byte :=
  let p := s.clp.pending.head?
  let fl := b2n p.isSome + 2 * b2n (flag s (clpB + 4) 28)
  let ident := if isSlave s then s.clp.rootIdent else (Config.clockIdentity Config.serial).toNat
  beBytes 2 (epochNow s).num.toNat ++ beBytes 2 fl ++ beBytes 10 (encodeInt 80 (epochNow s).eoff)
    ++ beBytes 10 (match p with | some q => encodeInt 80 q.eoff | none => 0)
    ++ beBytes 8 (match p with | some q => q.apply | none => 0) ++ beBytes 8 ident ++ beBytes 2 0

/-- SYNC (R371): sent on a PTP port, or received there: a two-step Sync of the domain waits for its Follow_Up with its
arrival stamp (R358); a one-step Sync or another domain's is discarded. -/
def execSync (die : Die) (sent oneStep : Bool) (domain seq : Nat) (s : State) : Out :=
  .next <|
    if !ptpPort s die then s
    else if sent then
      let q := (mget {} s.clp.ptp die).txSeq
      send (modClp s fun k => { k with ptp := mmod {} k.ptp die fun p => { p with txSeq := (p.txSeq + 1) % 65536 } })
        (.ptp die 0 (fld s (clpB + 8) 0 7) q (devFrac s) [])
    else if oneStep || domain != fld s (clpB + 8) 0 7 then s
    else modClp s fun k => { k with ptp := mmod {} k.ptp die fun p => { p with syncSeq := some (seq, mltFrac s) } }

/-- The oldest pending epoch whose APPLY has come begins (R374, R375): device time moves, MLT does not. -/
def beginEpoch (s : State) : State :=
  match s.clp.pending with
  | p :: r =>
    if p.apply ≤ mltNs s then
      let s1 := modClp s fun k =>
        { k with
          pending := r
          epochs := (⟨p.num, p.eoff⟩ :: k.epochs).take 4
          dev := ((k.mlt : Int) + p.eoff * 2 ^ 24).toNat }
      setFlag (setFld s1 clpB 0 16 p.num.toNat) clpB 26 (!r.isEmpty)
    else s
  | [] => s
/-- The epoch data of the root's TLV taken by a slave (R375): TEPOCH and EOFF, and a pending epoch with its APPLY, which begins at once where it has
passed. -/
def takeEpoch (s : State) (tlv : List Byte) : State :=
  let e : Epoch := ⟨BitVec.ofNat 16 (beNat (tlv.take 2)), beInt tlv 4 10⟩
  let s1 :=
    if epochNow s = e then s
    else setFld (modClp s fun k => { k with epochs := (e :: k.epochs).take 4, dev := ((k.mlt : Int) + e.eoff * 2 ^ 24).toNat })
      clpB 0 16 e.num.toNat
  if byteAt tlv 3 % 2 = 1 then
    beginEpoch (setFlag (modClp s1 fun k => { k with pending := [⟨e.num + 1, beInt tlv 14 10, beNat ((tlv.drop 24).take 8)⟩] }) clpB 26 true)
  else setFlag (modClp s1 fun k => { k with pending := [] }) clpB 26 false

/-- FOLLOW_UP (R371, R372): sent after a Sync with this clock's own epoch TLV; received on the root's port after its Sync,
it gives the root's MLT at the Sync (origin time less EOFF, plus the link delay) and so θ, and the root's epoch data. -/
def execFollowUp (die : Die) (sent : Bool) (domain seq : Nat) (origin : Nat) (tlv : List Byte) (s : State) : Out :=
  if tlv.length ≠ 42 ∧ ¬ sent then .fault .illFormed
  else .next <|
    if !ptpPort s die then s
    else if sent then send s (.ptp die 1 (fld s (clpB + 8) 0 7) (((mget {} s.clp.ptp die).txSeq + 65535) % 65536) (devFrac s) (epochTlv s))
    else
      match (mget {} s.clp.ptp die).syncSeq with
      | none => s
      | some (q, arrived) =>
        if q ≠ seq ∨ domain ≠ fld s (clpB + 8) 0 7 ∨ s.clp.rootPort ≠ some die.val then s
        else
          let s1 := modClp s fun k =>
            { k with
              ptp := mmod {} k.ptp die fun p => { p with syncSeq := none }
              rootIdent := beNat ((tlv.drop 32).take 8) }
          let e : Epoch := ⟨BitVec.ofNat 16 (beNat (tlv.take 2)), beInt tlv 4 10⟩
          let th : Int := (origin : Int) - e.eoff + (mget {} s.clp.ptp die).delay - arrived
          let s2 := lockedBy (if adopts s th then s1 else takeEpoch s1 tlv) th
          correct s2 false th e

/-- PDELAY_REQ (R371, R359): the four stamps of a peer-delay exchange, in 1/65,536 ns, give the delay from the peer:
(RTT − ASYM) / 2, with VL_PLUMB_ASYM in units of 0.25 ps. -/
def execPdelayReq (die : Die) (t1 t2 t3 t4 : Int) (s : State) : Out :=
  .next <|
    if !ptpPort s die then s
    else
      let asym : Int := (raw s (vlB die + 0x24)).toInt * 16384 / 1000
      modClp s fun k => { k with ptp := mmod {} k.ptp die fun p => { p with delay := ((t4 - t1) - (t3 - t2) - asym) / 2 } }

/-- The data set this clock announces (R371): its own as a root, its master's as a slave one step further; priority1, class, accuracy, variance,
priority2, identity, steps removed, and the ptpTimescale flag (PRESUMED, note 161). -/
def announceData (s : State) : List Byte :=
  let m := match s.clp.rootPort.bind (fun d => mfind s.clp.masters d) with
    | some x => { x with steps := x.steps + 1 }
    | none => ownMaster s
  beBytes 1 m.prio1 ++ beBytes 1 m.cls ++ beBytes 1 m.acc ++ beBytes 2 m.var ++ beBytes 1 m.prio2 ++ beBytes 8 m.ident ++ beBytes 2 m.steps
    ++ beBytes 1 (b2n (flag s (clpB + 4) 28))
/-- ANNOUNCE (R371): sent, or received from a master of the domain: its data feed the election. -/
def execAnnounce (die : Die) (sent : Bool) (domain prio1 cls acc var prio2 ident steps : Nat) (s : State) : Out :=
  .next <|
    if !ptpPort s die then s
    else if sent then
      send (modClp s fun k => { k with announceSeq := (k.announceSeq + 1) % 65536 }) (.ptp die 2 (fld s (clpB + 8) 0 7) s.clp.announceSeq 0 (announceData s))
    else if domain ≠ fld s (clpB + 8) 0 7 then s
    else
      let s1 := modClp s fun k => { k with masters := mput k.masters die ⟨prio1, cls, acc, var, prio2, ident, steps, mltNs s⟩ }
      elect s1

/-- ANNOUNCE_RECEIPT_TIMEOUT (R369, R371): the master of the port is no longer heard; when no slave port hears one any
more, the source is lost; the election runs again. -/
def execAnnounceReceiptTimeout (die : Die) (s : State) : Out :=
  .next <|
    let s1 := modClp s fun k => { k with masters := mdel k.masters die }
    let s2 := elect s1
    if isSlave s ∧ ¬ isSlave s2 then sourceLoss s2 else s2

/-- EPOCH_APPLY (R374, R375). -/
def execEpochApply (s : State) : Out := .next (beginEpoch s)

/-- The tiles whose launch time a forward jump of MLT passes (R376). -/
def launchesPassed (s : State) (old new : Nat) : Nat :=
  (s.tiles.filter (fun e =>
    let q := e.2.seq
    (decide (old < q.notBefore) && decide (q.notBefore ≤ new)) || (q.evp && decide (old < q.launchTime) && decide (q.launchTime ≤ new)))).length

/-- ADOPTION (R376): the slave takes the root's MLT, device time, TEPOCH and EOFF, forward only; launches passed fire at
once and count in CLP_LATE. -/
def execAdoption (s : State) : Out :=
  .next <|
    match s.clp.adopt with
    | none => s
    | some (th, e) =>
      if th ≤ 0 then s
      else
        let old := mltNs s
        let s1 := modClp s fun k =>
          { k with
            mlt := ((k.mlt : Int) + th * 2 ^ 24).toNat % 2 ^ 104
            dev := ((k.mlt : Int) + th * 2 ^ 24 + e.eoff * 2 ^ 24).toNat
            epochs := (e :: (if k.epochs.head? = some e then k.epochs.drop 1 else k.epochs)).take 4
            adopt := none, everLocked := true }
        let s2 := setFlag (lockedBy (setFld s1 clpB 0 16 e.num.toNat) 0) clpB 25 false
        bump s2 (clpB + 0x2C) 0 32 (launchesPassed s old (mltNs s2))

/-! ## Host writes of time (R381) -/

/-- The staged value: SEC, NS and FRAC; SEC is signed over 48 bits with MODE 1. -/
def stagedValue (s : State) (relative : Bool) : Int :=
  let sec := fld s (clpB + 0x10) 0 32 + fld s (clpB + 0x14) 0 16 * 2 ^ 32
  let secI : Int := if relative then signedOf 48 sec else sec
  (secI * 1000000000 + fld s (clpB + 0x18) 0 32) * 65536 + fld s (clpB + 0x1C) 0 16

/-- CLP_SET_GO.GO (R381): the staged write waits for the later of AT and 2 µs from now; ignored with SETERR at a slave with
SRC = 2, while another waits, or with a reserved MODE. -/
def setGo (s : State) : State :=
  let mode := fld s (clpB + 0x28) 28 2
  if (srcSel s = 2 ∧ isSlave s) ∨ s.clp.set.isSome ∨ 1 < mode then setFlag s clpB 24 true
  else
    let at_ := fld s (clpB + 0x20) 0 32 + fld s (clpB + 0x24) 0 32 * 2 ^ 32
    setFlag (modClp s fun k =>
      { k with set := some ⟨mode == 1, stagedValue s (mode == 1) - (if mode = 0 then ((at_ * 65536 : Nat) : Int) else 0), max at_ (mltNs s + 2000)⟩ })
      (clpB + 0x28) 30 true

/-- TIME_WRITE_APPLY (R381): at its MLT the target is V + (MLT − AT), or the current time plus V; the difference is handled
as a root's θ, and with SRC = 1 it moves the host offset; a slave of any SRC only shows it (R369). -/
def execTimeWriteApply (s : State) : Out :=
  .next <|
    match s.clp.set with
    | none => s
    | some w =>
      if mltNs s < w.at_ then s
      else
        let th : Int := if w.relative then w.value else w.value + mltFrac s - devFrac s
        let s1 := setFlag (modClp s fun k => { k with set := none }) (clpB + 0x28) 30 false
        if isSlave s then showTheta s1 th
        else correct (modClp s1 fun k => { k with hostOffset := (if srcSel s = 1 then k.hostOffset + th else k.hostOffset) }) true th (epochNow s)

/-! ## Clock domains (R387) -/

/-- An event of R387 recorded in CLP_CDC_TO (DEDUCED, note 127). -/
def recordCdc (s : State) (die : Nat) (dom : Nat) : State :=
  let k := clpB + 0x30
  let s1 := setFlag (setFld (setFlag (setFld s k 21 4 (die % 16)) k 20 (decide (16 ≤ die))) k 15 5 dom) k 31 true
  bump s1 k 0 15 1

end Sys2Proof.Machine
end

