-- ==== Sys2Proof/Machine/LinkPort.lean ====
section
/-! DEFINITION. A Vidonlink port that sends, comes up, is lost or retired (14 R331, R334, R346, R352 to R357). -/

namespace Sys2Proof.Machine

/-- Every live request through a port ends with E_LINK_LOST, and every relayed one is answered with it (R353, R356). -/
def endThrough (s : State) (d : Nat) : State :=
  let s1 := allDies.foldl (fun a e => ((portOf a e).tags.filter (fun t => t.2.port == d)).foldl (fun a t => failTag a e t.1 0x12) a) s
  let rs := (portOf s1 d).relayed
  rs.foldl (fun a h => respond a d (pktOf h) 0x12 []) (modPort s1 d fun p => { p with relayed := [] })
/-- A port without its link: credits, replay buffer, frame numbers and buffers reset, no peer; the requester's tags and this
module's own packets stay. -/
def resetPort (s : State) (d : Nat) (ph : PortPhase) : State :=
  setFlag (modPort s d fun p =>
    { phase := ph, lanes := p.lanes, prevPeer := (if p.peerValid then some p.peerMod else p.prevPeer), tags := p.tags, gens := p.gens
      nextTag := p.nextTag, loop := p.loop, plumbRes := p.plumbRes, plumbBase := p.plumbBase, plumbNext := p.plumbNext, loggedAt := p.loggedAt, nover := p.nover })
    (vlR d 0x20) 31 false
/-- The route entries that name a port lose VALID on every die (19 R468). -/
def withdrawRoutes (s : State) (port : Nat) : State :=
  allDies.foldl (fun a d => (upTo 256).foldl (fun a m =>
    let k := vlR d (0x400 + 4 * m)
    if flag a k 31 ∧ fld a k 0 4 = port then setFlag a k 31 false else a) a) s
/-- A port declared lost (R353; 08 R208; 19 R468, R474, R477): its edge Sluices rise, its requests end, its books are reset, its
Cascade groups fail their epoch, a signature is exported. -/
def losePort (s : State) (d : Nat) : State :=
  let p := portOf s d
  let gs := groupsCross s d
  let s1 := raiseSluices s d [136 + 17, 136 + 18]
  let s2 := resetPort (endThrough (modPort s1 d fun p => { p with phase := .lost }) d) d .lost
  let s3 := gs.foldl (fun a g => failEpoch a g []) s2
  let s4 := faultSig s3 { fsid := 0x21, kind := 4, die := d, unit := d, code := 0x12, sev := 0, detail := leBytes 1 p.peerMod ++ leBytes 1 p.peerPort }
  withdrawRoutes (moduleEvent s4 6) d

/-- PORT_LOST (R353): 12 ms after recovery starts the port is not up. -/
def execPortLost (die : Die) (s : State) : Out :=
  .next <|
    match (portOf s die).recoverAt with
    | some t => if (portOf s die).phase = .recovery ∧ t + 12000000 ≤ mltNs s then losePort s die else s
    | none => s

/-- The end of a planned removal (R356): the traffic is drained, or 20 µs have passed: what remains is answered with E_LINK_LOST and
the port goes down without a lost event. -/
def endRetire (s : State) (d : Nat) : State :=
  let p := portOf s d
  match p.retireAt with
  | none => s
  | some t =>
    let busy := holdsTraffic p || !p.relayed.isEmpty || allDies.any (fun e => (portOf s e).tags.any (fun r => r.2.port == d))
    if busy && decide (mltNs s < t + 20000) then s
    else moduleEvent (resetPort (endThrough (modPort s d fun p => { p with phase := .down }) d) d .down) 6
/-- A planned removal starts at this end (R356): REMOVE is sent, new requests are refused. -/
def startRetire (s : State) (d : Nat) : State :=
  if (portOf s d).phase = .up then modPort s d fun p => { sendLc p [8] with refuse := true, retireAt := some (mltNs s) } else s
/-- REMOVE (R332, R356): the peer retires the link. -/
def execRemove (die : Die) (s : State) : Out :=
  withLc s die 8 fun _ s => modPort s die fun p => { p with refuse := true, retireAt := some (p.retireAt.getD (mltNs s)) }

/-- FRAME_SEND (R331, R334, R350, R354 to R356): in each codeword period a port that is up sends a frame, one that hunts its codewords a
null frame; a port that wakes waits for its exit time. Then a low-power state or the end of a removal may be due. -/
def execFrameSend (die : Die) (s : State) : Out :=
  .next <|
    let p := portOf s die
    if !portEn s die then s
    else match p.phase with
      | .up =>
        let ready := match p.wakeAt with | some (_, t) => decide (t ≤ mltNs s) | none => true
        if ready then endRetire (modPort (sendFrame s die) die enterLp) die else s
      | .training => if p.step = 5 then sendNull s die else s
      | .recovery => if trySwap p then sendFrame s die else if p.step = 5 then sendNull s die else s
      | _ => s

/-- The port is up (R346 step 6): after a training the credits, frame numbers, period and replay buffer begin anew; a recovery with
the same peer keeps its frames and resends them (R352, R357; DEDUCED, note 42). -/
def bringUp (s : State) (d : Nat) (fresh : Bool) : State :=
  let s1 := modPort s d fun p =>
    let q := { p with
      phase := .up, step := 6, period := 0, turn := 0, quietAt := mltNs s, recoverAt := none, recoverStep := 0, swap := none, peerValid := true, wakeAt := none
      peerMod := (p.peerSeen.getD (0, 0, 0)).1, peerPort := (p.peerSeen.getD (0, 0, 0)).2.1, peerVer := (p.peerSeen.getD (0, 0, 0)).2.2
      plumbBase := if p.fast then p.plumbBase else none, attempts := 0 }
    if fresh then
      { q with
        fseq := 0, kept := [], resendAt := none, expect := 0, discarding := false, ackWant := 0, sinceAck := 0, ackAt := mltNs s, heardAt := mltNs s, ackSeen := 1023
        outst := [], owed := [], txq := [], inPkt := [], rxq := [], genTurn := 0, csTurn := 0, relayed := [], refuse := false, retireAt := none }
    else q
  moduleEvent (if fresh then s1 else recovered s1 d) 6

/-- LINK_UP (R346, R348, R357): both groups have held 16 codewords. A peer of another module ID inside a recovery: the port is first
lost. -/
def execLinkUp (die : Die) (s : State) : Out :=
  .next <|
    let p := portOf s die
    let locked := decide (16 ≤ mget 0 p.cwGood 0) && decide (16 ≤ mget 0 p.cwGood 1)
    if p.step ≠ 5 ∨ !locked then s
    else match p.phase with
      | .training => bringUp s die true
      | .recovery =>
        if p.peerValid ∧ (p.peerSeen.getD (0, 0, 0)).1 ≠ p.peerMod then
          let s1 := losePort s die
          bringUp (modPort s1 die fun q => { q with peerSeen := p.peerSeen, pver := p.pver, spareUsed := p.spareUsed, lsMap := p.lsMap }) die true
        else bringUp s die false
      | _ => s

end Sys2Proof.Machine
end

