-- ==== Sys2Proof/Machine/Power.lean ====
section
/-! DEFINITION. Power: the supply and its pins, the governor and its clamps, thermal limits (20). -/

namespace Sys2Proof.Machine

/-! ## Loss of power (R479, R481) -/

/-- What stands when power good is withdrawn (R479): fuses, Keystone's store and slots, the flashes with the fault log and the
service records (18 R439, 19 R471), the VBAT key while VBAT is present (18 R447), the pins, host memory; every volatile state
of the module is lost (DEDUCED, note 50). -/
def powerLoss (s : State) : State :=
  let z := State.resetAs s.ks.madeB s.ks.memL48
  setFlag
    { z with
      pending := s.pending
      ks := { s.ks with
        queue := [], running := [], mailBusy := false, entropyOk := false, debug := false, grades := [],
        vbatKey := (if s.pwr.vbat then s.ks.vbatKey else none) }
      hub := { z.hub with
        bootFlash := s.hub.bootFlash, hubFlash := s.hub.hubFlash, retired := s.hub.retired, faults := s.hub.faults,
        faultSlot := s.hub.faultSlot, recordId := s.hub.recordId, repairs := s.hub.repairs, hardRepairs := s.hub.hardRepairs, journal := s.hub.journal }
      pwr := { s.pwr with good := false, enabled := false, quiet := 0, clamp := none, clampCause := 0, episode := false, hot := [], raising := false }
      host := s.host
      out := s.out
      fresh := s.fresh }
    pwrB 31 false

/-- ENLOOP_CLOSE (R483): the loop closes; after the debounce the controller is enabled where the input lies between 44 and
57 V (in 10 mV), and the rails come up, each port's CBL_3V3 only while its CPRS# is low (R481). -/
def execEnloopClose (volts : Nat) (s : State) : Out :=
  .next <| modPwr s fun p =>
    let ok := decide (4400 ≤ volts) && decide (volts ≤ 5700) && !p.tripped
    { p with loop := true, enabled := p.enabled || ok, cbl := (if p.enabled || ok then p.cprs else p.cbl) }

/-- ENLOOP_OPEN (R484, R491): the controller turns off as on a loss of input, and a thermal trip's latch ends. -/
def execEnloopOpen (s : State) : Out :=
  .next <| modPwr (powerLoss s) fun p => { p with loop := false, tripped := false, cbl := 0 }

/-- POWER_GOOD_WITHDRAWN (R479): every rail falls, every volatile state is lost. -/
def execPowerGoodWithdrawn (s : State) : Out := .next (powerLoss s)

/-- THERMAL_TRIP (R491): every rail off, THERMTRIP# latched until ENLOOP opens. -/
def execThermalTrip (s : State) : Out := .next (modPwr (powerLoss s) fun p => { p with tripped := true })

/-- SUPPLY_DROOP (R480): a suspect event on the die of the rail. -/
def execSupplyDroop (die : Die) (s : State) : Out := .next (suspect s die 5)

/-- CPRS_ASSERT (R497, R481): the cable shorts CPRS# low; CBL_3V3 of the port is on while VCBL is. -/
def execCprsAssert (port : Die) (s : State) : Out :=
  .next <| modPwr s fun p =>
    { p with cprs := p.cprs ||| (1 <<< port.val), cbl := (if p.enabled then p.cbl ||| (1 <<< port.val) else p.cbl) }

/-! ## The governor (R485 to R489) -/

/-- N of PWR_STAT. -/
def divN (s : State) : Nat := fld s pwrB 0 6
/-- NMAX (R486; 11 R276): 24 in stage B, 48 from stage C and while CK_TILE is raised between the two (DEDUCED, note 41). -/
def nMax (s : State) : Nat := if stageOf s = 3 ∨ cap s 5 ∨ s.pwr.raising then 48 else 24
/-- NMIN of PWR_CTRL. -/
def nMin (s : State) : Nat := fld s (pwrB + 4) 0 6
/-- The effective limit in W (R487). -/
def powerLimit (s : State) : Nat :=
  let l := fld s (pwrB + 4) 16 13
  if s.pwr.pwrred then min l (fld s (pwrB + 4) 8 8 * 25) else l

/-- N set, with GOV, the episode and its module event 8 (R488). -/
def setN (s : State) (n : Nat) : State :=
  let s1 := setFlag (setFld s pwrB 0 6 n) pwrB 30 (decide (n < nMax s))
  if n < nMax s then
    if s.pwr.episode then s1 else moduleEvent (modPwr s1 fun p => { p with episode := true }) 8
  else modPwr s1 fun p => { p with episode := false }

/-- CLK_FULL set as soon as the raise of R276 has brought CK_TILE to 1.2 GHz. -/
def clkDone (s : State) : State :=
  if s.pwr.raising ∧ divN s = 48 then setFlag (modPwr s fun p => { p with raising := false }) (cfgB + 4) 5 true else s

/-- A temperature register's new sample: HBM, TJ and its peak (R500). -/
def recordTemp (s : State) (i : Nat) (tj hbm : Nat) : State :=
  let k := pwrB + 0x100 + 4 * i
  setFld (setFld (setFld s k 0 8 (max (fld s k 0 8) tj)) k 8 8 tj) k 16 8 hbm

/-- The suspect event of a die as its junction or stack reaches 105 °C (R491): raised when the sample crosses it (DEDUCED, note 40). -/
def thermSuspect (s : State) (d tj hbm : Nat) : State :=
  let k := pwrB + 0x100 + 4 * d
  if (105 ≤ tj ∧ fld s k 8 8 < 105) ∨ (105 ≤ hbm ∧ fld s k 16 8 < 105) then suspect s d 6 else s

/-- Since when each junction has been at its shutdown limit of 110 °C (R491), in ns. -/
def hotSince (s : State) (tj : List Nat) : SMap Nat :=
  (upTo 17).filterMap (fun i => if 110 ≤ tj.getD i 0 then some (i, mget (mltNs s) s.pwr.hot i) else none)
/-- The samples of R485 recorded in the registers of R500. -/
def recordSample (s : State) (x : PwrSample) : State :=
  let s1 := setFld (setFld s (pwrB + 8) 16 16 x.volts) (pwrB + 8) 0 16 x.amps
  let s2 := setFld (setFld s1 (pwrB + 0xC) 0 16 x.watts) (pwrB + 0xC) 16 16 (max (fld s (pwrB + 0xC) 16 16) x.watts)
  let s3 := setFld (setFld (setFld s2 (pwrB + 0x10) 24 8 x.inlet) (pwrB + 0x10) 16 8 x.outlet) (pwrB + 0x10) 0 16 x.flow
  (upTo 17).foldl
    (fun a i =>
      let t := x.tj.getD i 0
      let h := if i < 16 then x.hbm.getD i 0 else 0
      recordTemp (if i < 16 then thermSuspect a i t h else a) i t h) (modPwr s3 fun p => { p with hot := hotSince s x.tj })

/-- The ceiling of a reason, floored at NMIN. -/
def ceilingOf (s : State) (on : Bool) (n : Nat) : Nat := if on then max n (nMin s) else 48

/-- GOVERNOR_INTERVAL (R485, R486): the sample is recorded, the reasons formed, and N lowered or raised by one (DESIGN CHOICE, note 120). -/
def execGovernorInterval (x : PwrSample) (s : State) : Out :=
  if x.tj.length ≠ 17 ∨ x.hbm.length ≠ 16 then .fault .illFormed
  else .next <|
    let s0 := recordSample s x
    let limit := powerLimit s
    let power := decide (limit < x.watts)
    let tj := x.tj.any (fun t => decide (95 ≤ t))
    let hbmt := x.hbm.any (fun t => decide (95 ≤ t))
    let vin := (decide (4400 ≤ x.volts) && decide (x.volts < 4800)) || (decide (5400 < x.volts) && decide (x.volts ≤ 5700))
    let inlet := decide (80 < x.inlet)
    let flow := decide (x.flow < 2500)
    let nInlet := 48 - 2 * ((x.inlet - 80 + 1) / 2)
    let nFlow := 48 * x.flow / 2500
    let nceil0 := min (min (nMax s) (ceilingOf s vin 36)) (min (ceilingOf s inlet nInlet) (ceilingOf s flow nFlow))
    let nceil := if s.pwr.clamp.isSome then min nceil0 24 else nceil0
    let s1 := [(27, vin), (26, power), (25, inlet), (24, flow), (23, tj), (22, hbmt)].foldl
      (fun a (p : Nat × Bool) => setFlag a pwrB p.1 p.2) s0
    let n := divN s
    let s2 :=
      if nceil < n ∨ power ∨ tj ∨ hbmt then
        setN (modPwr s1 fun p => { p with quiet := 0 }) (if nMin s < n then n - 1 else n)
      else
        let q := s.pwr.quiet + 50
        if 1000 ≤ q ∧ n < nceil ∧ x.watts + 100 ≤ limit then setN (modPwr s1 fun p => { p with quiet := 0 }) (n + 1)
        else setN (modPwr s1 fun p => { p with quiet := q }) n
    let s3 := clkDone s2
    if divN s3 < nMax s3 then bump s3 (pwrB + 0x14) 0 32 1 else s3

/-- The fast clamp (R487): N := min(N, 24), the quiet count restarts (R499). -/
def fastClamp (s : State) (cause : Nat) : State :=
  let s1 := modPwr s fun p => { p with clamp := some (mltNs s), clampCause := p.clampCause ||| (1 <<< cause), quiet := 0 }
  setN (setFlag s1 pwrB 29 true) (min (divN s) 24)

/-- FAST_CLAMP (R487): cause 0 the power over its limit by 10 %, 1 PWRRED#, 2 the input below 46 V. -/
def execFastClamp (cause : Fin 3) (s : State) : Out := .next (fastClamp s cause)

/-- CLAMP_RELEASE (R487): 1 ms after its cause ended and no sooner than 1 ms after it began; PWRRED# still asserted keeps it. -/
def execClampRelease (s : State) : Out :=
  .next <|
    match s.pwr.clamp with
    | none => s
    | some t =>
      if mltNs s < t + 1000000 ∨ (s.pwr.clampCause.testBit 1 ∧ s.pwr.pwrred) then s
      else setFlag (modPwr s fun p => { p with clamp := none, clampCause := 0 }) pwrB 29 false

/-- PWRRED_ASSERT (R487): the pin lowers the limit and clamps. -/
def execPwrredAssert (s : State) : Out :=
  .next (fastClamp (setFlag (modPwr s fun p => { p with pwrred := true }) pwrB 28 true) 1)

/-- PWRRED_RELEASE (R499): the limit returns to LIMIT. -/
def execPwrredRelease (s : State) : Out :=
  .next (setFlag (modPwr s fun p => { p with pwrred := false }) pwrB 28 false)

end Sys2Proof.Machine
end

