-- ==== Sys2Proof/Machine/Queues.lean ====
section
/-! DEFINITION. The queue processors: doorbells, descriptors, the Weir, dependences, cancellation, records; resets of the host
interface, the ABI and BAR4 (16; 11 R273). -/

namespace Sys2Proof.Machine

/-! ## Doorbells (R403) -/

/-- The context of a doorbell page of a link, where the link has the page (R392). -/
def pageCtx (s : State) (link : Fin 2) (page : Fin 4096) : Option Nat :=
  if twoLinks s then (if page.val < 2048 then some (page.val + 2048 * link.val) else none)
  else if link = 0 then some page.val else none
/-- A doorbell write (R403; 11 R273): before QUEUES it is discarded and counted; malformed, or to a context that is not ACTIVE, it is
dropped and counted; an index past the ring is a ring fault. -/
def doorbell (s : State) (link : Fin 2) (page : Fin 4096) (val : W32) (whole : Bool) (size : Nat → Nat) (put : Nat → Tc → Tc) : State :=
  match pageCtx s link page with
  | none => s
  | some n =>
    if !cap s 1 then bump s (cfgB + 0x1C) 0 32 1
    else if !whole || decide (65536 ≤ val.toNat) || (tcOf s n).phase != .active then bump s (qpB (ctxHome s n)) 12 4 1
    else if size n ≤ val.toNat then ringFault s n 3
    else modTc s n (put val.toNat)

/-- NORMAL_RING_TAIL (R403): `whole` says that it is an aligned write of 4 bytes. -/
def execNormalRingTail (link : Fin 2) (page : Fin 4096) (val : W32) (whole : Bool) (s : State) : Out :=
  .next (doorbell s link page val whole (fun n => ringSize s n false) (fun v t => { t with nTail := v }))
/-- EXPRESS_RING_TAIL (R403). -/
def execExpressRingTail (link : Fin 2) (page : Fin 4096) (val : W32) (whole : Bool) (s : State) : Out :=
  .next (doorbell s link page val whole (fun n => ringSize s n true) (fun v t => { t with xTail := v }))
/-- COMPLETION_RING_HEAD (R403). -/
def execCompletionRingHead (link : Fin 2) (page : Fin 4096) (val : W32) (whole : Bool) (s : State) : Out :=
  .next (doorbell s link page val whole (cqSize s) (fun v t => { t with cHead := v }))

/-! ## Descriptor faults (R406 to R409) -/

/-- Whether bytes of a descriptor are 0. -/
def dz (o : Op) (off n : Nat) : Bool := dF o off n == 0
/-- Whether an opcode is one of a list. -/
def opIn (o : Op) (l : List Nat) : Bool := l.contains (opcOf o)
/-- The common header (R406) and the fields that apply only where their operation uses them (R407). -/
def headOk (o : Op) : Bool :=
  !opFlag o 6 && dz o 30 2 && decide (dF o 24 2 ≤ 256) && decide (dF o 26 2 ≤ 256) && (!opFlag o 3 || opIn o [1, 3, 4]) &&
    (!opFlag o 4 || opIn o [1]) && (!opFlag o 2 || opIn o [1, 2]) && (opLaunch o == 0 || opIn o [1, 2])
/-- The fields of a body (R407): in range, and 0 where none is listed. -/
def bodyOk (o : Op) : Bool :=
  match opcOf o with
  | 1 => dF o 32 8 % 8 == 0 && decide (160 ≤ dF o 40 4) && decide (dF o 40 4 ≤ 262144) && dz o 48 16
  | 2 => decide (dF o 47 1 < 16) && decide (cscPath o ≤ 1) && decide (1 ≤ cscPieces o) && dz o 50 14 && !opFlag o 5
  | 3 => decide (dF o 52 4 < 2 ^ 25) && decide (dF o 59 1 < 128) && decide (dF o 60 1 < 16) && dz o 61 3 && genOk (genArgs o)
  | 4 => decide (dF o 40 4 < 2 ^ 25) && decide (2 ≤ smpV o) && decide (smpV o ≤ 2 ^ 24) && decide (dF o 44 2 < 2 ^ 13) && decide (1 ≤ smpRows o) &&
      decide (smpRows o ≤ 4096) && decide (4 ≤ smpFmt o) && decide (smpFmt o ≤ 6) && dz o 47 17
  | 5 =>
    let loc (dst : Bool) : Bool := cpKind o dst == 0 || decide (cpAddr o dst < 2 ^ 32)
    let rem (dst : Bool) : Bool := cpKind o dst != 2 || decide (cpPos o dst < 16)
    decide (1 ≤ cpLines o) && decide (cpLines o ≤ 2 ^ 24) && decide (dF o 52 1 < 16) && decide (cpKind o false ≤ 2) && decide (cpKind o true ≤ 2) &&
      loc false && loc true && rem false && rem true && decide (dF o 56 1 < 64) && dz o 57 7
  | 6 => decide (dF o 41 1 < 16) && decide (dF o 42 1 < 64) && decide (dF o 43 1 < 64) && dz o 44 20
  | 7 => decide (dF o 47 1 < 128) && decide (1 ≤ dF o 44 3) && decide (dF o 40 4 ≤ 2 ^ 22) && decide (656 ≤ dF o 40 4) && dz o 48 16
  | 8 => dz o 32 32
  | 9 => dF o 40 4 % 128 == 0 && dz o 44 20
  | 10 => decide (1 ≤ dF o 36 2) && decide (dF o 38 1 < 2) && dz o 39 25
  | 11 => dz o 32 32
  | 16 => true
  | _ => false
/-- The dispatch record (R409): its length, its ranges, its kernels' tile entries, and with replay enabled its extents (09 R222). -/
def recordOk (p : Partition) (o : Op) : Bool :=
  let kc := kCount o
  let tc := tCount o
  let ks := (upTo kc).map (kernelRec o)
  let ins := inExtents o
  let outs := outExtents o
  let nx := byteAt o.drec 10 + byteAt o.drec 11
  let meet (a b : Nat × Nat × Nat) : Bool := a.1 == b.1 && decide (a.2.1 < b.2.1 + b.2.2) && decide (b.2.1 < a.2.1 + a.2.2)
  let apart (a b : KernelRec) : Bool := decide (a.firstTile + a.tiles ≤ b.firstTile) || decide (b.firstTile + b.tiles ≤ a.firstTile)
  let pairs (i : Nat) : List (Nat × Nat) := (kernelTiles o i).map (fun e => (e.pos, e.lt))
  fieldLe o.drec 0 4 == 0x01000000 && decide (1 ≤ kc) && decide (kc ≤ 64) && decide (byteAt o.drec 10 ≤ 4) && decide (byteAt o.drec 11 ≤ 4) &&
    decide (1 ≤ tc) && decide (tc ≤ 4096) && fieldLe o.drec 14 18 == 0 && dF o 40 4 == 160 + 16 * kc + 48 * tc &&
    (upTo 8).all (fun i => if i < nx then fieldLe o.drec (32 + 16 * i + 1) 3 == 0 && fieldLe o.drec (32 + 16 * i + 12) 4 == 0
                           else fieldLe o.drec (32 + 16 * i) 16 == 0) &&
    ks.all (fun k => decide (1 ≤ k.words) && decide (k.words ≤ 4096) && decide (k.entry < k.words) && decide (k.firstTile + k.tiles ≤ tc)) &&
    (upTo kc).all (fun i => fieldLe o.drec (160 + 16 * i + 12) 4 == 0 && (upTo i).all (fun j => apart (kernelRec o i) (kernelRec o j)) &&
      (pairs i).length == (pairs i).eraseDups.length) &&
    (upTo tc).all (fun i => let b := 160 + 16 * kc + 48 * i; fieldLe o.drec (b + 2) 2 == 0 && fieldLe o.drec (b + 40) 8 == 0) &&
    !(p.replay && ins.any (fun a => outs.any (meet a)))
/-- The span positions an operation names. -/
def positions (o : Op) : List Nat :=
  match opcOf o with
  | 1 => (inExtents o ++ outExtents o).map (·.1) ++ (upTo (tCount o)).map (fun i => (tileRec o i).pos)
  | 3 => [(genArgs o).die]
  | 4 => [smpDie o]
  | 5 => (if cpKind o false = 1 then [cpPos o false] else []) ++ (if cpKind o true = 1 then [cpPos o true] else [])
  | 7 => [dF o 47 1 % 16]
  | _ => []
/-- Whether a KERNEL names a logical tile its partition does not own (R408; R5 for tiles the grade does not have). -/
def tileNotOwned (s : State) (p : Partition) (o : Op) : Bool :=
  opcOf o == 1 && (upTo (tCount o)).any (fun i =>
    let e := tileRec o i
    match spanDie p e.pos with
    | some d => !p.tiles.contains (ltKey d e.lt) || decide (lTiles s ≤ e.lt)
    | none => true)
/-- The launch time of a descriptor as MLT in ns (15 R377), rounded up; none for an epoch that is not retained (DEDUCED, note 91). -/
def launchOf (s : State) (o : Op) : Option Nat :=
  if opFlag o 5 then
    match s.clp.epochs.find? (fun e => e.num.toNat == dF o 2 2) with
    | none => none
    | some e =>
      if opLaunch o = 0 then some 0
      else
        let t : Int := ((opLaunch o * 65536 : Nat) : Int) - e.eoff
        some (if t ≤ 0 then 1 else (t.toNat + 65535) / 65536)
  else some (opLaunch o)
/-- The code of a faulty descriptor (R408) (DEDUCED, note 87). -/
def descFault (s : State) (o : Op) : Option (BitVec 8) :=
  match partOf s o.part with
  | none => some 0x10
  | some p =>
    if opcOf o = 16 then none
    else if !headOk o || !bodyOk o || (opcOf o == 1 && !recordOk p o) || (launchOf s o).isNone then some 0x22
    else if (positions o).any (fun n => (spanDie p n).isNone) || tileNotOwned s p o then some 0x10
    else none

/-! ## Fetching (R404, R412) -/

/-- Whether another ring stands before this one: an express ring with descriptors of a context of the same home die that can fetch,
before every normal ring (DEDUCED, note 86). -/
def expressAhead (s : State) (n : Nat) : Bool :=
  s.tcs.any (fun e => e.2.phase == .active && ctxHome s e.1 == ctxHome s n && decide (0 < pendingOf s e.1 true) && tagFree s e.1)
/-- The operation of a descriptor, as fetched. -/
def newOp (s : State) (n : Nat) (express : Bool) (b : List Byte) : Op :=
  let t := tcOf s n
  let pn := ((boundPart s n).filter (fun p => (partOf s p).isSome)).getD 64
  let o : Op :=
    { life := t.life, ctx := n, express := express, opseq := fetchedOf t express % 2 ^ 32, home := ctxHome s n, part := pn, desc := b
      fetchedAt := mltNs s, tagged := byteAt b 0 != 10, order := (match partOf s pn with | some p => p.fetched | none => 0) }
  if byteAt b 0 = 1 then { o with drec := hostRead s (dF o 32 8) (min (dF o 40 4) 262144) } else o
/-- A descriptor taken from its slot: an operation with the next OPSEQ, at the Weir, or complete where the descriptor is faulty; a
CANCEL waits at no Weir (DEDUCED, note 88). -/
def createOp (s : State) (n : Nat) (express : Bool) (b : List Byte) : State :=
  let o := newOp s n express b
  let k := opKey o.life n express o.opseq
  let o1 := { o with phase := if byteAt b 0 = 10 then .admitted else .fetched, launch := (launchOf s o).getD 0 }
  let s1 := modTc s n fun t => if express then { t with xFetched := t.xFetched + 1 } else { t with nFetched := t.nFetched + 1 }
  let s2 := bump (modPart s1 o.part fun p => { p with fetched := p.fetched + 1 }) (qpB o.home + 4) 0 32 1
  let s3 := { s2 with ops := mput s2.ops k o1 }
  match descFault s o with
  | some c => completeOp s3 k c
  | none => s3

/-- DESCRIPTOR_FETCH (R402, R404, R405, R412): the next descriptor of a ring is read, `ok` says whether the read came back (DEDUCED, note 82). -/
def execDescriptorFetch (ctx : Fin 4096) (express ok : Bool) (s : State) : Out :=
  .next <|
    let n := ctx.val
    let t := tcOf s n
    if t.phase ≠ .active ∨ pendingOf s n express = 0 ∨ !dieUp s (ctxHome s n) ∨ (!express ∧ expressAhead s n) then s
    else if !ok then ringFault s n 4
    else
      let z := ringSize s n express
      let f := fetchedOf t express
      let b := hostRead s (ringBase s n (if express then 0x18 else 0x10) + 64 * (f % z)) 64
      if byteAt b 0 ≠ 10 ∧ !tagFree s n then bump s (qpB (ctxHome s n) + 8) 0 32 1
      else if (byteAt b 1).testBit 7 ≠ ((f / z + 1) % 2 == 1) then ringFault s n (if express then 2 else 1)
      else createOp s n express b

/-! ## The Weir (R413) -/

/-- The charge of an operation in bytes. -/
def chargeOf (o : Op) : Nat :=
  match opcOf o with
  | 1 => 64 * (inExtents o).foldl (fun a e => a + e.2.2) 0
  | 3 => let g := genArgs o
         (match g.gmode with | 0 => 8 * g.count | 1 => ceilDiv g.count 8 | 2 => g.count | _ => g.count * ofmtBytes g.ofmt)
  | 4 => smpRows o * smpV o * (if smpFmt o = 6 then 4 else 2)
  | 5 => 64 * cpLines o
  | 6 => 64 * (byteAt o.desc 43 + 1)
  | 7 => dF o 40 4
  | _ => 0
/-- Operations of a context that wait at the Weir on a ring, before a sequence number. -/
def waitsBefore (s : State) (o : Op) : Bool :=
  s.ops.any (fun e => e.2.ctx == o.ctx && e.2.life == o.life && e.2.phase == .fetched &&
    ((e.2.express == o.express && decide (e.2.opseq < o.opseq)) || (e.2.express && !o.express)))

/-- WEIR_ADMISSION (R413): the oldest operation of a ring at the Weir, the express ring first, is admitted against both buckets. -/
def execWeirAdmission (ctx : Fin 4096) (express : Bool) (opseq : W32) (s : State) : Out :=
  .next <|
    match named s ctx express opseq with
    | none => s
    | some (k, o) =>
      if o.phase ≠ .fetched ∨ waitsBefore s o then s
      else
        let s1 := refill s ctx
        let t := tcOf s1 ctx
        let rate := fld s (tcB ctx + 0x2C) 0 16
        let brate := fld s (tcB ctx + 0x30) 0 20
        if (rate ≠ 0 ∧ t.opsTokens < 1000000) ∨ (brate ≠ 0 ∧ t.bytesTokens ≤ 0) then s1
        else
          let s2 := modTc s1 ctx fun t =>
            { t with
              opsTokens := if rate = 0 then t.opsTokens else t.opsTokens - 1000000
              bytesTokens := if brate = 0 then t.bytesTokens
                else max (t.bytesTokens - ((chargeOf o * 1000 : Nat) : Int)) (-((2 ^ 47 * 1000 : Nat) : Int)) }
          modOp s2 k fun o => { o with phase := .admitted }

/-! ## Dependences (R414) -/

/-- The code a dependence ended with: `none` while it has not completed; OK for none. -/
def depCode (s : State) (o : Op) (off : Nat) : Option (BitVec 8) :=
  let n := dF o off 2
  if n = 0 ∨ o.opseq < n then some 0
  else
    let k := opKey o.life o.ctx o.express (o.opseq - n)
    match opOf s k with
    | some d => if completed s k d then some d.code else none
    | none => some (mget 0 (tcOf s o.ctx).codes (codeKey o.life o.express (o.opseq - n)))
/-- Whether a dependence lets its dependents run. -/
def depRuns (c : BitVec 8) : Bool := c == 0 || c == 0x30 || c == 0x32

/-- OPERATION_READY (R414): an admitted operation whose dependences have completed. -/
def execOperationReady (ctx : Fin 4096) (express : Bool) (opseq : W32) (s : State) : Out :=
  .next <|
    match named s ctx express opseq with
    | none => s
    | some (k, o) =>
      if o.phase ≠ .admitted then s
      else match depCode s o 24, depCode s o 26 with
        | some a, some b =>
          if opFlag o 1 || (depRuns a && depRuns b) then modOp s k fun o => { o with phase := .ready }
          else completeOp s k 0x02
        | _, _ => s

/-- NOP_DESCRIPTOR (R407): completes OK once it is ready. -/
def execNopDescriptor (ctx : Fin 4096) (express : Bool) (opseq : W32) (s : State) : Out :=
  .next <|
    match named s ctx express opseq with
    | some (k, o) => if opcOf o = 11 ∧ o.phase = .ready then completeOp s k 0 else s
    | none => s

/-- CANCEL (R415): the operations FIRST to FIRST + COUNT − 1 of a ring of its context are cancelled; its record counts them. -/
def execCancel (ctx : Fin 4096) (express : Bool) (opseq : W32) (s : State) : Out :=
  .next <|
    match named s ctx express opseq with
    | none => s
    | some (k, o) =>
      if opcOf o ≠ 10 ∨ o.phase ≠ .ready then s
      else
        let ring := (dF o 38 1).testBit 0
        let tgt := (s.ops.filter (fun e => e.2.ctx == o.ctx && e.2.life == o.life && e.2.express == ring && e.1 != k &&
          decide ((e.2.opseq + 2 ^ 32 - dF o 32 4) % 2 ^ 32 < dF o 36 2))).map (·.1)
        let r := tgt.foldl (fun (a : State × Nat) t =>
          let open_ (s : State) : Bool := match opOf s t with | some x => !decided x | none => false
          let s1 := cancelOp a.1 t 0x01
          (s1, if open_ a.1 && !open_ s1 then a.2 + 1 else a.2)) (s, 0)
        completeOp (modOp r.1 k fun o => { o with info := { o.info with xaddr := BitVec.ofNat 32 r.2 } }) k 0

/-- OPERATION_TIMEOUT (R416): TIMEOUT ms after its fetch an operation before its decision ends with E_TIMEOUT. -/
def execOperationTimeout (ctx : Fin 4096) (express : Bool) (opseq : W32) (s : State) : Out :=
  .next <|
    match named s ctx express opseq with
    | none => s
    | some (k, o) =>
      let t := dF o 28 2
      if t = 0xFFFF ∨ mltNs s < o.fetchedAt + (if t = 0 then 10000 else t) * 1000000 then s else cancelOp s k 0x11

/-! ## Records and drained contexts (R405, R397) -/

/-- The oldest message record of a context written and its message acknowledged (R411). -/
def finishMessage (s : State) (n : Nat) (ok : Bool) : State :=
  match (tcOf s n).waiting with
  | [] => s
  | w :: r =>
    if !recordsGo s n ∨ !slotFree s n then s
    else if !ok then ringFault s n 5
    else
      let s1 := countRecord (putRecord (modTc s n fun t => { t with waiting := r }) n (messageRecord s n w)) n
      let q : Pkt := { typ := 3, dmod := 0, ddie := w.die, sdie := w.sdie, smod := w.smod, cls := w.cls, part := w.part, tag := w.tag, gen := w.gen, lines := w.lines, addr := w.addr }
      respond s1 w.die q 0 []

/-- COMPLETION_RECORD_WRITE (R405): of an operation that has completed, or of the oldest message that waits; `ok` says whether the
write reached host memory. -/
def execCompletionRecordWrite (ctx : Fin 4096) (target : Option (Bool × W32)) (ok : Bool) (s : State) : Out :=
  .next <|
    match target with
    | none => finishMessage s ctx ok
    | some (express, opseq) =>
      match named s ctx express opseq with
      | some (k, o) => if completed s k o then finishRecord s ctx k o ok else s
      | none => s

/-- CONTEXT_DRAIN_DONE (R397): a draining context whose operations have all completed is DISABLED. -/
def execContextDrainDone (ctx : Fin 4096) (s : State) : Out :=
  .next <|
    let t := tcOf s ctx
    if t.phase = .draining ∧ t.waiting = [] ∧ !s.ops.any (fun e => e.2.ctx == ctx.val && e.2.life == t.life) then
      modTc s ctx fun t => { t with phase := .disabled, errc := 0 }
    else s

/-! ## Resets of the host interface (R394) -/

/-- The registers of a link's ABI negotiation (R395, R396): link 1 reaches its own through its indirect pair (DEDUCED, note 85). -/
def abiB (link : Nat) : Nat := if link = 1 then ownB 1 + 0x20000 else hubB
/-- The host interface of a link reset (R394): its contexts are disabled, the records of operations in flight are discarded, its ABI
selection is cleared. -/
def linkReset (s : State) (link : Nat) : State :=
  if link = 1 ∧ !twoLinks s then s
  else
    let mine (n : Nat) : Bool := linkOf s n == link
    let off := s.tcs.foldl (fun (a : State) e =>
      if mine e.1 then
        let ws := e.2.waiting
        let a1 := setFlag (modTc a e.1 fun t => { t with phase := .disabled, errc := 0, pend := false, unsignalled := 0, firstUnsig := none, waiting := [] }) (tcB e.1) 31 false
        ws.foldl (fun a w => respond a w.die { typ := 3, dmod := 0, ddie := w.die, sdie := w.sdie, smod := w.smod, cls := w.cls, part := w.part, tag := w.tag, gen := w.gen, lines := w.lines, addr := w.addr } 0x10 []) a1
      else a) s
    let s1 := { off with ops := off.ops.map (fun e => if mine e.2.ctx then (e.1, { e.2 with discard := true }) else e) }
    setRaw (setRaw s1 (abiB link + 0x1024) 0xFFFFFFFF) (abiB link + 0x1020) 0

/-- PERST_ASSERT (R394). -/
def execPerstAssert (link : Fin 2) (s : State) : Out := .next (linkReset s link)
/-- FUNCTION_LEVEL_RESET (R394). -/
def execFunctionLevelReset (link : Fin 2) (s : State) : Out := .next (linkReset s link)
/-- HOT_RESET (R394). -/
def execHotReset (link : Fin 2) (s : State) : Out := .next (linkReset s link)
/-- LINK_DOWN (R394, R418): surprise removal of the host side included. -/
def execLinkDown (link : Fin 2) (s : State) : Out := .next (linkReset s link)

/-! ## The ABI (R395) -/

/-- The newest version of the module's list whose major and minor numbers are offered. -/
def abiCommon (s : State) (b : Nat) : Option W32 :=
  let offers := (upTo 4).map (fun n => raw s (b + 0x1000 + 4 * n))
  let mine := ((upTo 4).map (fun n => raw s (b + 0x1010 + 4 * n))).filter (fun (v : W32) => v != 0xFFFFFFFF && offers.any (fun (o : W32) => o != 0xFFFFFFFF && o >>> 16 == v >>> 16))
  mine.foldl (fun (a : Option W32) v => match a with | some x => if x < v then some v else some x | none => some v) none
/-- HUB_ABI_CTRL.GO (R395). -/
def negotiate (s : State) (link : Nat) : State :=
  let b := abiB link
  match abiCommon s b with
  | some v => setRaw (setRaw s (b + 0x1024) v) (b + 0x1020) (BitVec.ofNat 32 (2 ^ 30))
  | none =>
    faultSig (setRaw (setRaw s (b + 0x1024) 0xFFFFFFFF) (b + 0x1020) (BitVec.ofNat 32 (2 ^ 30 + 2 ^ 29)))
      { fsid := 0x41, kind := 7, die := 0x10, unit := link, code := 0x22, sev := 1, detail := leBytes 1 link ++ leBytes 4 (raw s (b + 0x1000)).toNat }

/-! ## BAR4 (R393) -/

/-- The line of the window a BAR4 offset names, where the window is on and the line is in the bank set. -/
def bar4Line (s : State) (off : Nat) : Option Nat :=
  let k := hubB + 0x1040
  let l := fld s k 0 6 * 2 ^ 24 + off / 64
  match partOf s (fld s k 20 6) with
  | some p => if flag s k 31 ∧ p.cur.span.testBit (fld s k 16 4) ∧ l < (bankList p.cur.banks).length * 2 ^ 24 then some l else none
  | none => none
/-- A read through BAR4 (R393; 11 R273): `n` bytes at an offset; a Completer Abort beyond the bank set, with the window off, before
QUEUES, or where a line cannot be read (DESIGN CHOICE, note 62). -/
def execBar4Read (link : Fin 2) (off : Fin 68719476736) (n : Fin 4097) (s : State) : Out :=
  .next <|
    let k := hubB + 0x1040
    let d := fld s k 16 4
    if !cap s 1 then send s (.abort link false)
    else match bar4Line s off, bar4Line s (off + (n.val - 1)) with
      | some l, some _ =>
        let r := readBytes s (fld s k 20 6) d l (off.val % 64) n
        if r.1 = 0 then send s (.readData link r.2) else send (eccSuspect s d r.1) (.abort link false)
      | _, _ => send s (.abort link false)
/-- A write through BAR4 (R393; 11 R273; 09 R235): bytes at an offset; beyond the bank set, or with the window off, it is discarded and
counted. -/
def execBar4Write (link : Fin 2) (off : Fin 68719476736) (bytes : List Byte) (s : State) : Out :=
  .next <|
    let k := hubB + 0x1040
    let d := fld s k 16 4
    if !cap s 1 then send s (.abort link true)
    else match bar4Line s off, bar4Line s (off + (bytes.length - 1)) with
      | some l, some _ =>
        let r := writeBytes s (fld s k 20 6) d l (off.val % 64) bytes
        if r.1 = 0 then r.2 else bump (eccSuspect r.2 d r.1) k 26 5 1
      | _, _ => bump s k 26 5 1

end Sys2Proof.Machine
end

