-- ==== Sys2Proof/Machine/Tap.lean ====
section
/-! DEFINITION. The Tap test, and the moves of tiles that it and a restore make (19 R460 to R464; 03 R89; 04 R108). -/

namespace Sys2Proof.Machine

/-- The register HLT_TAP_DIE_d. -/
def tapReg (d : Nat) : Nat := hltB + 0x100 + 4 * d
/-- The test of a tile begins (R462 step 5): it passes to the Tap test engine. -/
def beginTest (s : State) (d : Nat) (j : TapJob) : State :=
  let s1 := modTile s d j.pt fun t => { t with seq := { t.seq with status := .test, reqs := { t.seq.reqs with test := false } } }
  setFld (modHub s1 fun h => { h with taps := mput h.taps d { j with step := 5 } }) (tapReg d) 8 8 j.pt
/-- A role move that a test waits for, once made: the old tile is tested. -/
def tapMoved (s : State) (d : Nat) : State :=
  match mfind s.hub.taps d with
  | none => s
  | some j =>
    if 5 ≤ j.step then s
    else match j.lt, j.spare with
      | some lt, some sp => if (ptOf s d lt).map (·.1) = some sp then beginTest s d j else s
      | _, _ => s
/-- A role move that a test waits for, ended with E_VERSION (04 R108): the tile is not tested, and TAP_FORCE completes with the code. -/
def tapRefused (s : State) (d : Nat) : State :=
  match mfind s.hub.taps d with
  | none => s
  | some j =>
    let s1 := modHub s fun h => { h with taps := mdel h.taps d }
    match j.cmd with | some c => ksFinish s1 c 0x22 | none => s1
/-- A move, and what the test that waits for it makes of its outcome. -/
def moveFor (s : State) (d lt new : Nat) : State :=
  if moveRefused s d lt new then tapRefused (tryMove s d lt new) d else tapMoved (tryMove s d lt new) d
/-- The logical tile mapped onto a physical tile. -/
def ltOf (s : State) (d p : Nat) : Option Nat := (upTo 128).find? (fun n => match ptOf s d n with | some m => m.1 == p | none => false)
/-- A test due on a die that runs none (R461, R462): a spare is tested where it stands; the role of a mapped tile moves to the lowest free spare, at
once where it stands at a kernel boundary; without a spare it is not tested, and counted. -/
def startTap (s : State) (d : Nat) (j : TapJob) : State :=
  if s.hub.retired.contains (tileKey d j.pt) || !dieUp s d then (match j.cmd with | some c => ksFinish s c 0x10 | none => s)
  else match ltOf s d j.pt with
    | none => beginTest s d j
    | some lt =>
      match (freeSpares s d).head? with
      | none =>
        let s1 := bump s (tapReg d) 0 8 1
        match j.cmd with | some c => ksFinish s1 c (Config.refusalCode 0x40) | none => s1
      | some sp =>
        let s1 := modHub s fun h => { h with taps := mput h.taps d { j with lt := some lt, spare := some sp, step := 1 } }
        if (tileOf s d j.pt).part = none ∨ (tileOf s d j.pt).ended then moveFor s1 d lt sp else s1
/-- A test asked for: at most one at a time on a die, the others in the order asked. -/
def askTap (s : State) (d : Nat) (j : TapJob) : State :=
  if mhas s.hub.taps d then modHub s fun h => { h with tapQueue := h.tapQueue ++ [(d, j)] } else startTap s d j
/-- Tests that wait on a die, the first that can start started. -/
def nextTap : Nat → State → Nat → State
  | 0, s, _ => s
  | n + 1, s, d =>
    if mhas s.hub.taps d then s
    else match s.hub.tapQueue.find? (fun e => e.1 == d) with
      | none => s
      | some e => nextTap n (startTap (modHub s fun h => { h with tapQueue := delFirst (fun x => x.1 == d) h.tapQueue }) d e.2) d
/-- The test of a die abandoned, and those that wait: a fence wins (R468). -/
def abandonTap (s : State) (d : Nat) : State :=
  let js := (match mfind s.hub.taps d with | some j => [j] | none => []) ++ (s.hub.tapQueue.filter (fun e => e.1 == d)).map (·.2)
  let s1 := modHub s fun h => { h with taps := mdel h.taps d, tapQueue := h.tapQueue.filter (fun e => e.1 != d) }
  (js.filterMap (·.cmd)).foldl (fun a c => ksFinish a c 0x10) s1

/-- TAP_TEST_DUE (R461, R462): of a tile that is already waiting for its test, nothing is added. -/
def execTapTestDue (die : Die) (pt : PT) (s : State) : Out :=
  .next <|
    let same (e : Nat × TapJob) : Bool := e.1 == die.val && e.2.pt == pt.val
    let busy := match mfind s.hub.taps die with | some _ => true | none => false
    match s.hub.tapQueue.find? same with
    | some e => if busy then s else startTap (modHub s fun h => { h with tapQueue := delFirst same h.tapQueue }) die e.2
    | none => if (mfind s.hub.taps die).any (fun j => j.pt == pt.val) then s else askTap s die { pt := pt, due := mltNs s }

/-- TAP_FORCE (R464, R511): a test of one tile; NOGRACE skips the grace period. -/
def execTapForce (s : State) : Out :=
  .next <| ksHead s 0x40 fun c =>
    let d := ksByte c 0
    let p := ksByte c 2
    if 15 < d then ksEnd s c 0x22
    else if 135 < p ∨ s.hub.retired.contains (tileKey d p) ∨ !dieUp s d then ksEnd s c 0x10
    else
      let grace := fld s (hltB + 4) 0 16 * 1000000
      askTap (ksLater s c) d { pt := p, due := if (ksByte c 1).testBit 0 then mltNs s - grace else mltNs s, cmd := some (ksId c) }

/-- TAP_GRACE_EXPIRY (R462 step 2): GRACE ms after a test fell due with no kernel boundary, SAVE is delivered, to the save area named. -/
def execTapGraceExpiry (die : Die) (area : W32) (s : State) : Out :=
  .next <|
    match mfind s.hub.taps die with
    | none => s
    | some j =>
      if j.step ≠ 1 ∨ mltNs s < j.due + fld s (hltB + 4) 0 16 * 1000000 then s
      else
        let s1 := modTile s die j.pt (saveTile area.toNat)
        modHub s1 fun h => { h with taps := mput h.taps die { j with step := 2 } }

/-- TAP_TEST_RESULT (R460, R462, R463): the signature equals the fused one and the tile is a spare again, or it is retired, with a suspect
event, the retired list and a fault signature; TAP_FORCE is complete either way. -/
def execTapTestResult (die : Die) (signature : W64) (s : State) : Out :=
  .next <|
    let d := die.val
    match mfind s.hub.taps d with
    | none => s
    | some j =>
      if j.step ≠ 5 then s
      else
        let k := tileKey d j.pt
        let want := Config.tapSignature d j.pt
        let s1 := modTile (modHub s fun h => { h with taps := mdel h.taps d, lastTest := mput h.lastTest k (mltNs s) }) d j.pt fun t =>
          { t with seq := { t.seq with status := .idle } }
        let s2 :=
          if signature = want then modHub s1 fun h => { h with passed := if h.passed.contains k then h.passed else k :: h.passed }
          else
            let s2 := suspect (modHub s1 fun h => { h with passed := h.passed.filter (· != k), retired := h.retired ++ [k] }) d 3
            moduleEvent (faultSig s2 { fsid := 1, kind := 2, die := d, unit := j.pt, action := 3, sev := 0
                                       detail := leBytes 4 j.pt ++ leBytes 8 signature.toNat ++ leBytes 8 want.toNat }) 2
        let s3 := match j.cmd with | some c => ksFinish s2 c 0 | none => s2
        nextTap (s3.hub.tapQueue.length + 1) s3 d

/-- RESTORE (04 R108): the saved tile `pt` resumes in place, or its logical tile resumes on `target`; of an image of another version it
resumes with the context it kept. -/
def execRestore (die : Die) (pt target : PT) (s : State) : Out :=
  let d := die.val
  let t := tileOf s d pt.val
  if !t.saved then .next s
  else if target = pt then
    .next (if t.seq.status = .test then s else resumeAt s d pt.val ((restoredTile s d t).getD t))
  else
    match ltOf s d pt.val with
    | some lt => .next (moveFor s d lt target.val)
    | none => .next s

/-- TILE_MOVE (03 R89; R462 step 1). -/
def execTileMove (die : Die) (lt : Fin 128) (target : PT) (s : State) : Out := .next (moveFor s die.val lt.val target.val)

end Sys2Proof.Machine
end

