-- ==== Sys2Proof/Machine/Fence.lean ====
section
/-! DEFINITION. Fencing and return of a die, stopped clock domains, the shutdown limit (19 R464 to R468; 15 R387; 20 R491). -/

namespace Sys2Proof.Machine

/-! ## Fencing (19 R465, R466) -/

/-- The trigger code of a fence's signature. -/
def fenceCode : FenceCause → Nat
  | .command => 0 | .bringUp => 1 | .unmappable => 2 | .rootPll => 3 | .suspects => 4 | .temperature => 5

/-- The operations running or held on a fenced die (R466; 08 R208; 09 R223, R224, R239; 11 R282): ended with E_TARGET_OFF, also where it is the
original's die of a held operation; a replay on it of a run of another die, or in chain mode any replay, is a run that is not clean, and a held
operation of a chain that re-forms stays held; a CASCADE follows its epoch, a DIGEST and a critical command go on. -/
def fenceOps (s : State) (d : Nat) : State :=
  let hit (k : Nat) (o : Op) : Bool := (o.phase == .running || o.phase == .held) &&
    (opOnDie s k o d || (match o.runs.head? with | some r => r.die == d | none => false)) && !(opcOf o == 2 || opcOf o == 7 || opcOf o == 8 || opcOf o == 0x10)
  let s1 := (s.ops.filter (fun e => hit e.1 e.2)).foldl (fun a e =>
    match opOf a e.1 with
    | none => a
    | some o =>
      let chain := match partOf a o.part with | some p => p.cur.chain && (spanDies p).any (· != d) | none => false
      let other := match o.runs.head? with | some r => chain || r.die != d | none => false
      if other then
        (if o.phase = .running then modOp (stopTiles (leaveFtn a o.runDie e.1) e.1 (fun _ => false)) e.1 fun o => { o with badRun := true, finished := true } else a)
      else endRunning a e.1 0x10 o) s
  (dieOf s1 d).mortar.loads.foldl (fun a l => endOp (emptyRegion (dropLoad a d l.op) d l.region) l.op 0x10 id) s1

/-- A partition without a fenced die (R466). -/
def fencePart (p : Partition) (d : Nat) : Partition :=
  let off (t : Nat) : Bool := t / 128 != d
  let g := p.digest
  let odd := if g.odd.testBit d then g.odd - 2 ^ d else g.odd
  let p1 := { p with
    tiles := p.tiles.filter off, releasing := p.releasing.filter off, joining := p.joining.filter off
    clearing := p.clearing.filter (· != d), copying := p.copying.filter (· != d), copyTo := p.copyTo.filter (· != d)
    delDies := p.delDies.filter (· != d)
    digest := { g with pages := mdel g.pages d, weights := mdel g.weights d, leave := g.leave.filter (· != d), rejoin := g.rejoin.filter (· != d)
                       odd := odd, reload := g.reload && odd != 0 } }
  if (spanDies p).contains d then leaveSpan p1 d else p1

/-- The aliases a fence leaves, as its signature lists them: partition and alias (DESIGN CHOICE for the layout, note 72). -/
def aliasList (s : State) (d : Nat) : List Byte :=
  s.parts.flatMap (fun e => match mfind e.2.aliases d with | some a => leBytes 1 e.1 ++ leBytes 1 a | none => [])

/-- Whether a tile of a die is in steps 1 to 4 of a save (04 R109). -/
def savingOn (s : State) (d : Nat) : Bool := s.tiles.any (fun e => e.1 / 136 == d && isSaving e.2)
/-- A die fenced (R465 steps 1, 2 and 4; step 3 is SLUICE_DRAIN_EXPIRY, step 5 MEMBERSHIP_REBUILD, step 6 SLUICE_SAFE): the Sluices of its own
ports rise, those of its neighbours toward it and the hub's (12 R295) (DEDUCED, note 101). -/
def fenceNow (s : State) (d : Nat) (cause : FenceCause) : State :=
    let s0 := modDie (raiseSluices s d allPorts) d fun e => { e with hubSluice := if hubDies.contains d then raiseOne (mltNs s) e.hubSluice else e.hubSluice }
    let s1 := (neighbourPorts d).foldl (fun a n => if dieUp a n.1 then raiseSluices a n.1 n.2 else a) s0
    let s2 := (groupsOn s1 d).foldl (fun a g => failEpoch a g.1 g.2) s1
    let s3 := abandonTap (fenceOps s2 d) d
    let s4 := modDie { s3 with parts := s3.parts.map (fun e => (e.1, fencePart e.2 d)) } d fun e => { e with fenced := true }
    let home (o : Op) : Nat := if o.home = d then ((partOf s4 o.part).bind homeDie).getD d else o.home
    let s5 := { s4 with ops := s4.ops.map (fun e => (e.1, { e.2 with home := home e.2 })) }
    let s6 := faultSig s5 { fsid := 0x30, kind := 1, die := d, code := 0x10, action := 2, sev := 1, detail := leBytes 1 (fenceCode cause) ++ aliasList s5 d }
    let s7 := (s6.parts.map (·.1)).foldl settlePart (wantBoundaries (moduleEvent s6 1))
    (s7.parts.filter (fun e => e.2.deleting && e.2.delDies.isEmpty)).foldl (fun a e => dropPart a e.1) s7
/-- A die fenced, or where a tile of it is being saved, to be fenced once every save there has come to step 5 (04 R109). -/
def fenceDie (s : State) (d : Nat) (cause : FenceCause) : State :=
  if (dieOf s d).fenced then s
  else if savingOn s d then modHub s fun h => { h with fenceDue := mput h.fenceDue d cause }
  else fenceNow s d cause
/-- SAVE_COMPLETE (04 R107, R109; 05 R130): a fence that waited for the die's saves is made after the last. -/
def execSaveComplete (die : Die) (pt : PT) (s : State) : Out :=
  .next <|
    let s1 := saveComplete s die pt
    match mfind s1.hub.fenceDue die with
    | some c => if savingOn s1 die then s1 else fenceDie (modHub s1 fun h => { h with fenceDue := mdel h.fenceDue die }) die c
    | none => s1

/-- DIE_FENCE (R465, R468): of a die already fenced it changes nothing; it waits for the die's saves (04 R109). -/
def execDieFence (s : State) : Out :=
  .next <| ksHead s 0x41 fun c =>
    if 15 < ksByte c 0 then ksEnd s c 0x22
    else if savingOn s (ksByte c 0) ∧ dieUp s (ksByte c 0) then s
    else ksEnd (fenceDie s (ksByte c 0) .command) c 0

/-- The count of good tiles of a die: passed and not retired. -/
def goodTiles (s : State) (d : Nat) : Nat := ((upTo 136).filter (fun p => s.hub.passed.contains (tileKey d p))).length
/-- FENCE_DECISION (R464, R465): on more than four suspect events within 60 s, or for a logical tile that must leave its physical tile and
finds no free spare. -/
def execFenceDecision (die : Die) (lt : Option (Fin 128)) (s : State) : Out :=
  .next <|
    let d := die.val
    match lt with
    | some l =>
      if (ptOf s d l).isNone ∨ !(freeSpares s d).isEmpty ∨ !dieUp s d then s
      else fenceDie (faultSig s { fsid := 2, kind := 2, die := d, unit := (match ptOf s d l with | some m => m.1 | none => 0), action := 2, sev := 1
                                  detail := leBytes 1 l ++ leBytes 1 (goodTiles s d) }) d .unmappable
    | none =>
      if 4 < ((mget [] s.hub.suspects d).filter (fun t => decide (mltNs s < t + 60000000000))).length then fenceDie s d .suspects else s

/-! ## Return (19 R464, R467) -/

/-- A powered die ready to work: its tiles tested and mapped, its stack at the module's rate; the Sluices of what can answer open, its neighbours'
and the hub's toward it too (12 R296). -/
def reviveDie (s : State) (d : Nat) (good : List Nat) : State :=
  let full : SMap Bool := if cap s 6 then (upTo 32).map (fun c => (c, true)) else []
  let s3 := modDie s d fun e =>
    { e with fenced := false, powered := true, released := true, masked := false, hubSluice := {}
             mortar := baseMortar s, hbm := { trained := full.length, fast := full } }
  let s4 := modHub s3 fun h => { h with stopped := h.stopped.filter (fun x => x.1 != d), passed := good.map (tileKey d) ++ h.passed.filter (fun k => k / 136 != d) }
  let s5 := (neighbourPorts d).foldl (fun a n => if dieUp a n.1 then n.2.foldl (fun a p => openSluice a n.1 p) a else a) s4
  let s6 := (allPorts.filter (fun p => decide (p < 136) || canAnswer s5 d p)).foldl (fun a p => openSluice a d p) s5
  hardRepairs (((upTo (lTiles s)).zip good).foldl (fun a e => mapLt a d e.1 e.2) s6) d
/-- The physical tiles of a die that pass the quick test: not retired, and not among those that fail (DEDUCED, note 102). -/
def goodOnes (s : State) (d : Nat) (fails : List PT) : List Nat :=
  (upTo 136).filter (fun p => !s.hub.retired.contains (tileKey d p) && !fails.any (fun f => f.val == p))

/-- DIE_UNFENCE (R467, R468): once the die is powered down and no firmware roll runs, it is powered, tested and mapped, `fails` naming the tiles
that fail; a die that cannot map the logical tiles of the grade stays fenced. -/
def execDieUnfence (fails : List PT) (s : State) : Out :=
  .next <| ksHead s 0x42 fun c =>
    let d := ksByte c 0
    let rolling : Bool := match s.hub.fw with | some j => j.roll && j.step == 4 | none => false
    let good := goodOnes s d fails
    if 15 < d then ksEnd s c 0x22
    else if dieUp s d then ksEnd s c (Config.refusalCode 0x42)
    else if rolling || (dieOf s d).powered then s
    else if good.length < lTiles s then ksEnd s c 0x10
    else ksEnd (moduleEvent (reviveDie s d good) 1) c 0

/-! ## Stopped clocks and shutdown limits (15 R387; 20 R491) -/

/-- The operations with a tile on a die whose CK_TILE has stopped (15 R387): the tiles are spared, and the operations held where they are replayable, else
they end with E_TARGET_OFF (DEDUCED, note 107). -/
def clocklessOps (s : State) (d : Nat) : State :=
  let hit (k : Nat) : Bool := (tilesOfOp s k).any (fun x => x.1 == d)
  let s1 := (s.ops.filter (fun e => e.2.phase == .running && hit e.1)).foldl (fun a e =>
    if replayable a e.2 then modOp (stopTiles a e.1 (fun _ => false)) e.1 fun o => { o with badRun := true, finished := true }
    else endRunning a e.1 0x10 e.2) s
  { s1 with tiles := s1.tiles.map (fun t => if t.1 / 136 = d ∧ t.2.part.isSome then (t.1, { t.2 with ended := true, seq := { t.2.seq with status := .idle } }) else t) }
/-- What a stopped or timed-out domain does to the traffic that waits on it: port recovery, link-down, or its Sluices raised. -/
def domainOutcome (s : State) (die : Fin 17) (dom : Nat) : State :=
  if dom = 11 then linkReset (linkReset s 0) 1
  else if 16 ≤ die.val ∨ !dieUp s die then s
  else if dom = 9 then (if (portOf s die).phase = .up ∨ (portOf s die).phase = .lp1 ∨ (portOf s die).phase = .lp2 then startRecovery s die else s)
  else if (domainPorts s die dom).isEmpty then s
  else raiseSluices (if dom = 1 then clocklessOps s die else s) die (domainPorts s die dom)

/-- CLOCK_DOMAIN_STOPPED (R387; 09 R219; 19 R465): recorded, reported, a suspect event; of the root PLL on every die, and its die is fenced. -/
def execClockDomainStopped (die : Fin 17) (domain : Fin 18) (rootPll : Bool) (s : State) : Out :=
  .next <|
    let s1 := recordCdc (modHub s fun h => { h with stopped := if h.stopped.contains (die.val, domain.val) then h.stopped else h.stopped ++ [(die.val, domain.val)] }) die domain
    let s2 := if rootPll then allDies.foldl (fun a d => suspect a d 5) s1 else if die.val < 16 then suspect s1 die 5 else s1
    let s3 := faultSig s2 { fsid := 0x80, kind := if die.val < 16 then 1 else 0, die := die, unit := domain, sev := 1, detail := leBytes 4 (raw s2 (clpB + 0x30)).toNat }
    let s4 := domainOutcome s3 die domain
    if rootPll ∧ die.val < 16 then fenceDie s4 die .rootPll else s4

/-- Whether the hub's junction has been at its limit for 1 s. -/
def hubHot (s : State) : Bool := match mfind s.pwr.hot 16 with | some t => decide (t + 1000000000 ≤ mltNs s) | none => false
/-- SHUTDOWN_LIMIT (R491): a junction at 110 °C for 1 s: its die is fenced; of the hub, power good is withdrawn, and no fence made where both come to
their limits together (R499). -/
def execShutdownLimit (die : Fin 17) (s : State) : Out :=
  .next <|
    match mfind s.pwr.hot die with
    | none => s
    | some t =>
      if mltNs s < t + 1000000000 then s
      else if die.val < 16 ∧ !hubHot s then fenceDie s die .temperature
      else powerLoss s

end Sys2Proof.Machine
end

