-- ==== Sys2Proof/Machine/Firmware.lean ====
section
/-! DEFINITION. Firmware updates and their live activation, calibration slots, delivery of fault records (19 R469, R470, R473, R476). -/

namespace Sys2Proof.Machine

/-! ## The boot flash rewritten (R469; 11 R268) -/

/-- A directory entry: type, OFF0, LEN0, OFF1, LEN1. -/
structure DirEnt where
  typ : Nat
  off0 : Nat
  len0 : Nat
  off1 : Nat
  len1 : Nat
  deriving DecidableEq, Repr
/-- The entries of a directory. -/
def dirEnts (b : List Byte) : List DirEnt :=
  (upTo (min 64 (fieldLe b 20 4))).map (fun i =>
    let o := 32 + 32 * i
    ⟨byteAt b o, fieldLe b (o + 4) 4, fieldLe b (o + 8) 4, fieldLe b (o + 12) 4, fieldLe b (o + 16) 4⟩)
/-- A directory copy of 32,768 bytes with its CRC. -/
def dirBytes (seq active xen xto : Nat) (es : List DirEnt) : List Byte :=
  let ent (e : DirEnt) : List Byte := leBytes 4 e.typ ++ leBytes 4 e.off0 ++ leBytes 4 e.len0 ++ leBytes 4 e.off1 ++ leBytes 4 e.len1 ++ leBytes 12 0
  let b := padTo 32764 (ascii "NRV960BD" ++ leBytes 4 0x01000000 ++ leBytes 4 seq ++ leBytes 1 active ++ leBytes 1 xen ++ leBytes 2 xto ++ leBytes 4 es.length
    ++ leBytes 8 0 ++ es.flatMap ent)
  b ++ leBytes 4 (crc32 b)
/-- The images a full copy holds, in directory order: those of the bank in use and the new one in its place, or after the others. -/
def newImages (s : State) (typ : Nat) (b : List Byte) : List (Nat × List Byte) :=
  match dirUsed s with
  | none => [(typ, b)]
  | some i =>
    let dir := dirCopy s i
    let old := (dirEnts dir).map (fun e => (e.typ, if e.typ = typ then b else bankImage s dir e.typ (byteAt dir 16 % 2)))
    if old.any (fun e => e.1 == typ) then old else old ++ [(typ, b)]
/-- Where the images of a full copy lie in the bank, each from a 4 KiB sector on (DESIGN CHOICE, note 73): type, offset, bytes. -/
def placed (l : List (Nat × List Byte)) : List (Nat × Nat × List Byte) :=
  (l.foldl (fun (a : List (Nat × Nat × List Byte) × Nat) e => (a.1 ++ [(e.1, a.2, e.2)], a.2 + ceilDiv e.2.length 4096 * 4096)) ([], 0)).1
/-- The bank that is not ACTIVE. -/
def otherBank (s : State) : Nat := match dirUsed s with | some i => 1 - byteAt (dirCopy s i) 16 % 2 | none => 1
/-- The bank that is not ACTIVE made a full copy with the new image (R469 step 2). -/
def writeBank (s : State) (typ : Nat) (b : List Byte) : State :=
  let base := bankBase (otherBank s)
  let last := bankEnd (otherBank s)
  let s1 := modHub s fun h => { h with bootFlash := h.bootFlash.filter (fun e => !(decide (base ≤ e.1) && decide (e.1 < last))) }
  (placed (newImages s typ b)).foldl (fun a e => bootWrite a (base + e.2.1) (e.2.2.take (last - (base + e.2.1)))) s1
/-- Whether the full copy fits its bank (R268); what does not fit is not written, and so does not read back (DESIGN CHOICE, note 145). -/
def bankFits (s : State) (typ : Nat) (b : List Byte) : Bool :=
  (placed (newImages s typ b)).all (fun e => decide (bankBase (otherBank s) + e.2.1 + e.2.2.length ≤ bankEnd (otherBank s)))
/-- The directory copy of the lower SEQ, or the invalid one, rewritten with the other bank ACTIVE (R469 step 3). -/
def writeDir (s : State) (typ : Nat) (b : List Byte) : State :=
  let bank := otherBank s
  let pl := placed (newImages s typ b)
  let ent (old : List DirEnt) (e : Nat × Nat × List Byte) : DirEnt :=
    let o := (old.find? (fun x => x.typ == e.1)).getD ⟨e.1, 0, 0, 0, 0⟩
    if bank = 0 then { o with off0 := e.2.1, len0 := e.2.2.length } else { o with off1 := e.2.1, len1 := e.2.2.length }
  let x : Nat × List Byte := match dirUsed s with
    | some i =>
      let d := dirCopy s i
      (1 - i, dirBytes (dirSeq d + 1) bank (byteAt d 17) (fieldLe d 18 2) (pl.map (ent (dirEnts d))))
    | none => (0, dirBytes 1 bank 0 1 (pl.map (ent [])))
  bootWrite s (x.1 * 0x8000) x.2

/-! ## FW_UPDATE (R469, R470) -/

/-- PHASE, DIE and TYPE of HLT_FW_STAT. -/
def fwStat (s : State) (phase die typ : Nat) : State :=
  setFld (setFld (setFld s (hltB + 0x300) 29 3 phase) (hltB + 0x300) 24 4 die) (hltB + 0x300) 0 8 typ
/-- The update ends with a code, kept in the update journal (R471; module event 3 where a new image is in the flash). -/
def fwEnd (s : State) (j : FwJob) (code : BitVec 8) (written : Bool) : State :=
  let s1 := ksFinish (fwStat (modHub s fun h => { h with fw := none, journal := h.journal ++ [(j.typ, code.toNat)] }) 0 0 j.typ) j.cmd code
  if written then moduleEvent s1 3 else s1
/-- The image takes effect at the next power-up. -/
def fwLater (s : State) (j : FwJob) : State := fwEnd (setFlag s (hltB + 0x300) 28 true) j 0 true
/-- Why an update's image is refused in step 1 (11 R266; 18 R442): header faults, then the signature and the tag, then the pairs. -/
def fwFault (s : State) (c : KsCmd) (b : List Byte) : Option (BitVec 8) :=
  let t := ksByte c 0
  if t = 0 ∨ 6 < t ∨ 3 < ksByte c 1 ∨ fieldLe c.params 2 2 ≠ 0 ∨ 130048 * 1024 < fieldLe c.params 4 4 ∨ s.hub.fw.isSome ∨ !hdrOk t b then some 0x22
  else if !sigOk s.ks b ∨ (plainOf s.ks b).isNone then some 0x20
  else if !(checkPairs s b).1 then some 0x22 else none

/-- FW_UPDATE (R469): `finish` false carries out steps 1 and 2 of the command at Keystone's head, true step 3 of the update under way; `ok`
says that what was programmed into the flash reads back as written (DESIGN CHOICE, note 104). -/
def execFwUpdate (finish ok : Bool) (s : State) : Out :=
  .next <|
    if finish then
      match s.hub.fw with
      | none => s
      | some j =>
        if j.step ≠ 3 then s
        else if !ok then fwEnd s j 0x50 false
        else
          let s1 := writeDir s j.typ j.image
          if j.activate then fwStat (modHub s1 fun h => { h with fw := some { j with step := 4 } }) 4 0 j.typ else fwLater s1 j
    else ksHead s 0x01 fun c =>
      let b := hostRead s (fieldLe c.params 8 8) (min (fieldLe c.params 4 4) (130048 * 1024))
      match fwFault s c b with
      | some e => ksEnd (if e = 0x22 ∧ hdrOk (ksByte c 0) b ∧ s.hub.fw.isNone then (checkPairs s b).2 else s) c e
      | none =>
        let s0 := (checkPairs s b).2
        let j : FwJob := { typ := ksByte c 0, activate := (ksByte c 1).testBit 0, roll := (ksByte c 1).testBit 1, step := 3, image := b, cmd := ksId c }
        if !ok || !bankFits s j.typ b then ksEnd s0 c 0x50
        else ksLater (fwStat (modHub (writeBank s0 j.typ b) fun h => { h with fw := some j }) 3 0 j.typ) c

/-- Whether new firmware takes the handover block of the old (R470): it lists the block's version among its own interfaces. -/
def takesOver (s : State) (j : FwJob) : Bool :=
  match mfind s.hub.running j.typ with
  | some old => (ownIfs j.image).contains (Config.handover j.typ old)
  | none => true
/-- The new image runs. -/
def fwRun (s : State) (j : FwJob) : State := modHub s fun h => { h with running := mput h.running j.typ j.image }
/-- A die back in the partitions whose blocks name it (R470): its bank sets are cleared again, its tiles wait to join. -/
def rejoin (s : State) (d : Nat) : State :=
  let f (p : Partition) : Partition :=
    if p.blk.span.testBit d ∧ !(spanDies p).contains d ∧ !p.deleting then
      { p with joining := p.joining ++ (blkTiles p.blk).filter (fun t => t / 128 == d && !p.joining.contains t)
               clearing := if p.clearing.contains d then p.clearing else p.clearing ++ [d] }
    else p
  { s with parts := s.parts.map (fun e => (e.1, f e.2)) }
/-- A step of a shell roll (R470): the next die that is up is fenced, or the one that is out and powered down is brought back with the new
shell; after CD15 the update ends. -/
def rollStep (s : State) (j : FwJob) (fails : List PT) : State :=
  if j.rolling then
    if (dieOf s j.die).powered then s
    else
      let good := goodOnes s j.die fails
      let s1 := modHub s fun h => { h with fw := some { j with die := j.die + 1, rolling := false } }
      if good.length < lTiles s then s1 else rejoin (moduleEvent (reviveDie s1 j.die good) 1) j.die
  else match (allDies.filter (fun d => decide (j.die ≤ d) && dieUp s d)).head? with
    | none => fwEnd (fwRun s j) j 0 true
    | some d => fenceDie (fwStat (modHub s fun h => { h with fw := some { j with die := d, rolling := true } }) 4 d j.typ) d .command

/-- LIVE_ACTIVATION (R470): step 4 of an update, by the type of its image; in a roll, the next of its steps, `fails` naming the tiles that fail
the test of the die that returns. -/
def execLiveActivation (fails : List PT) (s : State) : Out :=
  .next <|
    match s.hub.fw with
    | none => s
    | some j =>
      if j.step ≠ 4 then s
      else match j.typ with
        | 3 => fwLater s j
        | 4 => if j.roll then rollStep s j fails else fwLater s j
        | _ => if takesOver s j then fwEnd (fwRun s j) j 0 true else fwEnd s j 0x22 true

/-! ## Calibration slots (R473) -/

/-- A calibration slot's bytes. -/
def calSlot (s : State) (i : Nat) : List Byte := flashRead s (i * 0x10000) 65536
/-- Whether a slot counts: its VALID word, its length and its CRC. -/
def calOk (b : List Byte) : Bool :=
  let n := fieldLe b 12 4
  fieldLe b 60 4 == 0x5A5AA5A5 && b.take 8 == ascii "NRV960CL" && decide (n ≤ 65472) && fieldLe b 16 4 == crc32 (b.take 16 ++ (b.drop 64).take n)
/-- The slot in force: the counting one of the higher SEQ. -/
def calUsed (s : State) : Option Nat :=
  let ok (i : Nat) : Bool := flashRead s (i * 0x10000 + 60) 4 == leBytes 4 0x5A5AA5A5 && calOk (calSlot s i)
  match ok 0, ok 1 with
  | true, true => some (if fieldLe (calSlot s 0) 8 4 < fieldLe (calSlot s 1) 8 4 then 1 else 0)
  | true, false => some 0
  | false, true => some 1
  | false, false => none
/-- CALIBRATION_WRITE (R473): at most once an hour, into the slot that is not in force, the VALID word last; `whole` false leaves a write that a
power loss tore before it. -/
def execCalibrationWrite (data : List Byte) (whole : Bool) (s : State) : Out :=
  if 65472 < data.length then .fault .illFormed
  else .next <|
    if (match s.hub.calLast with | some t => decide (mltNs s < t + 3600000000000) | none => false) then s
    else
      let used := calUsed s
      let slot := match used with | some i => 1 - i | none => 0
      let seq := match used with | some i => fieldLe (calSlot s i) 8 4 + 1 | none => 1
      let h := ascii "NRV960CL" ++ leBytes 4 seq ++ leBytes 4 data.length
      let base := slot * 0x10000
      let s1 := (upTo 16).foldl (fun a i => sectorErase a (base / 4096 + i)) (modHub s fun u => { u with calLast := some (mltNs s) })
      let s2 := flashWrite (flashWrite s1 base (h ++ leBytes 4 (crc32 (h ++ data)) ++ leBytes 40 0)) (base + 64) data
      if whole then moduleEvent (setFlag (setFlag (flashWrite s2 (base + 60) (leBytes 4 0x5A5AA5A5)) (hltB + 0x308) 31 (slot == 1)) (hltB + 0x308) 29 false) 10
      else s2

/-! ## The host log (R476) -/

/-- FAULT_RECORD_DELIVERY (R476): the oldest record not delivered is written to slot HEAD of the host ring, or waits while the ring is full
(DEDUCED, note 105). -/
def execFaultRecordDelivery (s : State) : Out :=
  .next <|
    let z := 2 ^ fld s (hltB + 0x408) 24 4
    let head := fld s (hltB + 0x40C) 0 12
    let base := (raw s (hltB + 0x400)).toNat + (raw s (hltB + 0x404)).toNat * 2 ^ 32
    match s.hub.faults.find? (fun r => !r.delivered) with
    | none => s
    | some r =>
      let put (f : FaultRec → FaultRec) : State := modHub s fun h => { h with faults := updFirst (fun x => x == r) f h.faults }
      if !flag s (hltB + 0x408) 31 then s
      else if (head + 1) % z = fld s (hltB + 0x410) 0 12 % z then
        (if r.delayed then s else bump (put fun x => { x with delayed := true }) (hltB + 0x408) 0 16 1)
      else
        let s1 := hostWrite (put fun x => { x with delivered := true }) (base + 512 * (head % z)) (flashRead s (flogAddr r.slot) 512)
        moduleEvent (setFld s1 (hltB + 0x40C) 0 12 ((head + 1) % z)) 0

end Sys2Proof.Machine
end

