-- ==== Sys2Proof/Machine/Bringup.lean ====
section
/-! DEFINITION. Bring-up: power good, the stages and their entry, the DONE lines, configuration requests (11 R269 to R277; 20 R481). -/

namespace Sys2Proof.Machine

/-! ## Power good (20 R481; 18 R447, R455; 19 R473) -/

/-- Whether a calibration slot was torn: it does not count and is not erased. -/
def calTorn (s : State) (i : Nat) : Bool :=
  s.hub.hubFlash.any (fun e => decide (i * 0x10000 ≤ e.1) && decide (e.1 < (i + 1) * 0x10000)) && !calOk (calSlot s i)
/-- The calibration slot in force at power-up (19 R473). -/
def readCal (s : State) : State :=
  let s1 := if calTorn s 0 || calTorn s 1 then setFlag s (hltB + 0x308) 30 true else s
  match calUsed s with
  | some i => setFlag s1 (hltB + 0x308) 31 (i == 1)
  | none =>
    faultSig (setFlag s1 (hltB + 0x308) 29 true)
      { fsid := 0x70, kind := 6, die := 0x10, sev := 0, detail := flashRead s 8 4 ++ flashRead s 0x10008 4 }

/-- POWER_GOOD (20 R481; R274 steps 1 and 2): the rails are in regulation; the straps are read, `split` x8 bifurcation, `vbat` whether VBAT is
present; the counters are those of Keystone's store, the KEYSRC fuse takes effect, and a key it selects that is absent is reported. -/
def execPowerGood (split : Bool) (addr : BitVec 2) (vbat : Bool) (s : State) : Out :=
  .next <|
    if !s.pwr.enabled ∨ s.hub.started then s
    else
      let s1 := setFlag (modPwr s fun p => { p with good := true, split8 := split, addr := addr, vbat := vbat }) pwrB 31 true
      let s2 := modKs (modHub s1 fun h => { h with started := true }) fun k => { readCounters k with keysrcNow := k.keysrc }
      readCal (setFlag s2 cfgB 28 (imageKey s2.ks).isNone)

/-! ## Stage A (R267, R269, R274 steps 3 to 5) -/

/-- The directory chosen (R269) reported in CFG_BOOT and CFG_DONE; with XDONE_EN = 1 the module drives its external DONE pin low (R271). -/
def readDir (s : State) (octal : Bool) : State :=
  match dirUsed s with
  | none => s
  | some i =>
    let b := dirCopy s i
    let s1 := setFlag (setFlag (setFlag s (cfgB + 8) 31 (i == 1)) (cfgB + 8) 30 (byteAt b 16 % 2 == 1)) (cfgB + 8) 28 octal
    let xen := (byteAt b 17).testBit 0
    let s2 := setFlag (setFlag (setFld s1 (cfgB + 8) 0 16 (dirSeq b)) (cfgB + 0xC) 30 xen) (cfgB + 0xC) 31 (flag s1 (cfgB + 0xC) 31 && !xen)
    modHub s2 fun h => { h with xdoneDriven := xen, xdoneTo := fieldLe b 18 2 }
/-- Keystone's and the module manager's firmware loaded: whether each passes. -/
def loadFirst (s : State) (octal : Bool) : Bool × Bool × State :=
  let k := loadBase (readDir s octal) 1
  if k.1 then let m := loadBase k.2 2; (true, m.1, m.2) else (false, false, k.2)
/-- The time of entry of a stage in CFG_TSTAGE (0 A, 1 B, 2 C). -/
def stamp (s : State) (i : Nat) : State := setRaw s (cfgB + 0x10 + 4 * i) (BitVec.ofNat 32 (sincePg s))

/-- STAGE_A_ENTRY (R274 steps 4 and 5): both firmwares verified; `octal` says that the flash lists 8D-8D-8D mode. -/
def execStageAEntry (octal : Bool) (s : State) : Out :=
  .next <|
    if !s.hub.started ∨ s.hub.entered then s
    else match loadFirst s octal with
      | (true, true, s1) => stamp (setFlag (setFld (modHub s1 fun h => { h with entered := true }) cfgB 30 2 1) (cfgB + 4) 0 true) 0
      | _ => s

/-- RECOVERY_STAGE_A (R267, R269, R272; 18 R440): a flash that cannot be used, no valid directory, or a firmware that fails in both banks; the
ROM serves where Keystone's own fails. -/
def execRecoveryStageA (usable octal : Bool) (s : State) : Out :=
  .next <|
    if !s.hub.started ∨ s.hub.entered then s
    else if !usable then modHub s fun h => { h with entered := true, romServes := true }
    else match loadFirst s octal with
      | (true, true, _) => s
      | (k, _, s1) => modHub s1 fun h => { h with entered := true, romServes := !k }

/-- CONFIGURATION_REQUEST (R273): Request Retry Status until a stage is entered, the answer of hard logic from then on. -/
def execConfigurationRequest (link : Fin 2) (s : State) : Out :=
  .next (if link = 1 ∧ !twoLinks s then s else send s (.config link (!s.hub.entered)))

/-! ## Stage B (R269 to R274, R277; 19 R472) -/

/-- Whether a copy of an image passes all but its version pairs. -/
def copyOk (s : State) (t : Nat) : Bool :=
  match dirUsed s with
  | some i => flashImageOk s.ks t (bankImage s (dirCopy s i) t 0) || flashImageOk s.ks t (bankImage s (dirCopy s i) t 1)
  | none => false
/-- The check of R266 and R442 a base image fails in the bank that is tried last, as its signature names it: 1 the header, 2 the signature block, 3 the tag or the
frames; 0 no image there (DESIGN CHOICE for the codes, note 72). -/
def failingCheck (s : State) (t : Nat) : Nat :=
  match dirUsed s with
  | none => 0
  | some i =>
    let b := bankImage s (dirCopy s i) t (1 - byteAt (dirCopy s i) 16 % 2)
    if b.isEmpty then 0 else if !hdrOk t b then 1 else if !sigOk s.ks b then 2 else 3
/-- A base image of types 0x03 to 0x06 loaded: a pair that fails in both banks is a version hold (R277, R472), any other failure is reported. -/
def loadLater (s : State) (t : Nat) : Bool × State :=
  match loadBase s t with
  | (true, s1) => (true, s1)
  | (false, s1) =>
    if copyOk s t then (false, moduleEvent (modHub s1 fun h => { h with verHold := true }) 4)
    else (false, faultSig s1 { fsid := 0x31, kind := 6, die := 0x10, unit := t, code := 0x22, action := 5, sev := 1, detail := leBytes 1 t ++ leBytes 1 (failingCheck s t) })
/-- A die fenced at bring-up: its bit of BOOTFENCE, its drive of internal DONE masked (R269, R270). -/
def bootFence (s : State) (d : Nat) : State :=
  modDie (setFlag (fenceDie s d .bringUp) cfgB d true) d fun e => { e with masked := true }
/-- Steps 7 and 8 on a die: the first 32 tiles that pass the quick test take LT0 to LT31. -/
def dieStepB (s : State) (d : Nat) (bad : Bool) (fails : List PT) : State :=
  let good := (goodOnes s d fails).take 32
  if bad || decide (good.length < 32) then bootFence s d
  else
    let s1 := modDie s d fun e => { e with powered := true, released := true, mortar := baseMortar s, runnel := { e.runnel with sluices := regionsClosed e.runnel.sluices } }
    let s2 := modHub s1 fun h => { h with passed := good.map (tileKey d) ++ h.passed }
    hardRepairs (((upTo 32).zip good).foldl (fun a e => mapLt a d e.1 e.2) s2) d
/-- The tiles of a die among those that fail. -/
def failsOn (d : Nat) (l : List (Die × PT)) : List PT := (l.filter (fun e => e.1.val == d)).map (·.2)

/-- INTERNAL_DONE (R270; R274 steps 6 to 9): the shells and the processors' firmware are loaded, `shells` naming the dies on which the shell
fails, `bad` those on which a processor's firmware fails, and `fails` the tiles that fail the quick test; a die that fails is fenced (R269). Without the
hub shell, or without the shell on every die, or held by a pair that stage B needs, internal DONE stays low. -/
def execInternalDone (bad : List Die) (fails : List (Die × PT)) (s : State) (shells : List Die := []) : Out :=
  .next <|
    if stageOf s ≠ 1 ∨ flag s (cfgB + 0xC) 29 ∨ s.hub.verHold then s
    else
      let r3 := loadLater s 3
      let r4 := loadLater r3.2 4
      let r5 := loadLater r4.2 5
      let r6 := loadLater r5.2 6
      let s1 := r6.2
      let held5 := !r5.1 && copyOk s 5
      let held6 := !r6.1 && copyOk s 6
      if !r3.1 || !r4.1 || held5 || allDies.all (fun d => shells.any (fun b => b.val == d)) then s1
      else
        let none_ := !r5.1 || (!r6.1 && !held6)
        let hub := fabricOf ((plainOf s1.ks (mget [] s1.hub.running 3)).getD [])
        let s2 := allDies.foldl (fun a d => dieStepB a d (none_ || (shells ++ bad).any (fun b => b.val == d)) (failsOn d fails)) (modHub s1 fun h => { h with fabric := hub })
        let s3 := if held6 then setFlag s2 cfgB 29 true else s2
        modHub (setRaw s3 (cfgB + 0xC) (raw s3 (cfgB + 0xC) ||| 0x2001FFFF)) fun h => { h with idoneAt := some (sincePg s), xdoneDriven := false }

/-- Stage B entered: QUEUES and REGIONS set. -/
def enterB (s : State) : State := stamp (setFlag (setFlag (setFld s cfgB 30 2 2) (cfgB + 4) 1 true) (cfgB + 4) 2 true) 1
/-- Whether internal DONE is high and stage B is still to come; whether XDONE_EN = 1. -/
def awaitsB (s : State) : Bool := stageOf s == 1 && flag s (cfgB + 0xC) 29
/-- EXTERNAL_DONE_HIGH (R271): the pin has been high for 1 µs, which the module's own drive rules out; CFG_DONE shows its level (R283), and a
module that waits for it enters stage B. No event of the table makes the pin fall but the module's own drive (DESIGN CHOICE, note 146). -/
def execExternalDoneHigh (s : State) : Out :=
  .next <|
    if s.hub.xdoneDriven then s
    else
      let s1 := setFlag s (cfgB + 0xC) 31 true
      if awaitsB s && flag s (cfgB + 0xC) 30 then enterB s1 else s1
/-- XDONE_TIMEOUT (R271): XDONE_TO × 100 ms after internal DONE the module enters stage B alone. -/
def execXdoneTimeout (s : State) : Out :=
  .next <|
    match s.hub.idoneAt with
    | some t => if awaitsB s && flag s (cfgB + 0xC) 30 && decide (t + s.hub.xdoneTo * 100000 ≤ sincePg s) then enterB (setFlag s cfgB 27 true) else s
    | none => s
/-- STAGE_B_ENTRY (R271, R274 step 10): with XDONE_EN = 0 stage B is entered when internal DONE is high. -/
def execStageBEntry (s : State) : Out := .next (if awaitsB s && !flag s (cfgB + 0xC) 30 then enterB s else s)

/-! ## From stage B to stage C (R276) -/

/-- The remaining tiles of a die tested and LT32 and above mapped; a die that cannot map the logical tiles of the grade is fenced (19 R464). -/
def fillDie (s : State) (d : Nat) (fails : List PT) : State :=
  let was (p : Nat) : Bool := s.hub.passed.contains (tileKey d p)
  let good := (goodOnes s d fails).filter (fun p => !was p)
  let s1 := modHub s fun h => { h with passed := good.map (tileKey d) ++ h.passed }
  let lts := (upTo (lTiles s)).filter (fun n => (ptOf s d n).isNone)
  if (freeSpares s1 d).length < lts.length then
    fenceDie (faultSig s1 { fsid := 2, kind := 2, die := d, action := 2, sev := 1, detail := leBytes 1 (lts.headD 0) ++ leBytes 1 (goodTiles s1 d) }) d .unmappable
  else mapLts s1 d lts
/-- TILES_FULL (R276). -/
def execTilesFull (fails : List (Die × PT)) (s : State) : Out :=
  .next <|
    if stageOf s ≠ 2 ∨ cap s 4 then s
    else setFlag ((allDies.filter (dieUp s)).foldl (fun a d => fillDie a d (failsOn d fails)) s) (cfgB + 4) 4 true
/-- CLK_FULL (R276; 20 R486, R499): NMAX becomes 48 and the governor raises N a step at a time; the item is done where N has reached 48 (DEDUCED,
note 41). -/
def execClkFull (s : State) : Out :=
  .next (if stageOf s ≠ 2 ∨ cap s 5 then s else clkDone (setN (modPwr s fun p => { p with raising := true }) (divN s)))
/-- FMT_WIDE (R276). -/
def execFmtWide (s : State) : Out := .next (if stageOf s ≠ 2 then s else setFlag s (cfgB + 4) 3 true)
/-- HBM_FULL (R276): every channel of every die that is up runs at 7.68 Gb/s; one that failed its training keeps it clear (13 R319). -/
def execHbmFull (s : State) : Out :=
  .next (if stageOf s = 2 ∧ (allDies.filter (dieUp s)).all (fun d => (upTo 32).all (fun c => mget false (dieOf s d).hbm.fast c)) then setFlag s (cfgB + 4) 6 true else s)
/-- VIDON (R276): no port is still in its training; a version hold of the link processor keeps it clear (R277). -/
def execVidon (s : State) : Out :=
  .next (if stageOf s = 2 ∧ !s.hub.verHold ∧ (allDies.filter (dieUp s)).all (fun d => (portOf s d).phase != .training) then setFlag s (cfgB + 4) 7 true else s)
/-- STAGE_C_ENTRY (R274 step 11, R276): every item is complete. -/
def execStageCEntry (s : State) : Out :=
  .next (if stageOf s = 2 ∧ !s.hub.verHold ∧ [3, 4, 5, 6, 7].all (cap s) then stamp (setFld s cfgB 30 2 3) 2 else s)

end Sys2Proof.Machine
end

