-- ==== Sys2Proof/Machine/Plumb.lean ====
section
/-! DEFINITION. The samples of a Plumb measurement and its end (14 R359, R360, R362). -/

namespace Sys2Proof.Machine

/-- One complete sample added; after 1,024 samples of every lane the measurement ends (R360), and is reported to the surveys that
wait for it (R362). -/
def plumbAdd (s : State) (d : Nat) (q : PlumbRun) (ab ba : List Int) : State :=
  let need := (List.range 9).filter (fun i => decide (mget 0 q.counts i < 1024))
  let q1 := need.foldl (fun (a : PlumbRun) i =>
    { a with
      counts := mput a.counts i (mget 0 a.counts i + 1)
      ab := mput a.ab i (mget 0 a.ab i + ab.getD i 0)
      ba := mput a.ba i (mget 0 a.ba i + ba.getD i 0) }) { q with waiting := false, baPending := [] }
  if (List.range 9).all (fun i => decide (1024 ≤ mget 0 q1.counts i)) then
    let r := plumbResult q1
    let s1 := setFlag (setFlag (modPort s d fun p => { p with plumb := none, plumbRes := some r }) (vlR d 0x20) 31 false) (vlR d 0x20) 30 true
    q.surveys.foldl (fun a n => sendReport a d n (surveyReport a d (some r))) s1
  else modPort s d fun p => { p with plumb := some q1 }

/-- PLUMB_TS (R359): the nine receive stamps of the period, in 1/65,536 ns of device time, are returned as offsets from its
time stamp; they are also this side's raw delays of the reverse direction. A side that measures nothing sends its own stamp
so that the peer can complete its sample. -/
def execPlumbTs (die : Die) (stamps : List Int) (s : State) : Out :=
  if stamps.length ≠ 9 then .fault .illFormed
  else withLc s die 6 fun b s =>
    let ts : Int := (fieldLe b 8 8 : Nat)
    let off := stamps.map (fun x => x - ts)
    let s1 := modPort s die fun p => sendLc p ([7, 0, 0, 0] ++ (b.drop 4).take 4 ++ off.flatMap (fun x => leBytes 4 (encodeInt 32 x)))
    match (portOf s1 die).plumb with
    | some q => modPort s1 die fun p => { p with plumb := some { q with baPending := off } }
    | none => sendTs s1 die

/-- PLUMB_RPT (R359): the peer's nine stamps of this side's period complete the sample. -/
def execPlumbRpt (die : Die) (s : State) : Out :=
  withLc s die 7 fun b s =>
    match (portOf s die).plumb with
    | some q =>
      if q.waiting ∧ fieldLe b 4 4 = q.sentPeriod ∧ q.baPending.length = 9 then
        plumbAdd s die q ((List.range 9).map (fun i => signedOf 32 (fieldLe b (8 + 4 * i) 4))) q.baPending
      else s
    | none => s

end Sys2Proof.Machine
end

