-- ==== Sys2Proof/Machine/RegMap.lean ====
section
/-! DEFINITION. The register map (17 R425 to R434): the fields of every register by access type (00 R14), what a read returns where
the value is the state of a unit, and where an access goes. -/

namespace Sys2Proof.Machine

/-! ## Fields by access type (00 R14) -/

/-- The bits of a register that are not RO or reserved, by type. A stored W1S bit is a LOCK bit; any other W1S bit starts something and
reads 0. -/
structure RegMask where
  rw : Nat := 0
  w1c : Nat := 0
  w1s : Nat := 0
  rc : Nat := 0
  rwl : Nat := 0
  wm : Bool := false
  deriving DecidableEq, Repr

/-- Every bit. -/
def allBits : Nat := 0xFFFFFFFF

/-- HUB_ (17 R438, 16 R396). -/
def hubMask (o : Nat) : Option RegMask :=
  if o = 8 then some { w1c := 0xC0000000 }
  else if o = 0xC then some { wm := true }
  else if offIn o 0 4 6 ∨ offIn o 0x40 4 6 then some {}
  else if offIn o 0x1000 4 4 then some { rw := allBits }
  else if o = 0x1020 then some { w1s := 2 ^ 31 }
  else if offIn o 0x1010 4 4 ∨ o = 0x1024 then some {}
  else if o = 0x1040 then some { rw := 0x83FF003F, rc := 0x7C000000 }
  else none
/-- KS_ (18 R459). -/
def ksMask (o : Nat) : Option RegMask :=
  if offIn o 0x100 4 16 then some { rw := allBits }
  else if o = 0x140 then some { w1s := 2 ^ 31, w1c := 2 ^ 29 }
  else if o = 0x320 then some { rc := allBits }
  else if o = 0 ∨ offIn o 0x200 4 8 ∨ offIn o 0x300 4 6 then some {}
  else none
/-- CLP_ (15 R389). -/
def clpMask (o : Nat) : Option RegMask :=
  if o = 0 then some { w1c := 2 ^ 24 }
  else if o = 4 then some { w1s := 2 ^ 31, rwl := 0x7000FFFF }
  else if o = 8 then some { rw := 0x3FF007F }
  else if o = 0x14 ∨ o = 0x1C then some { rw := 0xFFFF }
  else if offIn o 0x10 4 6 then some { rw := allBits }
  else if o = 0x28 then some { w1s := 2 ^ 31, rw := 0x30000000 }
  else if o = 0x2C then some { rc := allBits }
  else if o = 0x30 then some { w1c := 2 ^ 31, rc := 0x7FFF }
  else if o = 0xC ∨ o = 0x34 then some {}
  else none
/-- CFG_ (11 R283). -/
def cfgMask (o : Nat) : Option RegMask :=
  if o = 0 then some { w1c := 2 ^ 27 }
  else if offIn o 4 4 6 then some {}
  else if o = 0x1C then some { rc := allBits }
  else none
/-- HLT_ (09 R240, 19 R478). -/
def hltMask (o : Nat) : Option RegMask :=
  if o = 0 then some { w1c := 0xFFFF }
  else if o = 4 then some { w1s := 2 ^ 31, rwl := 0xFFFFFF }
  else if offIn o 0x100 4 16 then some { rc := 0xFF }
  else if o = 0x304 ∨ o = 0x308 then some { w1c := 2 ^ 30 }
  else if o = 0x400 ∨ o = 0x404 then some { rw := allBits }
  else if o = 0x408 then some { rw := 0x8F000000, rc := 0xFFFF }
  else if o = 0x410 then some { rw := 0xFFF }
  else if o = 0x2000 then some { w1s := 2 ^ 31, rwl := 0x6000FFFF }
  else if offIn o 0x2100 4 32 ∨ o = 0x2300 ∨ o = 0x2304 ∨ o = 0x2500 then some { rc := allBits }
  else if offIn o 0x2200 4 16 then some { w1c := 0x1FF }
  else if o = 0x2600 then some { w1c := 2 ^ 31 }
  else if o = 0x200 ∨ o = 0x300 ∨ o = 0x40C ∨ offIn o 0x2400 4 64 ∨ o = 0x2604 ∨ o = 0x2608 then some {}
  else none
/-- PWR_ (20 R494). -/
def pwrMask (o : Nat) : Option RegMask :=
  if o = 4 then some { w1s := 2 ^ 31, rwl := 0x1FFFFF3F }
  else if o = 0xC then some { rc := 0xFFFF0000 }
  else if o = 0x14 then some { rc := allBits }
  else if offIn o 0x100 4 17 then some { rc := 0xFF }
  else if o = 0 ∨ o = 8 ∨ o = 0x10 then some {}
  else none
/-- The table entry of a context (16 R400). -/
def tcMask (o : Nat) : Option RegMask :=
  if o = 0 then some { rw := 0x8FE00000, w1s := 2 ^ 30, w1c := 2 ^ 20 }
  else if o = 4 then some { rw := 0x800FFFFF }
  else if o = 8 then some { rw := 0x1F1F1F00 }
  else if o = 0xC then some { rw := 0xE7FFFFFF }
  else if o = 0x10 ∨ o = 0x18 ∨ o = 0x20 then some { rw := 0xFFFFF000 }
  else if o = 0x28 then some { rw := 0xFFFFF000 }
  else if o = 0x30 ∨ offIn o 0x14 8 3 ∨ o = 0x2C ∨ offIn o 0x34 4 3 then some { rw := allBits }
  else none
/-- QP_, RUN_, HBM_ (16 R424, 12 R302, 13 R320). -/
def dieMaskA (o : Nat) : Option RegMask :=
  if o = 0 then some { rc := 0xF000 }
  else if o = 4 ∨ o = 8 then some { rc := allBits }
  else if o = 0x10000 then some { rc := 0xFFFF }
  else if o = 0x10100 then some { w1s := 2 ^ 31, rw := 0x3FF }
  else if offIn o 0x10010 4 5 ∨ offIn o 0x10030 4 2 ∨ offIn o 0x10104 4 4 ∨ offIn o 0x10140 4 16 ∨ offIn o 0x10200 4 16 then some {}
  else if o = 0x20000 ∨ o = 0x20008 then some {}
  else if o = 0x20004 then some { w1s := 2 ^ 31, rwl := 0xFFFFFFF }
  else if offIn o 0x2000C 4 3 then some { rc := allBits }
  else if o = 0x20018 then some { w1c := 2 ^ 31 }
  else if o = 0x2001C then some { rc := 0xFF }
  else none
/-- VL_ (14 R364). -/
def vlMask (o : Nat) : Option RegMask :=
  if o = 0 then some { w1c := 2 ^ 26 }
  else if o = 4 then some { rw := 0xC000FF00, w1s := 0x30000000 }
  else if o = 8 then some {}
  else if o = 0xC then some { rw := 0x3FF }
  else if o = 0x10 then some { w1s := 2 ^ 31, rw := 0x1FFF }
  else if o = 0x14 then some { rc := allBits }
  else if o = 0x18 then some { w1s := 2 ^ 31, rw := 0x4000FFFF }
  else if o = 0x1C then some { w1s := 2 ^ 31, rw := 0x40FFFFFF }
  else if o = 0x20 then some { w1c := 0x60000000 }
  else if o = 0x24 then some { rw := allBits }
  else if o = 0x28 then some { rw := 0xFFFF }
  else if offIn o 0x40 4 9 then some { rc := 0xFFFF }
  else if offIn o 0x80 4 5 then some {}
  else if offIn o 0x400 4 256 then some { rw := 0x8000000F }
  else none
/-- MOR_, CSC_, FTN_ (10 R260, 08 R212, 07 R191), offsets from the MOR_ block. -/
def dieMaskB (o : Nat) : Option RegMask :=
  if o = 0 then some { w1c := 0x60000000 }
  else if o = 4 then some { rw := 0xFFFFFF }
  else if o = 8 then some { rw := 0xF }
  else if offIn o 0x100 4 8 then some { rc := 0xFFFF }
  else if offIn o 0x200 4 8 then some { rc := allBits }
  else if offIn o 0x300 4 4 then some {}
  else if o = 0x10000 then some { w1c := 0x60000000 }
  else if offIn o 0x10004 4 3 then some { rc := allBits }
  else if offIn o 0x10100 4 128 then some {}
  else if o = 0x20000 then some {}
  else if o = 0x20004 then some { rc := allBits }
  else if o = 0x20008 then some { w1c := 0x1F }
  else if o = 0x2000C ∨ o = 0x20010 ∨ o = 0x20018 then some { rw := allBits }
  else if o = 0x20014 then some { rw := 0xFFFFFF }
  else none
/-- A die's window. -/
def dieMask (o : Nat) : Option RegMask :=
  if o < 0x30000 then dieMaskA o else if o < 0x40000 then vlMask (o % 0x10000) else if o < 0x70000 then dieMaskB (o % 0x40000) else none
/-- MT_ (03 R90, 21 R508). -/
def mtMask (o : Nat) : Option RegMask :=
  if offIn o 0x400 4 408 then some { rc := allBits }
  else if offIn o 0 4 128 ∨ offIn o 0xA60 4 136 then some {}
  else none
/-- SEQ_ (05 R150). -/
def seqMask (o : Nat) : Option RegMask :=
  if offIn o 0 16 136 then some { w1c := 2 ^ 25 }
  else if offIn o 4 16 136 then some { w1c := 2 ^ 31 }
  else if offIn o 8 16 136 then some { rc := 0x3FFF }
  else none
/-- IND_ at 0, WIDE_ at 0x1000, the MSI-X table at 0x8000 and its pending bits at 0x10000 of a requester (17 R433, R436; 16 R391); the
second ABI bank at 0x20000. -/
def ownMask (o : Nat) : Option RegMask :=
  if o = 0 then some { rw := 0xFFF0FFFC }
  else if o = 4 then some {}
  else if o = 0x1000 then some { rw := 0xFF0F003F }
  else if o = 0x1004 then some { rw := allBits }
  else if o = 0x1008 then some { w1s := 2 ^ 31, w1c := 2 ^ 27 }
  else if offIn o 0x1040 4 16 then some {}
  else if 0x8000 ≤ o ∧ o < 0x10000 ∧ o % 4 = 0 then
    some { rw := if o % 16 = 12 then 1 else if o % 16 = 0 then 0xFFFFFFFC else allBits }
  else if offIn o 0x10000 4 64 then some {}
  else if 0x20000 ≤ o ∧ o < 0x40000 then hubMask (o % 0x20000)
  else none
/-- The fields of the register with a key; none for a reserved location. -/
def fieldsOf (k : Nat) : Option RegMask :=
  if k < 0x10000 then hubMask k
  else if k < 0x20000 then ksMask (k % 0x10000)
  else if k < 0x30000 then clpMask (k % 0x10000)
  else if k < 0x40000 then cfgMask (k % 0x10000)
  else if k < 0x50000 then hltMask (k % 0x10000)
  else if k < 0x60000 then pwrMask (k % 0x10000)
  else if 0x100000 ≤ k ∧ k < 0x140000 then tcMask (k % 64)
  else if 0x2000000 ≤ k ∧ k < 0x4000000 then dieMask (k % 0x200000)
  else if 0x10000000 ≤ k ∧ k < 0x10200000 then
    (let o := k % 0x20000
     if o < 0x10000 then mtMask o else seqMask (o % 0x10000))
  else if 0x20000000 ≤ k ∧ k < 0x20300000 then ownMask (k % 0x100000)
  else none

/-! ## What a read returns -/

/-- The word of a register with some of its fields taken from the state of a unit. -/
def viewOver (s : State) (k keep v : Nat) : Nat := ((raw s k).toNat &&& keep) ||| v

/-- HUB_FWVER_n (17 R438). -/
def viewHub (s : State) (k : Nat) : Nat :=
  if offIn k 0x40 4 6 then (match mfind s.hub.running ((k - 0x40) / 4 + 1) with | some b => imgVer b | none => 0xFFFFFFFF)
  else (raw s k).toNat

/-- KS_STAT, KS_CMD_CTRL.BUSY, KS_SLOT_s, KS_SVN_t (18 R459). -/
def viewKs (s : State) (o : Nat) : Nat :=
  let k := s.ks
  if o = 0 then
    b2n k.owned * 2 ^ 31 + b2n k.keysrc * 2 ^ 30 + b2n s.hub.romServes * 2 ^ 29 + b2n k.entropyOk * 2 ^ 28 + b2n k.debug * 2 ^ 27
      + k.rootRevoked % 16 * 2 ^ 20 + k.queue.length % 32
  else if o = 0x140 then viewOver s (ksB + 0x140) 0x200000FF (b2n (k.mailBusy || decide (16 ≤ k.queue.length)) * 2 ^ 30)
  else if offIn o 0x200 4 8 then
    let x := mget {} k.slots ((o - 0x200) / 4)
    x.state % 4 * 2 ^ 30 + b2n (x.lastCtr == 2 ^ 64 - 1) * 2 ^ 29 + x.rights % 256
  else if offIn o 0x300 4 6 then mget 0 k.svn ((o - 0x300) / 4 + 1) % 64
  else (raw s (ksB + o)).toNat

/-- CLP_STAT.SRC_ACT and ROOT (15 R369), CLP_ORGID. -/
def viewClp (s : State) (o : Nat) : Nat :=
  if o = 0 then viewOver s clpB (if isSlave s ∨ srcSel s = 1 then 0x3F7FFFFF else if srcSel s = 0 then 0x0F7FFFFF else 0x1F7FFFFF) ((if isSlave s then 2 else srcSel s) * 2 ^ 30 + b2n (!isSlave s) * 2 ^ 23)
  else if o = 0x34 then Config.orgId.toNat
  else (raw s (clpB + o)).toNat

/-- The alias bits of HLT_FENCE: dies of which some partition's span position is aliased (19 R466). -/
def aliased (s : State) (d : Nat) : Bool := s.parts.any (fun e => mhas e.2.aliases d && decide (mget 16 e.2.aliases d < 16))
/-- HLT_TAP_DIE_d, HLT_FENCE, HLT_DIG_STAT_p (19 R478, 09 R240). -/
def viewHlt (s : State) (o : Nat) : Nat :=
  if offIn o 0x100 4 16 then
    let d := (o - 0x100) / 4
    let busy := match mfind s.hub.taps d with | some j => decide (5 ≤ j.step) | none => false
    viewOver s (hltB + o) 0xFFFF
      (b2n busy * 2 ^ 31 + (freeSpares s d).length % 128 * 2 ^ 24 + (s.hub.retired.filter (fun t => t / 136 == d)).length % 256 * 2 ^ 16)
  else if o = 0x200 then allDies.foldl (fun a d => a + b2n (dieOf s d).fenced * 2 ^ d + b2n (aliased s d) * 2 ^ (16 + d)) 0
  else if offIn o 0x2400 4 64 then (match partOf s ((o - 0x2400) / 4) with | some p => digStat p.digest | none => 0)
  else (raw s (hltB + o)).toNat

/-- The code of a context's state (16 R400). -/
def tcPhaseCode : TcPhase → Nat
  | .disabled => 0 | .active => 1 | .draining => 2 | .error => 3
/-- TC_CTRL, TC_IMT_CTRL.PEND, TC_WEIR_CAP.INFLIGHT (16 R400). -/
def viewTc (s : State) (n o : Nat) : Nat :=
  let t := tcOf s n
  if o = 0 then viewOver s (tcB n) 0x8FF00000 (tcPhaseCode t.phase * 2 ^ 28 + t.errc % 16 * 2 ^ 16)
  else if o = 0xC then viewOver s (tcB n + 0xC) 0xEFFFFFFF (b2n t.pend * 2 ^ 28)
  else if o = 0x28 then viewOver s (tcB n + 0x28) 0xFFFFF000 (inflight s n % 4096)
  else (raw s (tcB n + o)).toNat

/-- A bit map of `n` ports from `base` whose Sluice is not OPEN. -/
def raisedBits (s : State) (d base n : Nat) : Nat :=
  (upTo n).foldl (fun a i => a + b2n ((sluiceOf s d (base + i)).phase != .opened) * 2 ^ i) 0
/-- QP_STAT and the RUN_ block (16 R424, 12 R302). -/
def viewDieA (s : State) (d o : Nat) : Nat :=
  let r := (dieOf s d).runnel
  let x := r.snap
  if o = 0 then viewOver s (qpB d) 0xF000 (tagsOn s d % 4096 * 2 ^ 16 + rsvSum s d % 4096)
  else if o = 0x10000 then viewOver s (runB d) 0x4000FFFF (b2n (r.sluices.any (fun e => e.2.phase == .drain)) * 2 ^ 31)
  else if offIn o 0x10010 4 5 then let w := (o - 0x10010) / 4; raisedBits s d (32 * w) (min 32 (136 - 32 * w))
  else if offIn o 0x10030 4 2 then let w := (o - 0x10030) / 4; raisedBits s d (136 + 32 * w) (min 32 (34 - 32 * w))
  else if o = 0x10104 then (if x.count = 0 then 0 else x.min)
  else if o = 0x10108 then x.max
  else if o = 0x1010C then (if x.count = 0 then 0 else sat32 (x.sum / x.count))
  else if o = 0x10110 then x.count
  else if offIn o 0x10140 4 16 then mget 0 x.hist ((o - 0x10140) / 4)
  else if offIn o 0x10200 4 16 then let n := (o - 0x10200) / 4; min 0xFFFF (auditRun s d (n / 4) (n % 4))
  else (raw s (dieB d + o)).toNat

/-- The code of a port's state (14 R364). -/
def portPhaseCode : PortPhase → Nat
  | .down => 0 | .training => 1 | .up => 2 | .recovery => 3 | .lp1 => 4 | .lp2 => 5 | .lost => 6 | .disabled => 7
/-- The VL_ block (14 R364). -/
def viewVl (s : State) (d o : Nat) : Nat :=
  let p := portOf s d
  let k := vlB d + o
  if o = 0 then
    viewOver s k 0x04000000
      (portPhaseCode p.phase * 2 ^ 29 + b2n p.spareUsed * 2 ^ 28 + b2n p.nover * 2 ^ 27 + (if p.phase = .training then p.step % 16 else 0) * 2 ^ 22
        + p.lsMap % 16 * 2 ^ 18 + p.pver % 8 * 2 ^ 8)
  else if o = 8 then b2n p.peerValid * 2 ^ 31 + p.peerMod % 256 * 2 ^ 16 + p.peerPort % 16 * 2 ^ 12 + p.peerVer % 256
  else if offIn o 0x40 4 9 then
    let l := mget {} p.lanes ((o - 0x40) / 4)
    viewOver s k 0xFFFF (b2n (decide (l.logical < 8)) * 2 ^ 31 + (if l.logical < 9 then l.logical else 0) * 2 ^ 27 + l.preset % 8 * 2 ^ 24 + l.margin % 256 * 2 ^ 16)
  else if offIn o 0x80 4 5 then min 0xFFFF (mget [] p.outst ((o - 0x80) / 4)).length
  else (raw s k).toNat

/-- The code of a region's state (10 R260). -/
def regionPhaseCode : RegionPhase → Nat
  | .empty => 0 | .loading => 1 | .released => 2 | .fault => 3
/-- The group in slot `g` of a die, with the die's chain position: the one that partition `g` reduces in there (08 R206, R212). -/
def slotGroup (s : State) (d g : Nat) : Option (Nat × Nat × Group) :=
  match s.groups.find? (fun e => e.2.parts.contains g && (localStations e.2).any (fun x => x.2.die == d)) with
  | some e => (match (localStations e.2).find? (fun x => x.2.die == d) with | some x => some (e.1, x.1, e.2) | none => none)
  | none => none
/-- The steps of a die in flight (CSC_STAT). -/
def cscSteps (s : State) (d : Nat) : List CStep :=
  (s.csteps.filter (fun e => e.2.phase != .done && (match groupOf s e.2.group with | some g => (groupDies g).contains d | none => false))).map (·.2)
/-- Whether an ENT = 1 dispatch waits for its seed (07 R175, R191): of a GENERATE or SAMPLE on the die of its Fountain unit, of a KERNEL on its
home die, whose queue processor draws the seed (DEDUCED, note 147). -/
def entWait (s : State) (d : Nat) : Bool :=
  s.ops.any (fun e =>
    let o := e.2
    let pos := if opcOf o = 3 then (genArgs o).die else smpDie o
    o.phase == .ready && opFlag o 3 && !o.seedDrawn && !strict s o.part &&
      (if opcOf o = 1 then o.home == d else (opcOf o == 3 || opcOf o == 4) && ((partOf s o.part).bind (fun p => spanDie p pos)) == some d))
/-- MOR_, CSC_ and FTN_ (10 R260, 08 R212, 07 R191), offsets from the MOR_ block. -/
def viewDieB (s : State) (d o : Nat) : Nat :=
  let k := morB d + o
  let m := (dieOf s d).mortar
  let f := (dieOf s d).fountain
  if o = 0 then
    viewOver s k 0x60000000 (b2n m.shellOk * 2 ^ 31 + (upTo 8).foldl (fun a r => a + b2n (regionShown s d r == .released) * 2 ^ r) 0)
  else if offIn o 0x100 4 8 then
    let x := regionOf s d ((o - 0x100) / 4)
    viewOver s k 0xFFFF (regionPhaseCode (regionShown s d ((o - 0x100) / 4)) * 2 ^ 29 + b2n x.nondet * 2 ^ 28 + b2n x.boundTo.isSome * 2 ^ 27 + x.clks % 8 * 2 ^ 24 + x.boundTo.getD 0 % 64 * 2 ^ 16)
  else if o = 0x10000 then
    let cs := cscSteps s d
    viewOver s k 0x60000000 (b2n (cs.any (fun c => c.phase == .running || c.phase == .held || (c.phase == .waiting && decide (startOf c ≤ mltNs s)))) * 2 ^ 31 + min 64 cs.length)
  else if offIn o 0x10100 8 64 then
    (match slotGroup s d ((o - 0x10100) / 8) with | some x => 2 ^ 31 + x.2.1 % 4096 * 2 ^ 16 + x.1 % 65536 | none => 0)
  else if offIn o 0x10104 8 64 then (match slotGroup s d ((o - 0x10104) / 8) with | some x => x.2.2.epoch % 2 ^ 32 | none => 0)
  else if o = 0x20000 then b2n (!f.queue.isEmpty) * 2 ^ 31 + b2n (entWait s d) * 2 ^ 30 + f.queue.length % 16 * 2 ^ 16
  else (raw s k).toNat

/-- MT_ (03 R90, 21 R508). -/
def viewMt (s : State) (d o : Nat) : Nat :=
  if o < 0x200 then
    let n := o / 4
    match ptOf s d n with
    | some m => b2n (!(dieOf s d).fenced) * 2 ^ 31 + m.2.toNat * 2 ^ 16 + m.1 % 256
    | none => let last := mget (n, 0) (dieOf s d).lastMap n; last.2.toNat * 2 ^ 16 + last.1 % 256
  else if o < 0xA60 then
    let m := (tileOf s d ((o - 0x400) / 12)).mem
    match (o - 0x400) / 4 % 3 with | 0 => sat32 m.waitOpnd | 1 => sat32 m.waitAcc | _ => sat32 m.waitShadow
  else
    let al := (tileOf s d ((o - 0xA60) / 4)).mem.allocs
    let gr := al.filter (fun a => a.grant)
    gr.length % 32 * 2 ^ 21 + (al.length - gr.length) % 32 * 2 ^ 16 + min 1023 (gr.foldl (fun n a => n + a.count) 0)
/-- The code of a sequencer's state (05 R150). -/
def tileStatusCode : TileStatus → Nat
  | .idle => 0 | .run => 1 | .held => 2 | .wlch => 3 | .saving => 4 | .restoring => 5 | .test => 6 | .fault => 7
/-- SEQ_ (05 R150). -/
def viewSeq (s : State) (d o : Nat) : Nat :=
  let t := tileOf s d (o / 16)
  let q := t.seq
  match o % 16 with
  | 0 =>
    tileStatusCode q.status * 2 ^ 29 + b2n t.sat * 2 ^ 28 + b2n (q.lact || decide (0 < q.delay)) * 2 ^ 27 + b2n q.evp * 2 ^ 26 + b2n q.lovr * 2 ^ 25
      + q.pc.toNat
  | 4 => b2n q.faultValid * 2 ^ 31 + q.faultCause.toNat * 2 ^ 16 + q.faultPc.toNat
  | _ => min 0x3FFF q.maxWait

/-- Whether the mailbox of a requester still captures (17 R436): its request came in the present CK_CLP cycle. -/
def wideBusy (s : State) (req : Nat) : Bool := match mfind s.hub.wides req with | some w => w.at_ == s.hub.cycles | none => false
/-- The registers of a requester (17 R433, R436). -/
def viewOwn (s : State) (req o : Nat) : Nat :=
  let k := ownB req + o
  if o = 0x1008 then
    let v := match mfind s.hub.wides req with
      | some w => if wideBusy s req then 2 ^ 30 else 2 ^ 29 + b2n w.err * 2 ^ 28
      | none => 0
    viewOver s k (2 ^ 27) v
  else if offIn o 0x1040 4 16 then
    match mfind s.hub.wides req with
    | some w => if wideBusy s req then 0 else (w.data.getD ((o - 0x1040) / 4) 0).toNat
    | none => 0
  else (raw s k).toNat

/-- What a read of the register with key `k` returns. -/
def viewOf (s : State) (k : Nat) : W32 :=
  BitVec.ofNat 32
    (if k < 0x10000 then viewHub s k
     else if k < 0x20000 then viewKs s (k % 0x10000)
     else if k < 0x30000 then viewClp s (k % 0x10000)
     else if 0x40000 ≤ k ∧ k < 0x50000 then viewHlt s (k % 0x10000)
     else if 0x100000 ≤ k ∧ k < 0x140000 then viewTc s (k % 0x100000 / 64) (k % 64)
     else if 0x2000000 ≤ k ∧ k < 0x4000000 then
       (let d := k % 0x2000000 / 0x200000
        let o := k % 0x200000
        if o < 0x30000 then viewDieA s d o else if o < 0x40000 then viewVl s d (o % 0x10000) else viewDieB s d (o % 0x40000))
     else if 0x10000000 ≤ k ∧ k < 0x10200000 then
       (let d := k % 0x10000000 / 0x20000
        let o := k % 0x20000
        if o < 0x10000 then viewMt s d o else viewSeq s d (o % 0x10000))
     else if 0x20000000 ≤ k ∧ k < 0x20300000 then viewOwn s (k % 0x10000000 / 0x100000) (k % 0x100000)
     else (raw s k).toNat)

/-- The RC fields of a register cleared by a read (00 R14). -/
def clearRead (s : State) (k : Nat) : State :=
  if 0x10000000 ≤ k ∧ k < 0x10200000 then
    let d := k % 0x10000000 / 0x20000
    let o := k % 0x20000
    if 0x400 ≤ o ∧ o < 0xA60 then
      modTile s d ((o - 0x400) / 12) fun t =>
        { t with mem := match (o - 0x400) / 4 % 3 with
          | 0 => { t.mem with waitOpnd := 0 } | 1 => { t.mem with waitAcc := 0 } | _ => { t.mem with waitShadow := 0 } }
    else if 0x10000 ≤ o ∧ o % 16 = 8 then modTile s d (o % 0x10000 / 16) fun t => { t with seq := { t.seq with maxWait := 0 } }
    else s
  else match fieldsOf k with
    | some m => if m.rc = 0 then s else setRaw s k (raw s k &&& ~~~(BitVec.ofNat 32 m.rc))
    | none => s

/-! ## Where an access goes (17 R426, R432 to R434) -/

/-- The register an access names: its key, and the die (16 the hub) and clock domain (15 R382) it lies in. -/
structure RegPlace where
  key : Nat
  die : Nat
  dom : Nat
  deriving DecidableEq, Repr

/-- Whether the blocks of stage A answer. -/
def stageAUp (s : State) : Bool := s.hub.entered && stageOf s != 0
/-- Whether a die's window answers: QUEUES set, the die powered and not fenced (DEDUCED, note 109). -/
def windowUp (s : State) (d : Nat) : Bool := stageAUp s && cap s 1 && dieUp s d && (dieOf s d).powered
/-- A register of a block that is available, or the cause of the bus error (17 R438): 3 not available, 1 reserved. -/
def judge (avail : Bool) (p : RegPlace) : Except Nat RegPlace :=
  if !avail then .error 3 else if (fieldsOf p.key).isSome then .ok p else .error 1
/-- A register of a hub block. Link 1 has the ABI registers of its own negotiation. -/
def hubPlace (s : State) (req o : Nat) : Except Nat RegPlace :=
  let k := if req = 1 ∧ 0x1000 ≤ o ∧ o < 0x1040 then abiB 1 + o else o
  judge (if o / 0x10000 = 1 then s.hub.entered else stageAUp s) ⟨k, 16, if o = clpB ∨ o = clpB + 0xC then 13 else 12⟩
/-- The registers a requester has of its own; the module manager sees the MSI-X structures of link 0. -/
def ownPlace (s : State) (req o : Nat) : Except Nat RegPlace := judge (stageAUp s) ⟨ownB req + o, 16, 12⟩
/-- The MSI-X vectors of a link. -/
def vectors (s : State) : Nat := if twoLinks s then 1024 else 2048
/-- The map of BAR0 (R432). Link 1 implements IND_, WIDE_, the MSI-X structures and the entries of its own contexts (16 R392). -/
def locate (s : State) (req off : Nat) : Except Nat RegPlace :=
  if off < 0x60000 then (if req = 1 then .error 1 else hubPlace s req off)
  else if off < 0x61000 then ownPlace s req (off % 0x1000)
  else if off < 0x62000 then ownPlace s req (off % 0x1000 + 0x1000)
  else if 0x80000 ≤ off ∧ off < 0x80000 + 16 * vectors s then ownPlace s (req % 2) (off % 0x8000 + 0x8000)
  else if 0x88000 ≤ off ∧ off < 0x88000 + vectors s / 8 then ownPlace s (req % 2) (off % 0x8000 + 0x10000)
  else if 0x100000 ≤ off ∧ off < 0x140000 then
    (if req = 1 ∧ off < 0x120000 then .error 1 else judge (stageAUp s && cap s 1) ⟨off, 16, 12⟩)
  else if 0x2000000 ≤ off ∧ off < 0x4000000 ∧ off % 0x200000 < 0x70000 then
    (let d := off % 0x2000000 / 0x200000
     if req = 1 then .error 1 else judge (windowUp s d) ⟨off, d, 12⟩)
  else .error 1

/-- The register IND_ADDR names (R433, R434): cause 5 for a reserved or mismatched TARGET or BLOCK. MT_ is no part of a die's window: the map and the
wait counters of a fenced die go on answering (03 R90; DEDUCED, note 109). -/
def locateInd (s : State) (req a : Nat) : Except Nat RegPlace :=
  let d := bitsOf a 26 5
  let b := bitsOf a 20 6
  let o := bitsOf a 0 16
  if d < 16 ∧ b < 7 then judge (windowUp s d) ⟨dieB d + b * 0x10000 + o, d, 12⟩
  else if d < 16 ∧ b = 8 then
    (let dark := decide (o < 0xA60) && !(dieUp s d && (dieOf s d).powered)
     judge (if dark then stageAUp s && cap s 1 else windowUp s d) ⟨mtB d + o, d, if 0x400 ≤ o ∧ !dark then 1 else 12⟩)
  else if d < 16 ∧ b = 9 then judge (windowUp s d) ⟨seqB d + o, d, 1⟩
  else if d = 16 ∧ 0x10 ≤ b ∧ b < 0x16 then hubPlace s req ((b - 0x10) * 0x10000 + o)
  else .error 5

end Sys2Proof.Machine
end

