-- ==== Sys2Proof/Machine/Registers.lean ====
section
/-! DEFINITION. Register accesses and what they start: writes by field type and lock (17 R425 to R437; 00 R14, R15), and the
commands that are such accesses. -/

namespace Sys2Proof.Machine

/-! ## The word a write leaves (00 R14, R15; 17 R427, R430, R431) -/

/-- Fields whose written value is limited, and the limits their descriptions give. -/
def clampReg (k : Nat) (old w : W32) : W32 :=
  let f (lo len : Nat) : Nat := bitsOf w.toNat lo len
  let fit (lo len a b : Nat) (x : W32) : W32 := putBits x lo len (min b (max a (bitsOf x.toNat lo len)))
  if k = clpB + 4 then (if f 29 2 = 3 then putBits w 29 2 (bitsOf old.toNat 29 2) else w)
  else if k = clpB + 8 then fit 16 10 1 1000 w
  else if k = hltB + 4 then fit 16 8 1 255 w
  else if k = hltB + 0x408 then fit 24 4 4 12 w
  else if k = pwrB + 4 then fit 0 6 8 48 (fit 8 8 60 255 (fit 16 13 1500 4000 w))
  else if 0x100000 ≤ k ∧ k < 0x140000 then
    match k % 64 with
    | 0x08 => fit 8 5 6 16 (fit 16 5 6 16 (fit 24 5 6 16 w))
    | 0x28 => fit 20 12 1 3072 w
    | 0x2C => fit 16 16 1 0xFFFF w
    | 0x30 => fit 20 12 1 0xFFF w
    | _ => w
  else if 0x2000000 ≤ k ∧ k < 0x4000000 then
    match k % 0x200000 with
    | 0x20004 => fit 16 12 0x100 0xFFF w
    | 0x3000C => fit 0 10 20 1000 w
    | 0x3001C => fit 16 4 1 15 w
    | _ => w
  else w

/-- The value a write of `v` leaves in a register that holds `o`: every field by its own type. -/
def newWord (m : RegMask) (k : Nat) (o v : W32) : W32 :=
  let b (n : Nat) : W32 := BitVec.ofNat 32 n
  if m.wm then
    let ms : W32 := v >>> 16
    (o &&& ~~~ms) ||| (v &&& ms)
  else
    let locked := m.rwl != 0 && o.msb
    let keep : W32 := if locked then b m.rw else b m.rw ||| b m.rwl
    let w := ((o &&& ~~~keep) ||| (v &&& keep)) &&& ~~~(v &&& b m.w1c)
    clampReg k o (if m.rwl = 0 then w else w ||| (v &&& b (2 ^ 31)))
/-- Whether a write to locked fields would have changed one (R430). -/
def lockRefused (m : RegMask) (k : Nat) (o v : W32) : Bool :=
  let r : W32 := BitVec.ofNat 32 m.rwl
  m.rwl != 0 && o.msb && (clampReg k o ((o &&& ~~~r) ||| (v &&& r)) != o)
/-- The register stored by a write, with HUB_STAT.LOCKWR where a locked field keeps its value. -/
def putReg (s : State) (k : Nat) (v : W32) : State :=
  match fieldsOf k with
  | none => s
  | some m =>
    let s1 := setRaw s k (newWord m k (raw s k) v)
    if lockRefused m k (raw s k) v then setFlag s1 8 31 true else s1

/-! ## What a write starts -/

/-- Bit `i` of a written value. -/
def hit (v : W32) (i : Nat) : Bool := v.getLsbD i

/-- HUB_, KS_, CLP_ (16 R395; 18 R459; 15 R369, R381) (DEDUCED, note 114). -/
def writeHub (s : State) (k : Nat) (v : W32) : State :=
  if k = 0x1020 then (if hit v 31 then negotiate s 0 else s)
  else if offIn k (ksB + 0x100) 4 16 then (if s.ks.mailBusy || decide (16 ≤ s.ks.queue.length) then s else putReg s k v)
  else if k = ksB + 0x140 then let s1 := putReg s k v; if hit v 31 then mailboxGo s1 else s1
  else if k = clpB + 4 then
    let s1 := putReg s k v
    elect (if srcSel s1 = srcSel s then s1 else setFlag (setFlag (modClp s1 fun c => { c with misses := 0 }) clpB 29 false) clpB 28 false)
  else if k = clpB + 0x28 then let s1 := putReg s k v; if hit v 31 then setGo s1 else s1
  else putReg s k v

/-- Whether a driver has negotiated an ABI on a link (16 R395). -/
def abiReady (s : State) (link : Nat) : Bool := raw s (abiB link + 0x1024) != 0xFFFFFFFF
/-- TC_CTRL (16 R395, R397, R399): EN, RESET, the binding (DEDUCED, note 117). -/
def writeTcCtrl (s : State) (n : Nat) (v : W32) : State :=
  let k := tcB n
  let ph := (tcOf s n).phase
  let was := flag s k 31
  let en := if !hit v 31 || was then hit v 31 else (ph == .disabled || ph == .active) && abiReady s (linkOf s n)
  let s1 := setFlag (putReg s k v) k 31 en
  let s2 := if ph = .error ∧ hit v 30 then drainContext s1 n else s1
  match ph with
  | .disabled => if hit v 31 && en && abiReady s (linkOf s n) then enableContext s2 n else s2
  | .active => if en then s2 else drainContext s2 n
  | _ => s2
/-- TC_WEIR_CAP (16 R408): a RSV that would raise the home die's sum above 2,048 is left as it was, with RSVERR. -/
def writeWeirCap (s : State) (n : Nat) (v : W32) : State :=
  let k := tcB n + 0x28
  let d := ctxHome s n
  let others := ((reservers s d).filter (fun e => e.1 != n)).foldl (fun a e => a + e.2) 0
  let new := bitsOf v.toNat 12 8
  if (boundPart s n).isSome ∧ fld s k 12 8 < new ∧ 2048 < others + new then
    setFlag (putReg s k (putBits v 12 8 (fld s k 12 8))) (tcB n) 20 true
  else putReg s k v
/-- A table entry (16 R397, R408, R413, R423). -/
def writeTc (s : State) (n o : Nat) (v : W32) : State :=
  let k := tcB n + o
  if o = 0 then writeTcCtrl s n v
  else if o = 4 ∨ o = 8 ∨ (0x10 ≤ o ∧ o < 0x28) then (if (tcOf s n).phase = .disabled then putReg s k v else s)
  else if o = 0xC then
    let s1 := putReg s k v
    if (tcOf s n).pend && !hit v 29 then sendIrq (modTc s1 n fun t => { t with pend := false }) n else s1
  else if o = 0x28 then writeWeirCap s n v
  else if o = 0x2C ∨ o = 0x30 then putReg (refill s n) k v
  else putReg s k v

/-- VL_CTRL (14 R337, R346, R356, R364) (DEDUCED, note 115) (DEDUCED, note 116). -/
def writeVlCtrl (s : State) (d : Nat) (v : W32) : State :=
  let s1 := putReg s (vlR d 4) v
  let s2 :=
    if portEn s d && !portEn s1 d then moduleEvent (resetPort s1 d .disabled) 6
    else if !portEn s d && portEn s1 d then moduleEvent (modPort s1 d fun p => { p with phase := .down }) 6
    else s1
  let s3 := if modId s1 d ≠ modId s d ∧ (portOf s2 d).phase = .up then modPort s2 d fun p => sendLc p [9, BitVec.ofNat 8 (modId s1 d)] else s2
  let s4 := if hit v 29 then startRetire s3 d else s3
  if hit v 28 && portEn s4 d then beginTraining (modPort s4 d fun p => { p with recoverAt := none, swap := none, retireAt := none }) d false .training else s4

/-- VL_BITSLIP (14 R348): a write outside step 5 or without MANALIGN is ignored, with BSERR. -/
def writeBitslip (s : State) (d : Nat) (v : W32) : State :=
  let p := portOf s d
  if p.step = 5 ∧ p.phase = .training ∧ flag s (vlR d 4) 30 then
    let s1 := putReg s (vlR d 0x10) v
    if hit v 31 then bitSlip s1 d else s1
  else setFlag s (vlR d 0) 26 true

/-- Whether a released or loading region of a die uses a fabric clock (10 R249). -/
def clockUsed (s : State) (d c : Nat) : Bool :=
  (upTo 8).any (fun r => let x := regionOf s d r; (x.phase == .released || x.phase == .loading) && x.clks.testBit c)
/-- MOR_CLKDIV (10 R249; 11 R281): ignored with DIVERR where a divisor is out of range or its clock is in use. -/
def writeClkdiv (s : State) (d : Nat) (v : W32) : State :=
  let k := morB d + 4
  let bad (c : Nat) : Bool :=
    let n := bitsOf v.toNat (8 * c) 8
    decide (n < 8) || decide (64 < n) || (n != fld s k (8 * c) 8 && clockUsed s d c)
  if (upTo 3).any bad then setFlag s (morB d) 29 true else putReg s k v

/-- A die's window. -/
def writeDie (s : State) (d o : Nat) (v : W32) : State :=
  let s1 := putReg s (dieB d + o) v
  if o = 0x10100 then (if hit v 31 then snapshot s1 d else s1)
  else if o = 0x30004 then writeVlCtrl s d v
  else if o = 0x30010 then writeBitslip s d v
  else if o = 0x30018 then (if hit v 31 then askLp s1 d 2 else s1)
  else if o = 0x3001C then (if hit v 31 then startPlumb s1 d [] else s1)
  else if o = 0x40004 then writeClkdiv s d v
  else s1
/-- SEQ_ (05 R150): LOVR and VALID are cleared by writing 1. -/
def writeSeq (s : State) (d o : Nat) (v : W32) : State :=
  if o % 16 = 0 then (if hit v 25 then modTile s d (o / 16) fun t => { t with seq := { t.seq with lovr := false } } else s)
  else if o % 16 = 4 then (if hit v 31 then modTile s d (o / 16) fun t => { t with seq := { t.seq with faultValid := false } } else s)
  else s

/-! ## The wide-value mailbox (17 R436, R437) -/

/-- The words of a byte string. -/
def wordsOf (b : List Byte) : List W32 := (upTo (b.length / 4)).map (fun i => BitVec.ofNat 32 (fieldLe b (4 * i) 4))
/-- A 64-bit value, low word first. -/
def words64 (x : Nat) : List W32 := [BitVec.ofNat 32 x, BitVec.ofNat 32 (x / 2 ^ 32)]
/-- The Clepsydra snapshot (15 R380). -/
def clpSnapshot (s : State) : List W32 :=
  let t := devFrac s
  let sec := devSec s
  [BitVec.ofNat 32 ((epochNow s).num.toNat * 65536 + t % 65536), BitVec.ofNat 32 (devNs s), BitVec.ofNat 32 sec,
   BitVec.ofNat 32 (b2n ((viewClp s 0).testBit 29) * 2 ^ 31 + b2n ((viewClp s 0).testBit 28) * 2 ^ 30 + b2n (flag s clpB 27) * 2 ^ 29 + b2n (flag s clpB 26) * 2 ^ 28 + sec / 2 ^ 32 % 65536),
   BitVec.ofNat 32 (mltNs s), BitVec.ofNat 32 (mltNs s / 2 ^ 32), BitVec.ofNat 32 (mltFrac s % 65536)]
/-- The Plumb results of the last measurement (14 R359, R436): two signed 16-bit skews per word. -/
def plumbWords (asym : Int) (r : PlumbRes) (idx : Nat) : Option (List W32) :=
  match idx with
  | 0 => some ((upTo 9).map (fun i => BitVec.ofInt 32 (r.rtt.getD i 0)))
  | 1 => some ((upTo 9).map (fun i => BitVec.ofInt 32 ((r.rtt.getD i 0 + asym) / 2)))
  | 2 => some (wordsOf (((upTo 9).map (fun i => r.local_.getD i 0) ++ (upTo 9).map (fun i => r.peer.getD i 0)).flatMap (fun x => leBytes 2 (encodeInt 16 x)) ++ [0, 0]))
  | _ => none
/-- The value a selection names (R436), none where R437 has an error. -/
def wideValue (s : State) (code unit part idx : Nat) : Option (List W32) :=
  let up : Bool := dieUp s unit && (dieOf s unit).powered
  let digest (f : DigestState → Option (List Byte)) : Option (List W32) :=
    if !up then none
    else match partOf s part with
      | some p => if p.cur.wCount = 0 ∨ !p.digest.done then none else (f p.digest).map wordsOf
      | none => none
  match code with
  | 1 => some (clpSnapshot s)
  | 2 =>
    if up then
      let k := ftnB unit
      some (words64 (fountainWord (BitVec.ofNat 64 (fld s (k + 0xC) 0 32 + fld s (k + 0x10) 0 32 * 2 ^ 32)) (fld s (k + 0x14) 0 24) (fld s (k + 0x18) 0 32)).toNat)
    else none
  | 3 => if up then let x := (dieOf s unit).runnel.snap; some (words64 x.sent ++ words64 x.received) else none
  | 4 => digest (fun g => mfind g.doneWeights unit)
  | 5 =>
    digest (fun g => (mfind g.donePages unit).bind (fun b => if 32 * idx + 32 ≤ b.length then some ((b.drop (32 * idx)).take 32) else none))
  | 6 => if up then ((portOf s unit).plumbRes).bind (fun r => plumbWords (raw s (vlR unit 0x24)).toInt r idx) else none
  | 7 => some (words64 Config.serial.toNat)
  | _ => none
/-- WIDE_CTRL.REQ (R436, R437): the value is captured; while a capture is under way it is ignored with OVR (DESIGN CHOICE, note 111). -/
def wideReq (s : State) (req : Nat) : State :=
  let k := ownB req + 0x1000
  if wideBusy s req then setFlag s (k + 8) 27 true
  else
    let r := wideValue s (fld s k 24 8) (fld s k 16 4) (fld s k 0 6) (fld s (k + 4) 0 32)
    modHub s fun h => { h with wides := mput h.wides req ⟨h.cycles, r.isNone, r.getD []⟩ }

/-- A requester's own registers: IND_, WIDE_, the MSI-X table, the second ABI bank. Unmasking a vector sends what pends (16 R422). -/
def writeOwn (s : State) (req o : Nat) (v : W32) : State :=
  let s1 := putReg s (ownB req + o) v
  if o = 0x1008 then (if hit v 31 then wideReq s1 req else s1)
  else if o = 0x21020 then (if hit v 31 then negotiate s 1 else s)
  else if 0x8000 ≤ o ∧ o < 0x10000 ∧ o % 16 = 12 then
    let vec := (o - 0x8000) / 16
    let pk := ownB req + 0x10000 + 4 * (vec / 32)
    if !hit v 0 && flag s1 pk (vec % 32) then send (setFlag s1 pk (vec % 32) false) (.msix req vec) else s1
  else s1

/-- A write to the register with key `k`. -/
def writeReg (s : State) (k : Nat) (v : W32) : State :=
  if 0x100000 ≤ k ∧ k < 0x140000 then writeTc s (k % 0x100000 / 64) (k % 64) v
  else if 0x2000000 ≤ k ∧ k < 0x4000000 then writeDie s (k % 0x2000000 / 0x200000) (k % 0x200000) v
  else if 0x10000000 ≤ k ∧ k < 0x10200000 then
    (let o := k % 0x20000
     if o < 0x10000 then s else writeSeq s (k % 0x10000000 / 0x20000) (o % 0x10000) v)
  else if 0x20000000 ≤ k ∧ k < 0x20300000 then writeOwn s (k % 0x10000000 / 0x100000) (k % 0x100000) v
  else writeHub s k v

/-! ## Accesses (17 R425 to R428, R434) -/

/-- How half an access ended: the state and the word read, or the cause and IND of the bus error. -/
structure HalfEnd where
  st : State
  word : W32 := 0
  err : Option (Nat × Nat) := none

/-- Whether an access to a register waits on a domain that is stopped, or on the one that has timed out (15 R387). -/
def waits (s : State) (slow : Option (Nat × Nat)) (p : RegPlace) : Bool := stoppedDom s p.die p.dom || slow == some (p.die, p.dom)
/-- A register read or written. -/
def touch (s : State) (slow : Option (Nat × Nat)) (p : RegPlace) (write : Bool) (v : W32) (ind : Nat) : HalfEnd :=
  if waits s slow p then { st := s, err := some (4, ind) }
  else if write then { st := writeReg s p.key v }
  else { st := clearRead s p.key, word := viewOf s p.key }
/-- IND_DATA accessed (R433, R434): OFFSET advances with AINC, after a bus error too. -/
def touchInd (s : State) (slow : Option (Nat × Nat)) (req : Nat) (write : Bool) (v : W32) : HalfEnd :=
  let k := ownB req
  let a := (raw s k).toNat
  let ind := bitsOf a 2 24
  let r : HalfEnd := match locateInd s req a with
    | .error c => { st := s, err := some (c, ind) }
    | .ok p => touch s slow p write v ind
  if bitAt a 31 then { r with st := setFld r.st k 0 16 (bitsOf a 0 16 + 4) } else r
/-- One half carried out. -/
def half (s : State) (slow : Option (Nat × Nat)) (req off : Nat) (write : Bool) (v : W32) : HalfEnd :=
  match locate s req off with
  | .error c => { st := s, err := some (c, 0) }
  | .ok p =>
    if waits s slow p then { st := s, err := some (4, 0) }
    else if p.key = ownB req + 4 then touchInd s slow req write v
    else touch s slow p write v 0

/-- A bus error (R426): the first since BUSERR was cleared is logged; the requester gets a Completer Abort or a bus fault. -/
def busError (s : State) (req off : Nat) (write : Bool) (cause ind : Nat) : State :=
  let s1 :=
    if flag s 8 30 then s
    else
      setRaw (setRaw (setFlag s 8 30 true) 0x10 (BitVec.ofNat 32 off)) 0x14
        (BitVec.ofNat 32 (req % 4 * 2 ^ 30 + b2n write * 2 ^ 29 + cause % 32 * 2 ^ 24 + ind % 2 ^ 24))
  send s1 (.abort req write)

/-- The halves of an access, the lower address first; the first that fails ends it (R425). -/
def carryOut (s : State) (slow : Option (Nat × Nat)) (req : Nat) (write : Bool) (got : List Byte) : List (Nat × W32) → State
  | [] => if write then s else send s (.readData req got)
  | (off, v) :: r =>
    let e := half s slow req off write v
    match e.err with
    | some c => busError e.st req off write c.1 c.2
    | none => carryOut e.st slow req write (got ++ leBytes 4 e.word.toNat) r
/-- A register access (R425): 4 bytes at a multiple of 4 or 8 at a multiple of 8, every byte enabled; both halves are judged first. Link 1
exists in 2 × x8 mode only (DEDUCED, note 108). -/
def access (s : State) (slow : Option (Nat × Nat)) (a : BusAccess) : State :=
  let req := a.req.val
  let off := a.off.val
  let lo : W32 := a.val.truncate 32
  let hi : W32 := (a.val >>> 32).truncate 32
  let halves : Option (List (Nat × W32)) :=
    if a.size = 4 ∧ off % 4 = 0 ∧ a.be = 0xF then some [(off, lo)]
    else if a.size = 8 ∧ off % 8 = 0 ∧ a.be = 0xFF then some [(off, lo), (off + 4, hi)]
    else none
  if req = 1 ∧ !twoLinks s then s
  else match halves with
    | none => busError s req off a.write 2 0
    | some hs =>
      match hs.findSome? (fun h => match locate s req h.1 with | .error c => some (h.1, c) | .ok _ => none) with
      | some e => busError s req e.1 a.write e.2 0
      | none => carryOut s slow req a.write [] hs
/-- A 4-byte write of a requester. -/
def write32 (s : State) (req : Fin 3) (off : Nat) (v : W32) : State :=
  access s none { req := req, off := Fin.ofNat 67108864 off, size := 4, be := 0xF, write := true, val := v.zeroExtend 64 }
/-- A register's RW and RWL fields as they stand: what a write that sets one bit writes beside it. -/
def sameFields (s : State) (k : Nat) : W32 :=
  match fieldsOf k with | some m => raw s k &&& (BitVec.ofNat 32 m.rw ||| BitVec.ofNat 32 m.rwl) | none => 0
/-- A write that sets bit `i` of a register and changes no RW field. -/
def setBit (s : State) (req : Fin 3) (off i : Nat) : State := write32 s req off (sameFields s off ||| BitVec.ofNat 32 (2 ^ i))
/-- A write that clears bit `i` of a register and changes no other RW field. -/
def clearBit (s : State) (req : Fin 3) (off i : Nat) : State := write32 s req off (sameFields s off &&& ~~~(BitVec.ofNat 32 (2 ^ i)))

/-! ## The commands -/

/-- REGISTER_WRITE (17 R425 to R431). -/
def execRegisterWrite (req : Fin 3) (off : Fin 67108864) (size : Nat) (be val : BitVec 64) (s : State) : Out :=
  .next (access s none { req := req, off := off, size := size, be := be, write := true, val := val })
/-- REGISTER_READ (17 R425 to R428). -/
def execRegisterRead (req : Fin 3) (off : Fin 67108864) (size : Nat) (be : BitVec 64) (s : State) : Out :=
  .next (access s none { req := req, off := off, size := size, be := be, write := false, val := 0 })
/-- IND_ADDR_WRITE (17 R434). -/
def execIndAddrWrite (req : Fin 3) (val : W32) (s : State) : Out := .next (write32 s req 0x60000 val)
/-- IND_DATA_ACCESS (17 R434): a write of `val`, or a read. -/
def execIndDataAccess (req : Fin 3) (val : Option W32) (s : State) : Out :=
  .next (access s none { req := req, off := 0x60004, size := 4, be := 0xF, write := val.isSome, val := (val.getD 0).zeroExtend 64 })
/-- WIDE_REQ (17 R436). -/
def execWideReq (req : Fin 3) (s : State) : Out := .next (write32 s req 0x61008 0x80000000)

/-- ABI_NEGOTIATION (16 R395): GO written by a link's driver; link 1 reaches its register through its indirect pair. -/
def execAbiNegotiation (link : Fin 2) (s : State) : Out :=
  .next <|
    if link = 0 then write32 s 0 0x1020 0x80000000
    else write32 (write32 s 1 0x60000 (BitVec.ofNat 32 (16 * 2 ^ 26 + 0x10 * 2 ^ 20 + 0x1020))) 1 0x60004 0x80000000
/-- TC_EN_SET (16 R395, R397, R398). -/
def execTcEnSet (req : Fin 3) (ctx : Fin 4096) (s : State) : Out := .next (setBit s req (tcB ctx) 31)
/-- TC_EN_CLEAR (16 R397). -/
def execTcEnClear (req : Fin 3) (ctx : Fin 4096) (s : State) : Out := .next (clearBit s req (tcB ctx) 31)
/-- TC_RESET (16 R397). -/
def execTcReset (req : Fin 3) (ctx : Fin 4096) (s : State) : Out := .next (setBit s req (tcB ctx) 30)
/-- INTERRUPT_UNMASK (16 R423). -/
def execInterruptUnmask (req : Fin 3) (ctx : Fin 4096) (s : State) : Out := .next (clearBit s req (tcB ctx + 0xC) 29)

/-- KS_CMD_GO (18 R459). -/
def execKsCmdGo (req : Fin 3) (s : State) : Out := .next (setBit s req (ksB + 0x140) 31)
/-- CLP_SET_GO (15 R381), with its MODE. -/
def execClpSetGo (req : Fin 3) (mode : Fin 4) (s : State) : Out := .next (write32 s req (clpB + 0x28) (BitVec.ofNat 32 (2 ^ 31 + mode * 2 ^ 28)))
/-- RUNNEL_SNAPSHOT (12 R301). -/
def execRunnelSnapshot (req : Fin 3) (die : Die) (init : Fin 151) (plane : Fin 4) (s : State) : Out :=
  .next (write32 s req (runB die + 0x100) (BitVec.ofNat 32 (2 ^ 31 + plane * 2 ^ 8 + init)))
/-- MOR_CLKDIV_WRITE (10 R249). -/
def execMorClkdivWrite (req : Fin 3) (die : Die) (val : W32) (s : State) : Out := .next (write32 s req (morB die + 4) val)

/-- RETIRE (14 R356). -/
def execRetire (req : Fin 3) (die : Die) (s : State) : Out := .next (setBit s req (vlR die 4) 29)
/-- RETRAIN (14 R346). -/
def execRetrain (req : Fin 3) (die : Die) (s : State) : Out := .next (setBit s req (vlR die 4) 28)
/-- PORT_DISABLE (14 R364). -/
def execPortDisable (req : Fin 3) (die : Die) (s : State) : Out := .next (clearBit s req (vlR die 4) 31)
/-- MODID_WRITE (14 R337). -/
def execModidWrite (req : Fin 3) (die : Die) (id : Byte) (s : State) : Out :=
  .next (write32 s req (vlR die 4) (putBits (sameFields s (vlR die 4)) 8 8 id.toNat))
/-- BITSLIP (14 R348). -/
def execBitslip (req : Fin 3) (die : Die) (lane : Fin 9) (ui : Fin 512) (s : State) : Out :=
  .next (write32 s req (vlR die 0x10) (BitVec.ofNat 32 (2 ^ 31 + lane * 2 ^ 9 + ui)))
/-- LP2REQ (14 R355). -/
def execLp2req (req : Fin 3) (die : Die) (s : State) : Out := .next (setBit s req (vlR die 0x18) 31)
/-- PLUMB_GO (14 R360). -/
def execPlumbGo (req : Fin 3) (die : Die) (s : State) : Out := .next (setBit s req (vlR die 0x1C) 31)

/-- CROSSING_TIMEOUT (15 R387): recorded; the register access that waited ends in a bus error, other traffic as its row has it (DEDUCED, note 119). -/
def execCrossingTimeout (die : Fin 17) (domain : Fin 18) (waited : Option BusAccess) (s : State) : Out :=
  .next <|
    let s1 := recordCdc s die domain
    match waited with
    | some a => access s1 (some (die.val, domain.val)) a
    | none => domainOutcome s1 die domain

/-- The module's SMBus address, which its Alert Response gives too, and whether SMBALERT# is asserted (20 R495). -/
def smbusAddr (s : State) : Nat := 0x60 + s.pwr.addr.toNat
def smbAlert (s : State) : Bool := fld s hltB 0 16 != 0
/-- SMBUS_OFFSET_WRITE (20 R495): answered from stage A. -/
def execSmbusOffsetWrite (off : W32) (s : State) : Out :=
  .next (if stageAUp s then modPwr s fun p => { p with smbusOff := off } else s)
/-- SMBUS_REGISTER_READ (20 R495): a register of CFG_, HLT_ or PWR_, nothing cleared; any other offset gives a block of length 0
(DESIGN CHOICE, note 118). -/
def execSmbusRegisterRead (s : State) : Out :=
  .next <|
    let k := s.pwr.smbusOff.toNat
    if !stageAUp s then s
    else if cfgB ≤ k ∧ k < 0x60000 ∧ k % 4 = 0 ∧ (fieldsOf k).isSome then send s (.smbus (leBytes 4 (viewOf s k).toNat))
    else send s (.smbus [])

end Sys2Proof.Machine
end

