-- ==== Sys2Proof/Machine/Dispatch.lean ====
section
/-! DEFINITION. One arm per command, each a direct call of its meaning. -/

namespace Sys2Proof.Machine

/-- A command's effect on everything but the queue. -/
def exec (i : Instr) (s : State) : Host.Outcome State Fault Refusal :=
  match i with
  | .nop die pt w => Sys2Proof.Machine.execNop die pt w s
  | .add die pt w => Sys2Proof.Machine.execAdd die pt w s
  | .sub die pt w => Sys2Proof.Machine.execSub die pt w s
  | .and die pt w => Sys2Proof.Machine.execAnd die pt w s
  | .or die pt w => Sys2Proof.Machine.execOr die pt w s
  | .xor die pt w => Sys2Proof.Machine.execXor die pt w s
  | .shl die pt w => Sys2Proof.Machine.execShl die pt w s
  | .shr die pt w => Sys2Proof.Machine.execShr die pt w s
  | .sra die pt w => Sys2Proof.Machine.execSra die pt w s
  | .mul die pt w => Sys2Proof.Machine.execMul die pt w s
  | .slt die pt w => Sys2Proof.Machine.execSlt die pt w s
  | .li die pt w => Sys2Proof.Machine.execLi die pt w s
  | .mfv die pt w => Sys2Proof.Machine.execMfv die pt w s
  | .br die pt w => Sys2Proof.Machine.execBr die pt w s
  | .rep die pt w => Sys2Proof.Machine.execRep die pt w s
  | .wlch die pt w => Sys2Proof.Machine.execWlch die pt w s
  | .endKernel die pt w => Sys2Proof.Machine.execEnd die pt w s
  | .alloc die pt w => Sys2Proof.Machine.execAlloc die pt w s
  | .free die pt w => Sys2Proof.Machine.execFree die pt w s
  | .wb die pt w => Sys2Proof.Machine.execWb die pt w s
  | .crd die pt w => Sys2Proof.Machine.execCrd die pt w s
  | .cwr die pt w => Sys2Proof.Machine.execCwr die pt w s
  | .mx die pt w => Sys2Proof.Machine.execMx die pt w s
  | .wld die pt w => Sys2Proof.Machine.execWld die pt w s
  | .ew die pt w => Sys2Proof.Machine.execEw die pt w s
  | .vadd die pt w => Sys2Proof.Machine.execVadd die pt w s
  | .vsub die pt w => Sys2Proof.Machine.execVsub die pt w s
  | .vmul die pt w => Sys2Proof.Machine.execVmul die pt w s
  | .vfma die pt w => Sys2Proof.Machine.execVfma die pt w s
  | .vmin die pt w => Sys2Proof.Machine.execVmin die pt w s
  | .vmax die pt w => Sys2Proof.Machine.execVmax die pt w s
  | .vcmp die pt w => Sys2Proof.Machine.execVcmp die pt w s
  | .vsel die pt w => Sys2Proof.Machine.execVsel die pt w s
  | .cmul die pt w => Sys2Proof.Machine.execCmul die pt w s
  | .vmaxi die pt w => Sys2Proof.Machine.execVmaxi die pt w s
  | .vmini die pt w => Sys2Proof.Machine.execVmini die pt w s
  | .rmaxi die pt w => Sys2Proof.Machine.execRmaxi die pt w s
  | .rmini die pt w => Sys2Proof.Machine.execRmini die pt w s
  | .vrsum die pt w => Sys2Proof.Machine.execVrsum die pt w s
  | .vfn die pt w => Sys2Proof.Machine.execVfn die pt w s
  | .vcvt die pt w => Sys2Proof.Machine.execVcvt die pt w s
  | .viadd die pt w => Sys2Proof.Machine.execViadd die pt w s
  | .visub die pt w => Sys2Proof.Machine.execVisub die pt w s
  | .vimul die pt w => Sys2Proof.Machine.execVimul die pt w s
  | .vlogic die pt w => Sys2Proof.Machine.execVlogic die pt w s
  | .vshift die pt w => Sys2Proof.Machine.execVshift die pt w s
  | .vperm die pt w => Sys2Proof.Machine.execVperm die pt w s
  | .vbcast die pt w => Sys2Proof.Machine.execVbcast die pt w s
  | .vld die pt w => Sys2Proof.Machine.execVld die pt w s
  | .vst die pt w => Sys2Proof.Machine.execVst die pt w s
  | .registerResultLand die pt err => Sys2Proof.Machine.execRegisterResultLand die pt err s
  | .arrayWriteLand die pt upset err => Sys2Proof.Machine.execArrayWriteLand die pt upset s err
  | .shadowComplete die pt => Sys2Proof.Machine.execShadowComplete die pt s
  | .allocationGrant die pt => Sys2Proof.Machine.execAllocationGrant die pt s
  | .wbReadComplete die pt err => Sys2Proof.Machine.execWbReadComplete die pt s err
  | .wbAcknowledge die pt => Sys2Proof.Machine.execWbAcknowledge die pt s
  | .save die pt area => Sys2Proof.Machine.execSave die pt area s
  | .saveComplete die pt => Sys2Proof.Machine.execSaveComplete die pt s
  | .restore die pt target => Sys2Proof.Machine.execRestore die pt target s
  | .test die pt => Sys2Proof.Machine.execTest die pt s
  | .launch die pt time => Sys2Proof.Machine.execLaunch die pt time s
  | .stop die pt => Sys2Proof.Machine.execStop die pt s
  | .repeatBudgetExpiry die pt => Sys2Proof.Machine.execRepeatBudgetExpiry die pt s
  | .tileMove die lt target => Sys2Proof.Machine.execTileMove die lt target s
  | .fetchListLineArrival die pt => Sys2Proof.Machine.execFetchListLineArrival die pt s
  | .setup die pt => Sys2Proof.Machine.execSetup die pt s
  | .fetch die pt => Sys2Proof.Machine.execFetch die pt s
  | .fetchDataArrival die pt => Sys2Proof.Machine.execFetchDataArrival die pt s
  | .mark die pt => Sys2Proof.Machine.execMark die pt s
  | .markRelease die pt => Sys2Proof.Machine.execMarkRelease die pt s
  | .fetchListEnd die pt => Sys2Proof.Machine.execFetchListEnd die pt s
  | .stagingPieceSend die part layer slice src => Sys2Proof.Machine.execStagingPieceSend die part layer slice src s
  | .stagingPieceArrival die part => Sys2Proof.Machine.execStagingPieceArrival die part s
  | .kernel ctx express opseq => Sys2Proof.Machine.execKernel ctx express opseq s
  | .kernelDispatch ctx express opseq => Sys2Proof.Machine.execKernelDispatch ctx express opseq s
  | .cascade ctx express opseq => Sys2Proof.Machine.execCascade ctx express opseq s
  | .generate ctx express opseq ecc => Sys2Proof.Machine.execGenerate ctx express opseq s ecc
  | .sample ctx express opseq rows ecc => Sys2Proof.Machine.execSample ctx express opseq rows s ecc
  | .copy ctx express opseq lines => Sys2Proof.Machine.execCopy ctx express opseq lines s
  | .message ctx express opseq => Sys2Proof.Machine.execMessage ctx express opseq s
  | .regionLoad ctx express opseq => Sys2Proof.Machine.execRegionLoad ctx express opseq s
  | .digest ctx express opseq => Sys2Proof.Machine.execDigest ctx express opseq s
  | .survey ctx express opseq => Sys2Proof.Machine.execSurvey ctx express opseq s
  | .cancel ctx express opseq => Sys2Proof.Machine.execCancel ctx express opseq s
  | .nopDescriptor ctx express opseq => Sys2Proof.Machine.execNopDescriptor ctx express opseq s
  | .critical ctx express opseq => Sys2Proof.Machine.execCritical ctx express opseq s
  | .fwUpdate finish ok => Sys2Proof.Machine.execFwUpdate finish ok s
  | .svnCommit => Sys2Proof.Machine.execSvnCommit s
  | .keyInstall => Sys2Proof.Machine.execKeyInstall s
  | .keyRevoke => Sys2Proof.Machine.execKeyRevoke s
  | .ownerProvision => Sys2Proof.Machine.execOwnerProvision s
  | .imgkeyVbat => Sys2Proof.Machine.execImgkeyVbat s
  | .imgkeyFuse => Sys2Proof.Machine.execImgkeyFuse s
  | .keysrcFuse => Sys2Proof.Machine.execKeysrcFuse s
  | .rootRevoke => Sys2Proof.Machine.execRootRevoke s
  | .partCreate => Sys2Proof.Machine.execPartCreate s
  | .partChange => Sys2Proof.Machine.execPartChange s
  | .partDelete => Sys2Proof.Machine.execPartDelete s
  | .gradeSet => Sys2Proof.Machine.execGradeSet s
  | .lockstepSet => Sys2Proof.Machine.execLockstepSet s
  | .tapForce => Sys2Proof.Machine.execTapForce s
  | .dieFence => Sys2Proof.Machine.execDieFence s
  | .dieUnfence fails => Sys2Proof.Machine.execDieUnfence fails s
  | .debugEnable => Sys2Proof.Machine.execDebugEnable s
  | .attest => Sys2Proof.Machine.execAttest s
  | .descriptorFetch ctx express ok => Sys2Proof.Machine.execDescriptorFetch ctx express ok s
  | .weirAdmission ctx express opseq => Sys2Proof.Machine.execWeirAdmission ctx express opseq s
  | .operationReady ctx express opseq => Sys2Proof.Machine.execOperationReady ctx express opseq s
  | .capabilityRelease ctx express opseq => Sys2Proof.Machine.execCapabilityRelease ctx express opseq s
  | .entropySeedDraw ctx express opseq => Sys2Proof.Machine.execEntropySeedDraw ctx express opseq s
  | .operationTimeout ctx express opseq => Sys2Proof.Machine.execOperationTimeout ctx express opseq s
  | .commitDecision ctx express opseq => Sys2Proof.Machine.execCommitDecision ctx express opseq s
  | .completionRecordWrite ctx target ok => Sys2Proof.Machine.execCompletionRecordWrite ctx target ok s
  | .coalescingTimerExpiry ctx => Sys2Proof.Machine.execCoalescingTimerExpiry ctx s
  | .stepBoundary part => Sys2Proof.Machine.execStepBoundary part s
  | .contextDrainDone ctx => Sys2Proof.Machine.execContextDrainDone ctx s
  | .normalRingTail link page val whole => Sys2Proof.Machine.execNormalRingTail link page val whole s
  | .expressRingTail link page val whole => Sys2Proof.Machine.execExpressRingTail link page val whole s
  | .completionRingHead link page val whole => Sys2Proof.Machine.execCompletionRingHead link page val whole s
  | .tcEnSet req ctx => Sys2Proof.Machine.execTcEnSet req ctx s
  | .tcEnClear req ctx => Sys2Proof.Machine.execTcEnClear req ctx s
  | .tcReset req ctx => Sys2Proof.Machine.execTcReset req ctx s
  | .interruptUnmask req ctx => Sys2Proof.Machine.execInterruptUnmask req ctx s
  | .abiNegotiation link => Sys2Proof.Machine.execAbiNegotiation link s
  | .bar4Read link off n => Sys2Proof.Machine.execBar4Read link off n s
  | .bar4Write link off bytes => Sys2Proof.Machine.execBar4Write link off bytes s
  | .perstAssert link => Sys2Proof.Machine.execPerstAssert link s
  | .functionLevelReset link => Sys2Proof.Machine.execFunctionLevelReset link s
  | .hotReset link => Sys2Proof.Machine.execHotReset link s
  | .linkDown link => Sys2Proof.Machine.execLinkDown link s
  | .registerWrite req off size be val => Sys2Proof.Machine.execRegisterWrite req off size be val s
  | .indAddrWrite req val => Sys2Proof.Machine.execIndAddrWrite req val s
  | .indDataAccess req val => Sys2Proof.Machine.execIndDataAccess req val s
  | .wideReq req => Sys2Proof.Machine.execWideReq req s
  | .smbusOffsetWrite off => Sys2Proof.Machine.execSmbusOffsetWrite off s
  | .smbusRegisterRead => Sys2Proof.Machine.execSmbusRegisterRead s
  | .runnelSnapshot req die init plane => Sys2Proof.Machine.execRunnelSnapshot req die init plane s
  | .ksCmdGo req => Sys2Proof.Machine.execKsCmdGo req s
  | .clpSetGo req mode => Sys2Proof.Machine.execClpSetGo req mode s
  | .timeWriteApply => Sys2Proof.Machine.execTimeWriteApply s
  | .morClkdivWrite req die val => Sys2Proof.Machine.execMorClkdivWrite req die val s
  | .retire req die => Sys2Proof.Machine.execRetire req die s
  | .retrain req die => Sys2Proof.Machine.execRetrain req die s
  | .portDisable req die => Sys2Proof.Machine.execPortDisable req die s
  | .modidWrite req die id => Sys2Proof.Machine.execModidWrite req die id s
  | .bitslip req die lane ui => Sys2Proof.Machine.execBitslip req die lane ui s
  | .lp2req req die => Sys2Proof.Machine.execLp2req req die s
  | .plumbGo req die => Sys2Proof.Machine.execPlumbGo req die s
  | .runnelRequest die init target plane cls part write addr lines data lt => Sys2Proof.Machine.execRunnelRequest die init target plane cls part write addr lines data lt s
  | .runnelRequestArrival die id => Sys2Proof.Machine.execRunnelRequestArrival die id s
  | .runnelResponse die id => Sys2Proof.Machine.execRunnelResponse die id s
  | .sluiceRaise die ports => Sys2Proof.Machine.execSluiceRaise die ports s
  | .sluiceDrainExpiry die => Sys2Proof.Machine.execSluiceDrainExpiry die s
  | .sluiceSafe die => Sys2Proof.Machine.execSluiceSafe die s
  | .sluiceOpen die port => Sys2Proof.Machine.execSluiceOpen die port s
  | .redirectEnd die pt => Sys2Proof.Machine.execRedirectEnd die pt s
  | .hbmRead die pc bank row col training => Sys2Proof.Machine.execHbmRead die pc bank row col training s
  | .hbmWrite die pc bank row col training mask data => Sys2Proof.Machine.execHbmWrite die pc bank row col training mask data s
  | .hbmCommandIssue die pc training err => Sys2Proof.Machine.execHbmCommandIssue die pc training err s
  | .perBankRefresh die pc bank => Sys2Proof.Machine.execPerBankRefresh die pc bank s
  | .refreshWindowStart die => Sys2Proof.Machine.execRefreshWindowStart die s
  | .stackTemperatureRead die celsius => Sys2Proof.Machine.execStackTemperatureRead die celsius s
  | .powerDownEntry die pc => Sys2Proof.Machine.execPowerDownEntry die pc s
  | .patrolScrub die pc bank row col err => Sys2Proof.Machine.execPatrolScrub die pc bank row col err s
  | .rowRepair die done => Sys2Proof.Machine.execRowRepair die done s
  | .channelTraining die done => Sys2Proof.Machine.execChannelTraining die done s
  | .bankSetClearComplete part die => Sys2Proof.Machine.execBankSetClearComplete part die s
  | .weightCopyComplete part die => Sys2Proof.Machine.execWeightCopyComplete part die s
  | .pieceForward group step pos piece final => Sys2Proof.Machine.execPieceForward group step pos piece final s
  | .pieceReceive src => Sys2Proof.Machine.execPieceReceive src s
  | .pieceResend group step pos piece final => Sys2Proof.Machine.execPieceResend group step pos piece final s
  | .cascadeCommit group step => Sys2Proof.Machine.execCascadeCommit group step s
  | .commitMarker group epoch step pos => Sys2Proof.Machine.execCommitMarker group epoch step pos s
  | .cascadeProgressMessage group step => Sys2Proof.Machine.execCascadeProgressMessage group step s
  | .upstreamLost group step pos => Sys2Proof.Machine.execUpstreamLost group step pos s
  | .epochHoldExpiry group => Sys2Proof.Machine.execEpochHoldExpiry group s
  | .membershipChange group lost => Sys2Proof.Machine.execMembershipChange group lost s
  | .membershipRebuild group list map rank parts known => Sys2Proof.Machine.execMembershipRebuild group list map rank parts s known
  | .replayDispatch ctx express opseq launch => Sys2Proof.Machine.execReplayDispatch ctx express opseq launch s
  | .lockstepRecord part => Sys2Proof.Machine.execLockstepRecord part s
  | .digestCompare part shardsAgree => Sys2Proof.Machine.execDigestCompare part shardsAgree s
  | .replicaReloadComplete part die => Sys2Proof.Machine.execReplicaReloadComplete part die s
  | .fountainQueueRelease die => Sys2Proof.Machine.execFountainQueueRelease die s
  | .regionLoadAcceptance die => Sys2Proof.Machine.execRegionLoadAcceptance die s
  | .regionImageVerified die => Sys2Proof.Machine.execRegionImageVerified die s
  | .regionRelease die => Sys2Proof.Machine.execRegionRelease die s
  | .regionDeadlineExpiry die => Sys2Proof.Machine.execRegionDeadlineExpiry die s
  | .configScrub die region frame upset => Sys2Proof.Machine.execConfigScrub die region frame upset s
  | .frameReceive die group lanes => Sys2Proof.Machine.execFrameReceive die group lanes s
  | .frameSend die => Sys2Proof.Machine.execFrameSend die s
  | .ackIntervalExpiry die => Sys2Proof.Machine.execAckIntervalExpiry die s
  | .ackTimeout die => Sys2Proof.Machine.execAckTimeout die s
  | .laneSpareTrigger die lane lsClean => Sys2Proof.Machine.execLaneSpareTrigger die lane lsClean s
  | .swapreq die => Sys2Proof.Machine.execSwapreq die s
  | .swapack die => Sys2Proof.Machine.execSwapack die s
  | .swapSwitch die => Sys2Proof.Machine.execSwapSwitch die s
  | .recovery die blame lsClean => Sys2Proof.Machine.execRecovery die blame lsClean s
  | .portLost die => Sys2Proof.Machine.execPortLost die s
  | .signalDetect die lanes => Sys2Proof.Machine.execSignalDetect die lanes s
  | .trainingBurst die => Sys2Proof.Machine.execTrainingBurst die s
  | .trainingBlock die lane ctl margin => Sys2Proof.Machine.execTrainingBlock die lane ctl margin s
  | .linkUp die => Sys2Proof.Machine.execLinkUp die s
  | .lpreq die => Sys2Proof.Machine.execLpreq die s
  | .lpack die => Sys2Proof.Machine.execLpack die s
  | .lpnak die => Sys2Proof.Machine.execLpnak die s
  | .lp1IdleExpiry die => Sys2Proof.Machine.execLp1IdleExpiry die s
  | .portWake die => Sys2Proof.Machine.execPortWake die s
  | .wakeTimeout die => Sys2Proof.Machine.execWakeTimeout die s
  | .remove die => Sys2Proof.Machine.execRemove die s
  | .surpriseRemoval die cable => Sys2Proof.Machine.execSurpriseRemoval die cable s
  | .idupd die => Sys2Proof.Machine.execIdupd die s
  | .plumbTs die stamps => Sys2Proof.Machine.execPlumbTs die stamps s
  | .plumbRpt die => Sys2Proof.Machine.execPlumbRpt die s
  | .plumbSample die => Sys2Proof.Machine.execPlumbSample die s
  | .plumbLog die => Sys2Proof.Machine.execPlumbLog die s
  | .expressMessageArrival die => Sys2Proof.Machine.execExpressMessageArrival die s
  | .readRequest die fromModule => Sys2Proof.Machine.execReadRequest die fromModule s
  | .writeRequest die fromModule => Sys2Proof.Machine.execWriteRequest die fromModule s
  | .messagePacket die fromModule => Sys2Proof.Machine.execMessagePacket die fromModule s
  | .readResponse die fromModule => Sys2Proof.Machine.execReadResponse die fromModule s
  | .writeAcknowledgement die fromModule => Sys2Proof.Machine.execWriteAcknowledgement die fromModule s
  | .managementPacket die fromModule => Sys2Proof.Machine.execManagementPacket die fromModule s
  | .surveyPacket die fromModule => Sys2Proof.Machine.execSurveyPacket die fromModule s
  | .transactionTimeout die tag => Sys2Proof.Machine.execTransactionTimeout die tag s
  | .ptmDialogue answer => Sys2Proof.Machine.execPtmDialogue answer s
  | .sync die sent oneStep domain seq => Sys2Proof.Machine.execSync die sent oneStep domain seq s
  | .followUp die sent domain seq origin tlv => Sys2Proof.Machine.execFollowUp die sent domain seq origin tlv s
  | .pdelayReq die t1 t2 t3 t4 => Sys2Proof.Machine.execPdelayReq die t1 t2 t3 t4 s
  | .announce die sent domain prio1 cls acc var prio2 ident steps => Sys2Proof.Machine.execAnnounce die sent domain prio1 cls acc var prio2 ident steps s
  | .announceReceiptTimeout die => Sys2Proof.Machine.execAnnounceReceiptTimeout die s
  | .slewEnd => Sys2Proof.Machine.execSlewEnd s
  | .counterChangeApply => Sys2Proof.Machine.execCounterChangeApply s
  | .epochApply => Sys2Proof.Machine.execEpochApply s
  | .adoption => Sys2Proof.Machine.execAdoption s
  | .clockDomainStopped die domain rootPll => Sys2Proof.Machine.execClockDomainStopped die domain rootPll s
  | .crossingTimeout die domain waited => Sys2Proof.Machine.execCrossingTimeout die domain waited s
  | .tapTestDue die pt => Sys2Proof.Machine.execTapTestDue die pt s
  | .tapTestResult die signature => Sys2Proof.Machine.execTapTestResult die signature s
  | .tapGraceExpiry die area => Sys2Proof.Machine.execTapGraceExpiry die area s
  | .fenceDecision die lt => Sys2Proof.Machine.execFenceDecision die lt s
  | .liveActivation fails => Sys2Proof.Machine.execLiveActivation fails s
  | .calibrationWrite data whole => Sys2Proof.Machine.execCalibrationWrite data whole s
  | .faultRecordDelivery => Sys2Proof.Machine.execFaultRecordDelivery s
  | .powerGood split addr vbat => Sys2Proof.Machine.execPowerGood split addr vbat s
  | .powerGoodWithdrawn => Sys2Proof.Machine.execPowerGoodWithdrawn s
  | .enloopClose volts => Sys2Proof.Machine.execEnloopClose volts s
  | .enloopOpen => Sys2Proof.Machine.execEnloopOpen s
  | .pwrredAssert => Sys2Proof.Machine.execPwrredAssert s
  | .pwrredRelease => Sys2Proof.Machine.execPwrredRelease s
  | .governorInterval x => Sys2Proof.Machine.execGovernorInterval x s
  | .fastClamp cause => Sys2Proof.Machine.execFastClamp cause s
  | .clampRelease => Sys2Proof.Machine.execClampRelease s
  | .supplyDroop die => Sys2Proof.Machine.execSupplyDroop die s
  | .shutdownLimit die => Sys2Proof.Machine.execShutdownLimit die s
  | .thermalTrip => Sys2Proof.Machine.execThermalTrip s
  | .stageAEntry octal => Sys2Proof.Machine.execStageAEntry octal s
  | .recoveryStageA usable octal => Sys2Proof.Machine.execRecoveryStageA usable octal s
  | .internalDone bad fails shells => Sys2Proof.Machine.execInternalDone bad fails s shells
  | .externalDoneHigh => Sys2Proof.Machine.execExternalDoneHigh s
  | .xdoneTimeout => Sys2Proof.Machine.execXdoneTimeout s
  | .stageBEntry => Sys2Proof.Machine.execStageBEntry s
  | .tilesFull fails => Sys2Proof.Machine.execTilesFull fails s
  | .clkFull => Sys2Proof.Machine.execClkFull s
  | .fmtWide => Sys2Proof.Machine.execFmtWide s
  | .hbmFull => Sys2Proof.Machine.execHbmFull s
  | .vidon => Sys2Proof.Machine.execVidon s
  | .stageCEntry => Sys2Proof.Machine.execStageCEntry s
  | .registerRead req off size be => Sys2Proof.Machine.execRegisterRead req off size be s
  | .configurationRequest link => Sys2Proof.Machine.execConfigurationRequest link s
  | .cprsAssert port => Sys2Proof.Machine.execCprsAssert port s
  | .wakeTone die => Sys2Proof.Machine.execWakeTone die s
  | .blockMemoryAccess die region mem a b flips => Sys2Proof.Machine.execBlockMemoryAccess die region mem a b flips s
  | .ringOscillatorWindow die osc count => Sys2Proof.Machine.execRingOscillatorWindow die osc count s
  | .entropyHealthTest passed => Sys2Proof.Machine.execEntropyHealthTest passed s

end Sys2Proof.Machine
end

