-- ==== Sys2Proof/Machine/Step.lean ====
section
/-! DEFINITION. One step: the command in front, or one cycle of CK_CLP on an empty queue. -/

namespace Sys2Proof.Machine

/-- The command at the front of the queue is taken and run; on an empty queue one CK_CLP cycle passes (DESIGN CHOICE, note 1). -/
def step (s : State) : Host.Outcome State Fault Refusal :=
  match s.pending with
  | [] => .next (tickClock s)
  | c :: r => exec c { s with pending := r }

/-- The state with the command a table word spells in front of its queue; unchanged where the word spells none (note 3). -/
def State.withFetchWord (s : State) (nbits w : Nat) : State :=
  match decodeTableWord nbits w with
  | some c => { s with pending := c :: s.pending }
  | none => s

end Sys2Proof.Machine
end

