-- ==== Sys2Proof/WellFormed.lean ====
section
/-! DEFINITION. Which operands name something the module has: the commands whose operands hold a list or a number that the types do
not bound. A meaning stops on the others with the fault illFormed. -/

namespace Sys2Proof

/-- Whether a command's operands name something the module has: nine lanes of a port (14 R322) and nine stamps (14 R359), 170 Runnel
ports (12 R286), 17 junctions and 16 stacks (20 R485), an epoch TLV of 42 bytes in a received Follow_Up (15 R371), calibration data that
fits its slot (19 R473). Every other operand is bounded by its type. -/
def Instr.wellFormed : Instr → Bool
  | .frameReceive _ _ lanes => lanes.all (fun e => decide (e.1 ≤ 8))
  | .plumbTs _ stamps => stamps.length == 9
  | .sluiceRaise _ ports => ports.all (fun p => decide (p < 170))
  | .governorInterval x => x.tj.length == 17 && x.hbm.length == 16
  | .followUp _ sent _ _ _ tlv => sent || tlv.length == 42
  | .calibrationWrite data _ => decide (data.length ≤ 65472)
  | _ => true

end Sys2Proof
end

