-- ==== Sys2Proof/Safety.lean ====
section
/-! DEFINITION. The terms the claims are stated in: memories in canonical form, Keystone's fuses and counters, a word at a tile's
issue stage and what issuing it leaves, a command at Keystone's head, locks and clocks. -/

namespace Sys2Proof.Machine

/-! ## Memories -/

/-- The block memories of a die's fabrics are in canonical form: the shell's and each region's (10 R251). -/
def mortarWf (m : Mortar) : Bool := memWf 0 m.shell.bram && m.regions.all (fun r => memWf 0 r.2.bram)

/-- Every memory of the module is in canonical form: host memory, the memories of each tile, each die's stack, Basin and block memories, the two
flashes, and the block memories of the hub's fabric. -/
def Memory.wf (s : State) : Bool :=
  memWf 0 s.host &&
  s.tiles.all (fun e => memWf 0 e.2.mem.obuf && memWf false e.2.mem.valid && memWf 0 e.2.mem.cist && memWf 0 e.2.mem.ctag
    && memWf {} e.2.mem.cdesc && memWf 0 e.2.seq.imem) &&
  s.dies.all (fun e => memWf 0 e.2.hbm.lines && (memWf 0 e.2.basin && mortarWf e.2.mortar)) &&
  memWf 0xFF s.hub.bootFlash && (memWf 0xFF s.hub.hubFlash && memWf 0 s.hub.fabric.bram)

/-! ## Keystone (18 R444 to R448, R451) -/

/-- The fuses and the key slots: OWNED, KEYSRC, the revoked roots, the minimum SVNs, the eFuse image key, the slots with their
counters. -/
def fusesOf (k : Keystone) : Bool × Bool × Nat × SMap Nat × Option (List Byte) × SMap KeySlot :=
  (k.owned, k.keysrc, k.rootRevoked, k.svn, k.fuseKey, k.slots)

/-- No fuse is undone, no minimum SVN falls and no counter falls from one state of Keystone to another (18 R444, R447, R448, R451). -/
def FusesRise (k k' : Keystone) : Prop :=
  (k.owned = true → k'.owned = true) ∧ (k.keysrc = true → k'.keysrc = true) ∧
  (∀ i, k.rootRevoked.testBit i = true → k'.rootRevoked.testBit i = true) ∧
  (∀ t, mget 0 k.svn t ≤ mget 0 k'.svn t) ∧
  (∀ x, k.fuseKey = some x → k'.fuseKey = some x) ∧
  (∀ i, (mget {} k.slots i).lastCtr ≤ (mget {} k'.slots i).lastCtr)

/-- Keystone's fuses and slots are ones the rules of chapter 18 allow: at least one root left, every SVN at most 32, every slot EMPTY,
ACTIVE or REVOKED with 7 rights bits and a 64-bit counter, slot 0 never REVOKED, and ACTIVE once OWNED is blown. -/
def KeystoneLegal (k : Keystone) : Prop :=
  k.rootRevoked < 15 ∧ (∀ t, mget 0 k.svn t ≤ 32) ∧
  (∀ i, (mget {} k.slots i).state ≤ 2 ∧ (mget {} k.slots i).rights < 128 ∧ (mget {} k.slots i).lastCtr < 2 ^ 64) ∧
  (mget {} k.slots 0).state ≤ 1 ∧ (k.owned = true → (mget {} k.slots 0).state = 1)

/-! ## Words of the sequencer (05 R113 to R131) -/

/-- The word `opc` `w` is the next to issue on a tile: the tile runs, nothing it would have to accept first is pending, its launch has
come, its PC is inside IMEM and holds the word, and the word may stand in a delay slot where it stands in one. -/
def AtIssue (s : State) (die : Die) (pt : PT) (opc : BitVec 8) (w : BitVec 56) : Prop :=
  let q := (tileOf s die pt).seq
  (q.status = .run ∨ q.status = .held) ∧ (reqPending q && acceptable q) = false ∧ q.awaits = false ∧ q.notBefore ≤ mltNs s ∧
    q.pcOver = false ∧ imemAt q q.pc = opc ++ w ∧ (q.delay = 0 ∨ delaySlotOk opc.toNat = true)

/-- A tile as the issue stage sees it: the results whose slot has come have landed (05 R119). -/
def landedTile (s : State) (die : Die) (pt : PT) : Tile := { tileOf s die pt with seq := landDue (tileOf s die pt).seq }

/-- A tile after a word other than BR and REP has issued: the slot and the PC have moved on (05 R113, R122, R124). -/
def wordEnds (t : Tile) : Tile := { t with seq := { advance t.seq with status := .run } }

/-- A tile after a word whose results land `lat` slots later (05 R117, R119). -/
def delivers (t : Tile) (lat : Nat) (ds : List Dest) : Tile := wordEnds (later t lat ds)

/-- The state in which tile `pt` of `die` is `t` and all else is as it was. -/
def withTile (s : State) (die : Die) (pt : PT) (t : Tile) : State := modTile s die pt fun _ => t

/-! ## Operations and registers (16, 17) -/

/-- A command names the operation `o`, which is in flight under key `k`. -/
def Names (s : State) (ctx : Fin 4096) (express : Bool) (opseq : W32) (k : Nat) (o : Op) : Prop :=
  named s ctx express opseq = some (k, o) ∧ opOf s k = some o

/-- A 4-byte access of requester `req` at offset `off` reaches the register with key `k`, and nothing it crosses is stopped (17 R426, R432). -/
def Reaches (s : State) (req : Fin 3) (off k : Nat) : Prop :=
  (req = 1 → twoLinks s = true) ∧ off % 4 = 0 ∧ off < 2 ^ 26 ∧ ∃ p, locate s req off = .ok p ∧ p.key = k ∧ waits s none p = false

/-! ## Critical commands (18 R449 to R453, R511) -/

/-- The command `c` of CCODE `code` is the only one in Keystone's queue, has passed steps 1 to 6 and brings the bytes its block needs. -/
def KsAtHead (s : State) (code : Nat) (c : KsCmd) : Prop :=
  s.ks.queue = [c] ∧ c.accepted = true ∧ ksCode c = code ∧ ksNeed code ≤ c.params.length

/-- From `s` to `u` the command `c` has left Keystone's queue, complete with `code`: its operation's record is due with it, or the mailbox
reports it and is free. -/
def KsReports (s u : State) (c : KsCmd) (code : BitVec 8) : Prop :=
  u.ks.queue = [] ∧
  (∀ k o, c.op = some k → opOf s k = some o → opOf u k = some { o with phase := .recordDue, code := code, seedE := 0 }) ∧
  (c.op = none → flag u (ksB + 0x140) 29 = true ∧ fld u (ksB + 0x140) 0 8 = code.toNat ∧ u.ks.mailBusy = false)

/-- The units outside Keystone and the queues are as they were: dies, tiles, partitions, contexts, ports, time, host memory. -/
def UnitsKept (s u : State) : Prop :=
  u.dies = s.dies ∧ u.tiles = s.tiles ∧ u.parts = s.parts ∧ u.tcs = s.tcs ∧ u.ports = s.ports ∧ u.clp = s.clp ∧ u.host = s.host

/-! ## The module as a whole -/

/-- The commands that take power good away and with it every volatile state (20 R479, R484, R491, R499). -/
def losesPower (s : State) (c : Instr) : Bool :=
  match c with
  | .powerGoodWithdrawn => true
  | .enloopOpen => true
  | .thermalTrip => true
  | .shutdownLimit d => decide (d.val = 16) || hubHot s
  | _ => false

/-- The correction of the counters is one of R367 and R374: FREQ within ±100 ppm, no slew or one of ±500 ppm. -/
def ClockLegal (c : Clep) : Prop :=
  -109951162 ≤ c.freq ∧ c.freq ≤ 109951162 ∧ (c.slew = 0 ∨ c.slew = 549755813 ∨ c.slew = -549755813)

/-- A register with fields that its LOCK bit locks (17 R429). -/
def Lockable (k : Nat) : Prop := ∃ m, fieldsOf k = some m ∧ m.rwl ≠ 0

/-- Every lockable register holds values its fields allow. -/
def LocksLegal (s : State) : Prop := ∀ k, Lockable k → clampReg k (raw s k) (raw s k) = raw s k

end Sys2Proof.Machine
end

