-- ==== Sys2Proof/Certificates/Slice0/Obligations.lean ====
section
/-! DEFINITION. The statements for the provers, in the order of the spec's chapters. -/

open Sys2Proof Sys2Proof.Machine

/-! ## The words of the sequencer -/

/-- R113, R117, R119: each scalar word at issue completes and gives its result, `lat` slots later, to D alone: the sum, difference,
bitwise functions, shifts by B mod 32, the low product and the signed comparison of S[A] and S[B] or IMM.

R117: NOP, LI and MFV at issue complete: nothing, IMM, lane IMM[5:0] of V[A] for D.
Model's choice it rests on: note 10. -/
def Obligations.ScalarUnitWordsComplete : Prop :=
  (∀ (s : State) (die : Die) (pt : PT) (w : BitVec 56), scalarOk w 1 = true →
     let t := landedTile s die pt
     let a := rdS t (fA w)
     let b := if fMod w = 1 then fImm w else rdS t (fB w)
     let gives (lat : Nat) (v : W32) : Out := .next (withTile s die pt (delivers t lat [.s (fD w) v]))
     (AtIssue s die pt 0x01 w → exec (.add die pt w) s = gives 1 (a + b)) ∧
     (AtIssue s die pt 0x02 w → exec (.sub die pt w) s = gives 1 (a - b)) ∧
     (AtIssue s die pt 0x03 w → exec (.and die pt w) s = gives 1 (a &&& b)) ∧
     (AtIssue s die pt 0x04 w → exec (.or die pt w) s = gives 1 (a ||| b)) ∧
     (AtIssue s die pt 0x05 w → exec (.xor die pt w) s = gives 1 (a ^^^ b)) ∧
     (AtIssue s die pt 0x06 w → exec (.shl die pt w) s = gives 1 (a <<< (b.toNat % 32))) ∧
     (AtIssue s die pt 0x07 w → exec (.shr die pt w) s = gives 1 (a >>> (b.toNat % 32))) ∧
     (AtIssue s die pt 0x08 w → exec (.sra die pt w) s = gives 1 (a.sshiftRight (b.toNat % 32))) ∧
     (AtIssue s die pt 0x09 w → exec (.mul die pt w) s = gives 3 (a * b)) ∧
     (AtIssue s die pt 0x0A w → exec (.slt die pt w) s = gives 1 (if a.toInt < b.toInt then 1 else 0))) ∧
  (∀ (s : State) (die : Die) (pt : PT) (w : BitVec 56), scalarOk w 0 = true →
     let t := landedTile s die pt
     (AtIssue s die pt 0x00 w → exec (.nop die pt w) s = .next (withTile s die pt (wordEnds t))) ∧
     (AtIssue s die pt 0x0B w → exec (.li die pt w) s = .next (withTile s die pt (delivers t 1 [.s (fD w) (fImm w)]))) ∧
     (AtIssue s die pt 0x0C w → (fA w).toNat < 16 →
       ∀ l : Fin 64, l.val = (fImm w).toNat % 64 →
         exec (.mfv die pt w) s = .next (withTile s die pt (delivers t 2 [.s (fD w) ((rdV t (vReg (fA w))).get l)]))))

/-- R113, R119, R120, R134: a result that is due lands when its slot has come, in every register but S0, which reads 0 whatever lands in
it; every other register of the tile, its PC and its memories stay as they were, and so does every other tile. An error that ECC corrects
changes nothing of this; after an uncorrectable one, a suspect event of the die, nothing lands on a tile without a part. -/
def Obligations.ScalarResultLands : Prop :=
  ∀ (s : State) (die : Die) (pt : PT) (r : BitVec 5) (v : W32) (due : Nat) (err : TileErr),
    let t := tileOf s die pt
    t.seq.inflight = [⟨due, [.s r v]⟩] → due ≤ t.seq.slot →
      (err ≠ .uncorrectable → ∃ u : State, exec (.registerResultLand die pt err) s = .next u ∧
        let x := tileOf u die pt
        rdS x 0 = 0 ∧ (r ≠ 0 → rdS x r = v) ∧ (∀ q, q ≠ r → rdS x q = rdS t q) ∧ x.seq.inflight = [] ∧ x.seq.pc = t.seq.pc ∧
          x.seq.vreg = t.seq.vreg ∧ x.seq.mreg = t.seq.mreg ∧ x.mem = t.mem ∧
          (∀ d p, tileKey d p ≠ tileKey die pt → tileOf u d p = tileOf s d p) ∧ (err = .clean → u.regs = s.regs ∧ u.dies = s.dies)) ∧
      (t.part = none → ∃ u : State, exec (.registerResultLand die pt .uncorrectable) s = .next u ∧ u.tiles = s.tiles ∧
        flag u (hltB + 0x2200 + 4 * die) 1 = true)

/-- R115, R117, R135: the integer words of the vector unit at issue complete: the enabled lanes of V[D] take the result lane by lane,
`lat` slots later, and no flag is set.

R115, R117: VSEL, VPERM and VBCAST move lanes: V[D] takes, `lat` slots later in its enabled lanes, lanes of A or B by a mask, the
lanes of A and B in the order of the mode, S[A] in every lane.
Model's choice it rests on: note 10. -/
def Obligations.VectorLaneWordsComplete : Prop :=
  (∀ (s : State) (die : Die) (pt : PT) (w : BitVec 56),
     let t := landedTile s die pt
     let a := rdV t (vReg (fA w))
     let b := rdV t (vReg (fB w))
     let en := laneMask t (fMsel w)
     let sh (l : Fin 64) : Nat := (b.get l).toNat % 32
     let gives (lat : Nat) (f : Fin 64 → W32) : Out := .next (withTile s die pt (delivers t lat [.v (vReg (fD w)) en (Vector.ofFn f)]))
     (fD w).toNat < 16 → (fA w).toNat < 16 → (fB w).toNat < 16 → fMsel w ≤ 4 →
       (fMod w = 0 →
         (AtIssue s die pt 0x70 w → exec (.viadd die pt w) s = gives 1 (fun l => a.get l + b.get l)) ∧
         (AtIssue s die pt 0x71 w → exec (.visub die pt w) s = gives 1 (fun l => a.get l - b.get l)) ∧
         (AtIssue s die pt 0x72 w → exec (.vimul die pt w) s = gives 3 (fun l => a.get l * b.get l)) ∧
         (AtIssue s die pt 0x73 w → exec (.vlogic die pt w) s = gives 1 (fun l => a.get l &&& b.get l)) ∧
         (AtIssue s die pt 0x74 w → exec (.vshift die pt w) s = gives 1 (fun l => a.get l <<< sh l))) ∧
       (fMod w = 1 →
         (AtIssue s die pt 0x73 w → exec (.vlogic die pt w) s = gives 1 (fun l => a.get l ||| b.get l)) ∧
         (AtIssue s die pt 0x74 w → exec (.vshift die pt w) s = gives 1 (fun l => a.get l >>> sh l))) ∧
       (fMod w = 2 →
         (AtIssue s die pt 0x73 w → exec (.vlogic die pt w) s = gives 1 (fun l => a.get l ^^^ b.get l)) ∧
         (AtIssue s die pt 0x74 w → exec (.vshift die pt w) s = gives 1 (fun l => (a.get l).sshiftRight (sh l))))) ∧
  (∀ (s : State) (die : Die) (pt : PT) (w : BitVec 56),
     let t := landedTile s die pt
     let a := rdV t (vReg (fA w))
     let b := rdV t (vReg (fB w))
     let en := laneMask t (fMsel w)
     let gives (lat : Nat) (en : W64) (x : Lanes) : Out := .next (withTile s die pt (delivers t lat [.v (vReg (fD w)) en x]))
     (fD w).toNat < 16 → fMsel w ≤ 4 →
       (AtIssue s die pt 0x76 w → fMod w = 0 → exec (.vbcast die pt w) s = gives 2 en (Vector.replicate 64 (rdS t (fA w)))) ∧
       ((fA w).toNat < 16 → (fB w).toNat < 16 →
         (AtIssue s die pt 0x67 w → fMod w = 0 → fMsel w ≠ 0 →
           exec (.vsel die pt w) s = gives 1 (-1) (Vector.ofFn fun l => if en.getLsbD l then a.get l else b.get l)) ∧
         (AtIssue s die pt 0x75 w → fMod w ≤ 4 → ∃ x : Lanes, exec (.vperm die pt w) s = gives 2 en x ∧
           ∀ l : Fin 32,
             let lo : Fin 64 := ⟨l.val, by omega⟩
             let hi : Fin 64 := ⟨l.val + 32, by omega⟩
             let ev : Fin 64 := ⟨2 * l.val, by omega⟩
             let od : Fin 64 := ⟨2 * l.val + 1, by omega⟩
             (fMod w = 0 → x.get lo = a.get ev ∧ x.get hi = b.get ev) ∧
             (fMod w = 1 → x.get lo = a.get od ∧ x.get hi = b.get od) ∧
             (fMod w = 2 → x.get ev = a.get lo ∧ x.get od = b.get lo) ∧
             (fMod w = 3 → x.get ev = a.get hi ∧ x.get od = b.get hi) ∧
             (fMod w = 4 → ∀ j : Fin 64, x.get j = a.get (Fin.ofNat 64 (j.val + (fImm w).toNat))))))

/-- R117, R137: VMIN, VMAX and VCMP at issue complete and set no flag. In INT32 mode (MOD[3]) the minimum and maximum are those of the
signed values and a relation compares them; in floating-point mode a NaN operand gives the canonical NaN, and makes every relation
false but NE; otherwise the minimum is an operand that the other does not precede, likewise the maximum.

R138: VMAXI and VMINI at issue complete: in each enabled lane the candidate (A[l], S[B] + l) replaces the pair (V[D], V[D + 1]) where
it precedes it, and with MOD[0] S[B] rises by 64; RMAXI and RMINI deliver, where a lane is enabled, the value and index of a lane that
no enabled lane precedes, into S[D] and S[D + 1].
Model's choice it rests on: note 10. -/
def Obligations.VectorOrderWordsComplete : Prop :=
  (∀ (s : State) (die : Die) (pt : PT) (w : BitVec 56),
     let t := landedTile s die pt
     let a := rdV t (vReg (fA w))
     let b := rdV t (vReg (fB w))
     let en := laneMask t (fMsel w)
     let int := (fMod w).testBit 3
     let rel := fMod w % 8
     let nan (l : Fin 64) : Bool := isNan32 (a.get l) || isNan32 (b.get l)
     (fA w).toNat < 16 → (fB w).toNat < 16 → fMsel w ≤ 4 →
       (fMod w = 0 ∨ fMod w = 8 → (fD w).toNat < 16 →
         (AtIssue s die pt 0x64 w → ∃ x : Lanes,
           exec (.vmin die pt w) s = .next (withTile s die pt (delivers t 2 [.v (vReg (fD w)) en x])) ∧
           ∀ l, (int = true → (x.get l).toInt = min (a.get l).toInt (b.get l).toInt) ∧
             (int = false → nan l = true → x.get l = 0x7FC00000#32) ∧
             (int = false → nan l = false → (x.get l = a.get l ∧ ltLane false (b.get l) (a.get l) = false) ∨
               (x.get l = b.get l ∧ ltLane false (a.get l) (b.get l) = false))) ∧
         (AtIssue s die pt 0x65 w → ∃ x : Lanes,
           exec (.vmax die pt w) s = .next (withTile s die pt (delivers t 2 [.v (vReg (fD w)) en x])) ∧
           ∀ l, (int = true → (x.get l).toInt = max (a.get l).toInt (b.get l).toInt) ∧
             (int = false → nan l = true → x.get l = 0x7FC00000#32) ∧
             (int = false → nan l = false → (x.get l = a.get l ∧ ltLane false (a.get l) (b.get l) = false) ∨
               (x.get l = b.get l ∧ ltLane false (b.get l) (a.get l) = false)))) ∧
       (rel ≤ 5 → fMod w < 16 → (fD w).toNat < 4 → AtIssue s die pt 0x66 w → ∃ m : W64,
         exec (.vcmp die pt w) s = .next (withTile s die pt (delivers t 2 [.m ((fD w).extractLsb' 0 2) en m])) ∧
         ∀ l : Fin 64,
           let x := (a.get l).toInt
           let y := (b.get l).toInt
           (int = true → m.getLsbD l = (match rel with
             | 0 => decide (x = y) | 1 => decide (x ≠ y) | 2 => decide (x < y) | 3 => decide (x ≤ y) | 4 => decide (y < x)
             | _ => decide (y ≤ x))) ∧
           (int = false → nan l = true → m.getLsbD l = decide (rel = 1)))) ∧
  (∀ (s : State) (die : Die) (pt : PT) (w : BitVec 56),
     let t := landedTile s die pt
     let int := (fMod w).testBit 3
     let a := rdV t (vReg (fA w))
     let bestV := rdV t (vReg (fD w))
     let bestI := rdV t (vReg (fD w) + 1)
     let base := rdS t (fB w)
     let en := laneMask t (fMsel w)
     let idx (l : Fin 64) : W32 := base + BitVec.ofNat 32 l.val
     let step : List Dest := [.s (fB w) (base + 64)]
     let search (mx : Bool) : Out :=
       let win (l : Fin 64) : Bool := precedes int mx (a.get l) (idx l) (bestV.get l) (bestI.get l)
       let u := later t 2
         [.v (vReg (fD w)) en (Vector.ofFn fun l => if win l then canonLane int (a.get l) else bestV.get l),
          .v (vReg (fD w) + 1) en (Vector.ofFn fun l => if win l then idx l else bestI.get l)]
       .next (withTile s die pt (if (fMod w).testBit 0 then delivers u 1 step else wordEnds u))
     let iv := rdV t (vReg (fA w) + 1)
     let reduce (mx : Bool) (out : Out) : Prop :=
       (en = 0 → out = .next (withTile s die pt (wordEnds t))) ∧
       (en ≠ 0 → ∃ l : Fin 64, en.getLsbD l = true ∧
         (∀ m : Fin 64, en.getLsbD m = true → precedes int mx (a.get m) (iv.get m) (a.get l) (iv.get l) = false) ∧
         out = .next (withTile s die pt (delivers t 8 [.s (fD w) (canonLane int (a.get l)), .s (fD w + 1) (iv.get l)])))
     fMsel w ≤ 4 → (fA w).toNat < 16 → (fD w).toNat % 2 = 0 →
       ((fD w).toNat < 16 → fMod w % 2 + 8 * (fMod w / 8 % 2) = fMod w →
         (AtIssue s die pt 0x69 w → exec (.vmaxi die pt w) s = search true) ∧
         (AtIssue s die pt 0x6A w → exec (.vmini die pt w) s = search false)) ∧
       ((fA w).toNat % 2 = 0 → (fMod w = 0 ∨ fMod w = 8) →
         (AtIssue s die pt 0x6B w → reduce true (exec (.rmaxi die pt w) s)) ∧
         (AtIssue s die pt 0x6C w → reduce false (exec (.rmini die pt w) s))))

/-- R117, R135, R136: VADD, VSUB, VMUL and VFMA at issue complete: each enabled lane of V[D] takes, 4 slots later, one rounding of the exact
sum, difference, product or product plus lane of V[D], and the flags of the enabled lanes enter the part. CMUL with even registers completes:
the real and imaginary halves of every complex product, each one rounding of its exact expression, land in the pair of D after 4 slots, with
MOD[0] the imaginary part of B negated first; with an odd register it enters the fault state with cause 0x0E instead.

R139: VRSUM at issue completes: the sum of the 64 lanes in the rule's tree, each step one rounding, lands in every enabled lane of V[D]
after 8 slots.

R140: VFN at issue completes: each enabled lane of V[D] takes, after 8 slots, 2^x, log2 x, 1/x or 1/√x of the lane of V[A] by MOD, as the
model computes them (note 23), with the special cases of the rule.

R141: VCVT at issue completes: each enabled lane of V[D] takes, after 4 slots, the value of its operand, an INT32 with MOD[3], converted to
the output format, with the flags of the conversions.
Model's choices it rests on: notes 10, 23, 29 and 148. -/
def Obligations.VectorFloatingWordsComplete : Prop :=
  ∀ (s : State) (die : Die) (pt : PT) (w : BitVec 56),
    let t := landedTile s die pt
    let a := rdV t (vReg (fA w))
    let b := rdV t (vReg (fB w))
    let d := rdV t (vReg (fD w))
    let en := laneMask t (fMsel w)
    let gives (lat : Nat) (f : Fin 64 → W32 × FlagSet) : Out :=
      .next (withTile s die pt (delivers (addFlags t (laneOp en f).2) lat [.v (vReg (fD w)) en (Vector.ofFn fun l => (f l).1)]))
    (fD w).toNat < 16 → (fA w).toNat < 16 → fMsel w ≤ 4 →
      (fMod w = 0 → (fB w).toNat < 16 →
        (AtIssue s die pt 0x60 w → exec (.vadd die pt w) s = gives 4 (fun l => op32 (addV (val32 (a.get l)) (val32 (b.get l))))) ∧
        (AtIssue s die pt 0x61 w → exec (.vsub die pt w) s = gives 4 (fun l => op32 (addV (val32 (a.get l)) (negV (val32 (b.get l)))))) ∧
        (AtIssue s die pt 0x62 w → exec (.vmul die pt w) s = gives 4 (fun l => op32 (mulV (val32 (a.get l)) (val32 (b.get l))))) ∧
        (AtIssue s die pt 0x63 w → exec (.vfma die pt w) s =
          gives 4 (fun l =>
            let p := mulV (val32 (a.get l)) (val32 (b.get l))
            let x := addV p.1 (val32 (d.get l))
            op32 (x.1, p.2 || x.2)))) ∧
      (AtIssue s die pt 0x68 w → fMod w ≤ 1 → (fB w).toNat < 16 →
        let ai := rdV t (vReg (fA w) + 1)
        let bi := rdV t (vReg (fB w) + 1)
        let im (l : Fin 64) : FVal := if fMod w = 1 then negV (val32 (bi.get l)) else val32 (bi.get l)
        let sum2 (x y : FVal × Bool) : FVal × Bool := ((addV x.1 y.1).1, x.2 || y.2 || (addV x.1 y.1).2)
        let re (l : Fin 64) := op32 (sum2 (mulV (val32 (a.get l)) (val32 (b.get l))) (mulV (negV (val32 (ai.get l))) (im l)))
        let ig (l : Fin 64) := op32 (sum2 (mulV (val32 (a.get l)) (im l)) (mulV (val32 (ai.get l)) (val32 (b.get l))))
        ((fD w).toNat % 2 = 0 ∧ (fA w).toNat % 2 = 0 ∧ (fB w).toNat % 2 = 0 → exec (.cmul die pt w) s =
          .next (withTile s die pt (delivers (addFlags t (flagOr (laneOp en re).2 (laneOp en ig).2)) 4
            [.v (vReg (fD w)) en (Vector.ofFn fun l => (re l).1), .v (vReg (fD w) + 1) en (Vector.ofFn fun l => (ig l).1)]))) ∧
        ((fD w).toNat % 2 = 1 ∨ (fA w).toNat % 2 = 1 ∨ (fB w).toNat % 2 = 1 → ∃ u : State, exec (.cmul die pt w) s = .next u ∧
          (tileOf u die pt).seq.status = .fault ∧ (tileOf u die pt).seq.faultValid = true ∧ (tileOf u die pt).seq.faultCause = 0x0E ∧
          (tileOf u die pt).seq.faultPc = (tileOf s die pt).seq.pc)) ∧
      (fMod w = 0 → AtIssue s die pt 0x6D w → ∃ lane : Nat → Nat → W32, ∃ fl : FlagSet,
        exec (.vrsum die pt w) s = .next (withTile s die pt (delivers (addFlags t fl) 8 [.v (vReg (fD w)) en (Vector.replicate 64 (lane 6 0))])) ∧
        (∀ l : Fin 64, lane 0 l = a.get l) ∧
        ∀ k l, k < 6 → l < 32 / 2 ^ k → lane (k + 1) l = (op32 (addV (val32 (lane k l)) (val32 (lane k (l + 32 / 2 ^ k))))).1) ∧
      (AtIssue s die pt 0x6E w → fMod w ≤ 3 → ∃ f : Fin 64 → W32 × FlagSet, exec (.vfn die pt w) s = gives 8 f ∧ ∀ l : Fin 64,
        let x := val32 (a.get l)
        let zero (sg : Bool) : Prop := ∃ e, x = .fin sg 0 e
        let below : Prop := ∃ m e, x = .fin true (m + 1) e
        (x = .nan → f l = (0x7FC00000#32, {})) ∧
        (fMod w = 0 → f l = exp2V (a.get l).toNat x ∧ (x = .inf true → f l = (0#32, {})) ∧ (x = .inf false → f l = (0x7F800000#32, {}))) ∧
        (fMod w = 1 → f l = log2V (a.get l).toNat x ∧ (∀ sg, zero sg → f l = (0xFF800000#32, {})) ∧
          (x = .inf false → f l = (0x7F800000#32, {})) ∧ (below ∨ x = .inf true → f l = (0x7FC00000#32, { nv := true }))) ∧
        (fMod w = 2 → f l = rcpV x ∧ (∀ sg, zero sg → f l = (if sg then 0xFF800000#32 else 0x7F800000#32, {})) ∧
          (∀ sg, x = .inf sg → f l = (if sg then 0x80000000#32 else 0#32, {}))) ∧
        (fMod w = 3 → f l = rsqV x ∧ (∀ sg, zero sg → f l = (if sg then 0xFF800000#32 else 0x7F800000#32, {})) ∧
          (x = .inf false → f l = (0#32, {})) ∧ (below ∨ x = .inf true → f l = (0x7FC00000#32, { nv := true })))) ∧
      (AtIssue s die pt 0x6F w → (fMod w = 0 ∨ fMod w = 8) → iRsv w = false → ofmtOk (iFmt w) = true →
        let conv (l : Fin 64) : Conv :=
          convOut (iFmt w) (iShift w) (rndMode (iRnd w) (partSeed t) (streamOf t) ((rdS t (iIx w)).toNat + l.val)) (iSat w)
            (if (fMod w).testBit 3 then fvalOfInt (a.get l).toInt else val32 (a.get l))
        ∃ x : Lanes, exec (.vcvt die pt w) s =
          .next (withTile s die pt (delivers (addFlags t (laneOp en (fun l => (0, (conv l).flags))).2) 4 [.v (vReg (fD w)) en x])) ∧
        ∀ l : Fin 64,
          (iFmt w = 7 → (x.get l).toNat = (conv l).bits % 2 ^ 32) ∧
          (iFmt w = 2 → (x.get l).toInt = (BitVec.ofInt 32 (signedOf 8 (conv l).bits)).toInt) ∧
          (iFmt w ≠ 2 → iFmt w ≠ 7 → (x.get l).toNat = (round32 (floatOfOut (iFmt w) (conv l).bits)).bits % 2 ^ 32))

/-- R116, R122: BR at issue completes: S[A] is read, the two words after it stand in delay slots, and the word of the last delay slot takes
the PC to TARGET where the condition held at issue, to the next word where it did not.

R116, R124 to R126: REP at issue whose body and cost are within their limits completes: the body runs COUNT times, or is passed over
where the count read from S[A] is 0; the last word of a body that has passes left takes the PC back at no cost, and goes on after the last
pass.

R131: WLCH at issue completes: with EVP it clears EVP and goes on at the pending launch's time; without, it waits for a launch.

R147: END at issue on a tile with nothing outstanding completes: the tile is idle and its SAT and format flags are in the operation;
while something is outstanding, or its lock-step pair holds it, the tile is held, and the cycle counts as a slot.
Model's choices it rests on: notes 9, 10, 18 and 131. -/
def Obligations.ControlWordsComplete : Prop :=
  (∀ (s : State) (die : Die) (pt : PT) (w : BitVec 56),
     let t := landedTile s die pt
     let a := rdS t (w.extractLsb' 51 5)
     let cond := wf w 48 3
     let holds : Prop := cond = 0 ∨ (cond = 1 ∧ a = 0) ∨ (cond = 2 ∧ a ≠ 0) ∨ (cond = 3 ∧ a.toInt < 0) ∨ (cond = 4 ∧ 0 ≤ a.toInt)
     (AtIssue s die pt 0x20 w → wf w 12 36 = 0 → cond < 5 → t.seq.pc.toNat + 2 ≤ 4095 →
       ∃ u : Tile, exec (.br die pt w) s = .next (withTile s die pt u) ∧
         u.seq.pc = t.seq.pc + 1 ∧ u.seq.delay = 2 ∧ u.seq.slot = t.seq.slot + 1 ∧
         (holds → u.seq.brTarget = some (w.extractLsb' 0 12)) ∧ (¬ holds → u.seq.brTarget = none) ∧
         u.seq.sreg = t.seq.sreg ∧ u.seq.vreg = t.seq.vreg ∧ u.seq.mreg = t.seq.mreg ∧ u.mem = t.mem) ∧
     (AtIssue s die pt 0x00 w → scalarOk w 0 = true →
       ∃ u : Tile, exec (.nop die pt w) s = .next (withTile s die pt u) ∧ u.seq.slot = t.seq.slot + 1 ∧
         (t.seq.delay = 2 → u.seq.pc = t.seq.pc + 1 ∧ u.seq.delay = 1 ∧ u.seq.brTarget = t.seq.brTarget) ∧
         (t.seq.delay = 1 → u.seq.pc = t.seq.brTarget.getD (t.seq.pc + 1) ∧ u.seq.delay = 0 ∧ u.seq.brTarget = none))) ∧
  (∀ (s : State) (die : Die) (pt : PT) (w : BitVec 56),
     let t := landedTile s die pt
     let body := wf w 50 6 + 1
     let count := if (w.getLsbD 49) then (rdS t (w.extractLsb' 27 5)).toNat else wf w 32 13 + 1
     let words := (List.range body).map fun i => imemAt t.seq (BitVec.ofNat 12 (t.seq.pc.toNat + 1 + i))
     let cost := (words.map wordCost).foldl (· + ·) 0
     (AtIssue s die pt 0x22 w → wf w 45 4 = 0 → wf w 0 27 = 0 → t.seq.pc.toNat + body ≤ 4095 →
       (∀ x ∈ words, repeatBodyOk (x >>> 56).toNat = true) → count ≤ 8192 → count * cost ≤ 8192 →
       ∃ u : Tile, exec (.rep die pt w) s = .next (withTile s die pt u) ∧
         (0 < count → u.seq.lact = true ∧ u.seq.lcnt = count ∧ u.seq.pc = t.seq.pc + 1 ∧ u.seq.lstart = t.seq.pc + 1 ∧
           u.seq.lend.toNat = t.seq.pc.toNat + body) ∧
         (count = 0 → u.seq.lact = t.seq.lact ∧ u.seq.pc.toNat = (t.seq.pc.toNat + body + 1) % 4096) ∧
         u.seq.slot = t.seq.slot + 1 ∧ u.seq.sreg = t.seq.sreg ∧ u.seq.vreg = t.seq.vreg ∧ u.mem = t.mem) ∧
     (AtIssue s die pt 0x00 w → scalarOk w 0 = true → t.seq.delay = 0 → t.seq.lact = true → t.seq.pc = t.seq.lend →
       ∃ u : Tile, exec (.nop die pt w) s = .next (withTile s die pt u) ∧ u.seq.slot = t.seq.slot + 1 ∧
         (1 < t.seq.lcnt → u.seq.pc = t.seq.lstart ∧ u.seq.lcnt = t.seq.lcnt - 1 ∧ u.seq.lact = true) ∧
         (t.seq.lcnt ≤ 1 → u.seq.pc = t.seq.pc + 1 ∧ u.seq.lact = false))) ∧
  (∀ (s : State) (die : Die) (pt : PT) (w : BitVec 56), AtIssue s die pt 0x23 w → scalarOk w 0 = true →
     let t := landedTile s die pt
     ∃ u : Tile, exec (.wlch die pt w) s = .next (withTile s die pt u) ∧ u.seq.sreg = t.seq.sreg ∧ u.mem = t.mem ∧
       (t.seq.evp = true → u.seq.evp = false ∧ u.seq.notBefore = t.seq.launchTime ∧ u.seq.status = .run ∧ u.seq.slot = t.seq.slot + 1) ∧
       (t.seq.evp = false → u.seq.status = .wlch ∧ u.seq.pc = t.seq.pc ∧ u.seq.slot = t.seq.slot)) ∧
  (∀ (s : State) (die : Die) (pt : PT) (w : BitVec 56), AtIssue s die pt 0x24 w → scalarOk w 0 = true →
     let t := landedTile s die pt
     let outstanding : Prop := t.seq.inflight ≠ [] ∨ t.mem.array ≠ [] ∨ t.mem.wbs ≠ []
     let locked : Prop := ∃ c p, t.part = some c ∧ partOf s c.part = some p ∧ lockFull s die c.part = true
     (¬ outstanding → ¬ locked → ∃ u : State, exec (.endKernel die pt w) s = .next u ∧
       (tileOf u die pt).seq.status = .idle ∧ (tileOf u die pt).ended = true ∧ (tileOf u die pt).mem = t.mem ∧
       ∀ (c : PartCtx) (o : Op), t.part = some c → t.ended = false → opOf s c.op = some o →
         ∃ p : Op, opOf u c.op = some p ∧ p.satSeen = (o.satSeen || t.sat) ∧ p.info.nv = (o.info.nv || t.nv) ∧
           p.info.ovf = (o.info.ovf || t.ovf) ∧ p.info.unf = (o.info.unf || t.unf) ∧ p.phase = o.phase) ∧
     (outstanding ∨ locked → ∃ u : Tile, exec (.endKernel die pt w) s = .next (withTile s die pt u) ∧
       u.seq.status = .held ∧ u.seq.slot = t.seq.slot + 1 ∧ u.seq.pc = t.seq.pc ∧ u.mem = t.mem))

/-- R126: a REP whose body holds a BR, REP, WLCH or END raises the fault with cause 0x0C, one whose body extends past word 4,095 the fault with cause
0x0F, at the REP itself; where both hold, one of the two. -/
def Obligations.RepeatBodiesChecked : Prop :=
  ∀ (s : State) (die : Die) (pt : PT) (w : BitVec 56), AtIssue s die pt 0x22 w → wf w 45 4 = 0 → wf w 0 27 = 0 →
    let t := tileOf s die pt
    let q := t.seq
    let body := wf w 50 6 + 1
    let opcodes := (List.range body).map fun i => (imemAt q (BitVec.ofNat 12 (q.pc.toNat + 1 + i)) >>> 56).toNat
    let holds : Prop := 0x20 ∈ opcodes ∨ 0x22 ∈ opcodes ∨ 0x23 ∈ opcodes ∨ 0x24 ∈ opcodes
    let past : Prop := 4095 < q.pc.toNat + body
    holds ∨ past → ∃ u : State, exec (.rep die pt w) s = .next u ∧
      let r := (tileOf u die pt).seq
      r.status = .fault ∧ r.faultValid = true ∧ r.faultPc = q.pc ∧ (r.faultCause = 0x0C ∨ r.faultCause = 0x0F) ∧
      (¬ past → r.faultCause = 0x0C) ∧ (¬ holds → r.faultCause = 0x0F) ∧ (tileOf u die pt).mem = t.mem ∧ u.regs = s.regs ∧
      (t.part = none → u.dies = s.dies ∧ u.ops = s.ops) ∧
      ∀ d p, tileKey d p ≠ tileKey die pt → (tileOf s d p).part.map (·.op) ≠ t.part.map (·.op) → tileOf u d p = tileOf s d p

/-- R104, R116, R144: ALLOC at issue inside the Cistern with room for one more allocation completes: its request stands behind the others, and the
oldest request not granted is granted with PATH 0b00 and HWMV 0 where its units are in no granted allocation and no write-back reads them; a
seventeenth allocation, or one past the Cistern, enters the fault state with cause 0x0A. FREE of an allocation completes and removes it once
no array write into it is outstanding, and is held until then.

R142, R120: CRD at issue of a row that is written, with no array write into it outstanding, completes: its 64 accumulators converted to FMT land in the
enabled lanes of V[D] after 8 slots, with the flags of the conversions, and the Cistern is unchanged.

R143: CWR at issue completes in every mode: each enabled lane of V[B], as MOD[2] reads it, replaces (ZERO) or is added to its accumulator on
the exact path or that of the total; with ZERO PATH follows; every other accumulator and descriptor is as it was.
Model's choices it rests on: notes 10, 13, 18 and 132. -/
def Obligations.CisternWordsComplete : Prop :=
  (∀ (s : State) (die : Die) (pt : PT) (w : BitVec 56),
     let t := landedTile s die pt
     let first := wf w 47 9
     let count := wf w 38 9 + 1
     let all := t.mem.allocs ++ [⟨false, first, count⟩]
     (AtIssue s die pt 0x30 w → wf w 0 38 = 0 →
       (t.mem.allocs.length < 16 → first + count ≤ 512 →
         ∃ u : Tile, exec (.alloc die pt w) s = .next (withTile s die pt (wordEnds u)) ∧ u.seq = t.seq ∧ u.mem.cist = t.mem.cist ∧
           u.mem.obuf = t.mem.obuf ∧ ∀ (l r : List Alloc) (f n : Nat), all = l ++ ⟨false, f, n⟩ :: r → (∀ a ∈ l, a.grant = true) →
             let free : Prop := (∀ a ∈ t.mem.allocs, a.grant = true → overlap a.first a.count f n = false) ∧
               ∀ b ∈ t.mem.wbs, b.cist = true → b.reading = true → overlap b.first b.count f n = false
             (free → u.mem.allocs = l ++ ⟨true, f, n⟩ :: r ∧ (∀ i, i < n → descOf u.mem (f + i) = {}) ∧
               ∀ k, k < f ∨ f + n ≤ k → descOf u.mem k = descOf t.mem k) ∧
             (¬ free → u.mem.allocs = all ∧ u.mem.cdesc = t.mem.cdesc)) ∧
       (16 ≤ t.mem.allocs.length ∨ 512 < first + count → ∃ u : State, exec (.alloc die pt w) s = .next u ∧
         (tileOf u die pt).seq.status = .fault ∧ (tileOf u die pt).seq.faultCause = 0x0A ∧ (tileOf u die pt).mem = t.mem)) ∧
     (AtIssue s die pt 0x31 w → wf w 0 38 = 0 → wf w 38 9 = 0 → ∀ (l r : List Alloc) (a : Alloc), t.mem.allocs = l ++ a :: r →
       a.first = first → (∀ x ∈ l, x.first ≠ first) →
       ((∀ o ∈ t.mem.array, overlap o.acc o.units first a.count = false) →
         ∃ u : Tile, exec (.free die pt w) s = .next (withTile s die pt (wordEnds u)) ∧ u.seq = t.seq ∧ u.mem = { t.mem with allocs := l ++ r }) ∧
       ((∃ o ∈ t.mem.array, overlap o.acc o.units first a.count = true) →
         ∃ u : Tile, exec (.free die pt w) s = .next (withTile s die pt u) ∧ u.seq.status = .held ∧ u.seq.pc = t.seq.pc ∧
           u.seq.slot = t.seq.slot ∧ u.mem = t.mem))) ∧
  (∀ (s : State) (die : Die) (pt : PT) (w : BitVec 56),
     let t := landedTile s die pt
     let en := laneMask t (fMsel w)
     AtIssue s die pt 0x33 w → fMsel w ≤ 4 → fMod w = 0 → iRsv w = false → (fD w).toNat < 16 → (iFmt w = 6 ∨ iFmt w = 7) →
       let u := iOff w
       let exact := decide ((descOf t.mem u).path = 1)
       let n := if exact then 2 else 1
       let conv (l : Fin 64) : Conv := convOut (iFmt w) (iShift w)
         (rndMode (iRnd w) (partSeed t) (streamOf t) ((rdS t (iIx w)).toNat + l.val)) (iSat w) (accVal exact (rdAcc t.mem exact u l.val))
       u + n ≤ 512 → (∀ i, i < n → (descOf t.mem (u + i)).path ≠ 0) → (∀ o ∈ t.mem.array, overlap o.acc o.units u n = false) →
       exec (.crd die pt w) s = .next (withTile s die pt (delivers (addFlags t (laneOp en (fun l => (0, (conv l).flags))).2) 8
         [.v (vReg (fD w)) en (Vector.ofFn fun l => BitVec.ofNat 32 (conv l).bits)]))) ∧
  (∀ (s : State) (die : Die) (pt : PT) (w : BitVec 56),
     let t := landedTile s die pt
     let en := laneMask t (fMsel w)
     let u := wf w 0 9
     let zero := (fMod w).testBit 0
     let exact := !(fMod w).testBit 1
     let n := if exact then 2 else 1
     let v (l : Fin 64) : W32 := (rdV t (vReg (fB w))).get l
     let x (l : Fin 64) : AccRes × Bool := cwrLane exact zero (rdAcc t.mem exact u l.val)
       (if (fMod w).testBit 2 then fvalOfInt (v l).toInt else val32 (v l))
     let any (f : Fin 64 → Bool) : Bool := (List.finRange 64).any fun l => en.getLsbD l && f l
     AtIssue s die pt 0x34 w → fMsel w ≤ 4 → fMod w < 8 → (fB w).toNat < 16 → u + n ≤ 512 →
       (zero = false → ∀ i, i < n → if exact = true then (descOf t.mem (u + i)).path = 1 else 2 ≤ (descOf t.mem (u + i)).path.toNat) →
       (∀ o ∈ t.mem.array, overlap o.acc o.units u n = false) → readingOver t.mem u n = false →
       ∃ r : Tile, exec (.cwr die pt w) s = .next (withTile s die pt (wordEnds r)) ∧ r.seq = t.seq ∧ r.mem.obuf = t.mem.obuf ∧
         r.mem.allocs = t.mem.allocs ∧ r.sat = (t.sat || any fun l => (x l).1.sat) ∧ r.nv = (t.nv || any fun l => (x l).1.nv) ∧
         r.unf = (t.unf || any fun l => (x l).2) ∧ r.ovf = t.ovf ∧
         (∀ l : Fin 64, en.getLsbD l = true → exact = true →
           let k := 64 * (u + l.val / 32) + 2 * (l.val % 32)
           let y : BitVec 128 := BitVec.ofInt 128 (x l).1.acc.val
           mget 0 r.mem.cist k = y.extractLsb' 0 64 ∧ mget 0 r.mem.cist (k + 1) = y.extractLsb' 64 64 ∧ mget 0 r.mem.ctag k = tagOf (x l).1.acc) ∧
         (∀ l : Fin 64, en.getLsbD l = true → exact = false →
           mget 0 r.mem.cist (64 * u + l.val) = BitVec.ofInt 64 (x l).1.acc.val ∧ mget 0 r.mem.ctag (64 * u + l.val) = tagOf (x l).1.acc) ∧
         (∀ l : Fin 64, en.getLsbD l = false → rdAcc r.mem exact u l.val = rdAcc t.mem exact u l.val) ∧
         (∀ k, k < 64 * u ∨ 64 * (u + n) ≤ k → mget 0 r.mem.cist k = mget 0 t.mem.cist k ∧ mget 0 r.mem.ctag k = mget 0 t.mem.ctag k) ∧
         (∀ i, i < n → (descOf r.mem (u + i)).path =
           (if zero = false then (descOf t.mem (u + i)).path else if exact = true then 1 else if (descOf t.mem (u + i)).path = 3 then 3 else 2)) ∧
         (∀ k, k < u ∨ u + n ≤ k → descOf r.mem k = descOf t.mem k))

/-- R64 to R67, R80: WLD at issue, its codes and range right, completes once its lines are valid and no earlier block has still to be rebuilt: the
shadow block is loaded from them, and the lines are held; until then it is held.

R65, R67, R71, R81 to R83: MX at issue with right codes and ranges, in allocated units, on a block of its shape and format, and, without ZERO,
on units of its path whose chunks come in order, completes when nothing of R67 is in the way: it adds an array operation whose inputs are its
lines; with SWAP the shadow block, complete, becomes the active one; every unit's descriptor takes the highest chunk, and with ZERO PATH.

R67, R84 to R86: EW at issue of MUL, MAC, ADD and SQ likewise: it adds an array operation with its operands; MUL sets PATH of every unit
it writes.
Model's choices it rests on: notes 10, 18, 19 and 22. -/
def Obligations.ArrayWordsComplete : Prop :=
  ∀ (s : State) (die : Die) (pt : PT) (w : BitVec 56),
    let t := landedTile s die pt
    let fmt := aFmt w
    let free (acc units : Nat) : Prop := pendingOver t.mem acc units = false ∧ readingOver t.mem acc units = false ∧
      ∀ o ∈ t.mem.array, broadcasting o = false
    (AtIssue s die pt 0x41 w → codesFault (wf w 13 3) (aShape w) fmt = none → wf w 0 13 + wldLines w ≤ 8192 → t.mem.rebuild = [] →
      (linesValid t.mem (wf w 0 13) (wldLines w) = true →
        ∃ u : Tile, exec (.wld die pt w) s = .next (withTile s die pt (wordEnds u)) ∧ u.seq = t.seq ∧
          u.mem.shadow = some ⟨w, wldElems t.mem w, false, wldSources t.fetch w⟩ ∧ u.mem.loadLines = some (wf w 0 13, wldLines w) ∧
          u.mem.active = t.mem.active ∧ u.mem.cist = t.mem.cist ∧ u.mem.array = t.mem.array ∧ (t.mem.xpWait = [] → u.mem.obuf = t.mem.obuf)) ∧
      (linesValid t.mem (wf w 0 13) (wldLines w) = false →
        ∃ u : Tile, exec (.wld die pt w) s = .next (withTile s die pt u) ∧ u.seq.status = .held ∧ u.seq.pc = t.seq.pc ∧
          u.mem = { t.mem with waitOpnd := min (t.mem.waitOpnd + 1) 0xFFFFFFFF })) ∧
    (∀ b : WBlock,
      let axis := w.getLsbD 47
      let zero := w.getLsbD 46
      let swap := w.getLsbD 45
      let rows := wf w 34 8 + 1
      let units := rows * rowUnits (outLen (aShape w) axis) (fmtExact fmt)
      let acc := wf w 12 9
      let inA := wf w 21 13
      let vl := vecInLines (inLen (aShape w) axis) fmt
      let low := wf b.word (if axis then 16 else 32) 16
      let high : BitVec 17 := BitVec.ofNat 17 (low + ceilDiv (inLen (aShape w) axis) 32 - 1)
      AtIssue s die pt 0x40 w → codesFault (wf w 42 3 + wf w 0 12) (aShape w) fmt = none → t.mem.rebuild = [] →
      (if swap then t.mem.shadow else t.mem.active) = some b → aShape b.word = aShape w → aFmt b.word = fmt → acc + units ≤ 512 →
      inA + rows * vl ≤ 8192 → coveredBy (fun _ => true) t.mem acc units = true →
      (zero = false → ∀ i, i < units → (descOf t.mem (acc + i)).path = fmtPath fmt ∧
        (fmtExact fmt = false → (descOf t.mem (acc + i)).hwmv = true → (descOf t.mem (acc + i)).hwm.toNat < low)) →
      free acc units → linesValid t.mem inA (rows * vl) = true → (swap = true → b.complete = true) →
      ∃ u : Tile, ∃ op : ArrayOp, exec (.mx die pt w) s = .next (withTile s die pt (wordEnds u)) ∧ u.seq = t.seq ∧
        u.mem.array = t.mem.array ++ [op] ∧ op.fmt = fmt ∧ op.acc = acc ∧ op.units = units ∧ op.rows = rows ∧ op.done = 0 ∧
        op.lines = [(inA, rows * vl)] ∧ op.kind = .mx b axis zero ((List.range rows).map fun r =>
          (List.range (inLen (aShape w) axis)).map fun i => bufElem t.mem (inA + r * vl) (inBits fmt) i) ∧
        (swap = true → u.mem.active = some b ∧ u.mem.shadow = none) ∧ (swap = false → u.mem.active = t.mem.active ∧ u.mem.shadow = t.mem.shadow) ∧
        (∀ i, i < units →
          let d := descOf t.mem (acc + i)
          descOf u.mem (acc + i) = if zero then ⟨fmtPath fmt, true, high⟩ else ⟨d.path, true, if d.hwm.toNat < high.toNat then high else d.hwm⟩) ∧
        (∀ k, k < acc ∨ acc + units ≤ k → descOf u.mem k = descOf t.mem k) ∧ u.mem.cist = t.mem.cist ∧ u.mem.obuf = t.mem.obuf ∧
        u.mem.allocs = t.mem.allocs) ∧
    (let eop := wf w 52 4
     let rows := wf w 40 8 + 1
     let units := rows * rowUnits 64 (fmtExact fmt)
     let acc := wf w 5 9
     let n := rows * vecInLines 64 fmt
     let vecs (a : Nat) : List (List Nat) := (List.range rows).map fun r =>
       (List.range 64).map fun i => bufElem t.mem (a + r * vecInLines 64 fmt) (inBits fmt) i
     AtIssue s die pt 0x42 w → eop ≤ 3 → wf w 0 5 = 0 → ifmtOk fmt = true → fmt ≠ 3 → acc + units ≤ 512 →
     wf w 27 13 + n ≤ 8192 → linesValid t.mem (wf w 27 13) n = true →
     (eop ≤ 1 → wf w 14 13 + n ≤ 8192 ∧ linesValid t.mem (wf w 14 13) n = true) → coveredBy (fun _ => true) t.mem acc units = true →
     (eop ≠ 0 → ∀ i, i < units → (descOf t.mem (acc + i)).path = fmtPath fmt) → free acc units →
      ∃ u : Tile, ∃ op : ArrayOp, exec (.ew die pt w) s = .next (withTile s die pt (wordEnds u)) ∧ u.seq = t.seq ∧
        u.mem.array = t.mem.array ++ [op] ∧ op.fmt = fmt ∧ op.acc = acc ∧ op.units = units ∧ op.rows = rows ∧ op.done = 0 ∧
        op.kind = .ew eop (vecs (wf w 27 13)) (vecs (if eop ≤ 1 then wf w 14 13 else wf w 27 13)) ∧
        (∀ i, i < units → descOf u.mem (acc + i) = if eop = 0 then ⟨fmtPath fmt, false, 0⟩ else descOf t.mem (acc + i)) ∧
        (∀ k, k < acc ∨ acc + units ≤ k → descOf u.mem k = descOf t.mem k) ∧ u.mem.cist = t.mem.cist ∧ u.mem.obuf = t.mem.obuf ∧
        u.mem.allocs = t.mem.allocs ∧ u.mem.active = t.mem.active)

/-- R141: VLD at issue of valid lines completes: 64 elements of its format land in the enabled lanes of V[D] after 6 slots, INT8 sign-extended, FP32 bit
for bit, the others as binary32; MOD[0] moves S[A] past the lines after 1 slot.

R115, R121, R141: VST at issue completes once no issued instruction holds a line it writes: each enabled lane's value, an INT32 with MOD[3],
converted to its format, is stored, the bytes of the other lanes stay, the lines are valid, every other line is as it was; MOD[0] as for VLD.

R145, R146: WB at issue completes: of valid operand-buffer lines that its partition may write, and of a region of the Cistern, a copy of the lines,
or the converted elements row by row, waits to be written; one valid line written to the express doorway leaves as an express message and counts as
an acknowledged write-back.
Model's choices it rests on: notes 8, 10 and 11. -/
def Obligations.BufferWordsComplete : Prop :=
  ∀ (s : State) (die : Die) (pt : PT) (w : BitVec 56),
    let t := landedTile s die pt
    let en := laneMask t (fMsel w)
    let first := (rdS t (fA w)).toNat + iOff w
    let step (n : Nat) : List InFlight :=
      if (fMod w).testBit 0 then [⟨t.seq.slot + 1, [.s (fA w) (rdS t (fA w) + BitVec.ofNat 32 n)]⟩] else []
    let env := envOf s die pt (tileOf s die pt)
    let dst := (rdS t (w.extractLsb' 15 5)).toNat
    let queued (v : State) (u : Tile) (b : WbOp) : Prop := tileOf v die pt = wordEnds u ∧ u.seq = t.seq ∧ u.mem.wbs = t.mem.wbs ++ [b] ∧
      u.mem.obuf = t.mem.obuf ∧ u.mem.cist = t.mem.cist ∧ u.mem.allocs = t.mem.allocs ∧
      (∀ d p, tileKey d p ≠ tileKey die pt → tileOf v d p = tileOf s d p) ∧ v.regs = s.regs ∧ v.host = s.host
    (AtIssue s die pt 0x77 w → fMsel w ≤ 4 → fMod w ≤ 1 → (fD w).toNat < 16 → iRsv w = false → iFmt w ≤ 6 → iFmt w ≠ 3 →
      let n := inBits (iFmt w) / 8
      first + n ≤ 8192 → linesValid t.mem first n = true → ∃ x : Lanes, ∃ u : Tile,
        exec (.vld die pt w) s = .next (withTile s die pt (wordEnds u)) ∧
        u.seq.inflight = t.seq.inflight ++ ⟨t.seq.slot + 6, [.v (vReg (fD w)) en x]⟩ :: step n ∧ u.seq.sreg = t.seq.sreg ∧
        u.seq.vreg = t.seq.vreg ∧ u.mem = t.mem ∧ ∀ l : Fin 64,
          let e := bufElem t.mem first (inBits (iFmt w)) l.val
          (iFmt w = 6 → (x.get l).toNat = e) ∧ (iFmt w = 2 → (x.get l).toInt = signedOf 8 e) ∧
          (∀ f, (iFmt w = 0 ∧ f = fE4M3) ∨ (iFmt w = 1 ∧ f = fE5M2) ∨ (iFmt w = 4 ∧ f = fFP16) ∨ (iFmt w = 5 ∧ f = fBF16) →
            (x.get l).toNat = (round32 (decodeF f e)).bits % 2 ^ 32)) ∧
    (AtIssue s die pt 0x78 w → fMsel w ≤ 4 → (fMod w = 0 ∨ fMod w = 1 ∨ fMod w = 8 ∨ fMod w = 9) → (fB w).toNat < 16 → iRsv w = false →
      ofmtOk (iFmt w) = true →
      let n := ofmtBytes (iFmt w)
      let x (l : Fin 64) : W32 := (rdV t (vReg (fB w))).get l
      let conv (l : Fin 64) : Conv :=
        convOut (iFmt w) (iShift w) (rndMode (iRnd w) (partSeed t) (streamOf t) ((rdS t (iIx w)).toNat + l.val)) (iSat w)
          (if (fMod w).testBit 3 then fvalOfInt (x l).toInt else val32 (x l))
      first + n ≤ 8192 → linesHeld t.mem first n = false → ∃ u : Tile,
        exec (.vst die pt w) s = .next (withTile s die pt (wordEnds u)) ∧ linesValid u.mem first n = true ∧
        (∀ l : Fin 64, bufElem u.mem first (8 * n) l.val =
          if en.getLsbD l then (conv l).bits % 2 ^ (8 * n) else bufElem t.mem first (8 * n) l.val) ∧
        (∀ k, k < first ∨ first + n ≤ k → mget 0 u.mem.obuf k = mget 0 t.mem.obuf k ∧ mget false u.mem.valid k = mget false t.mem.valid k) ∧
        u.mem.cist = t.mem.cist ∧ u.seq.inflight = t.seq.inflight ++ step n ∧ u.seq.sreg = t.seq.sreg ∧ u.seq.vreg = t.seq.vreg) ∧
    (AtIssue s die pt 0x32 w → w.getLsbD 55 = true → w.getLsbD 54 = false → wf w 41 13 = 0 → wf w 0 10 = 0 →
      let from' := wf w 28 13
      let rows := wf w 20 8 + 1
      from' + rows ≤ 8192 → linesValid t.mem from' rows = true →
      (writeRefused env dst rows = false → (∀ d, env.doorway = some d → d < dst ∨ dst + rows ≤ d) → env.plane2 dst rows = true →
        ∃ v : State, ∃ u : Tile, exec (.wb die pt w) s = .next v ∧
          queued v u ⟨dst, (List.range rows).map (fun i => mget 0 t.mem.obuf (from' + i)), false, from', rows, false, true, mltNs s⟩) ∧
      (∀ c : PartCtx, t.part = some c → env.doorway = some dst → rows = 1 → env.express = true → modId s die ≠ 0xFF →
        ∃ u : Tile, exec (.wb die pt w) s =
          .next (routeExpress (withTile s die pt (wordEnds u)) die (fillExpress s die c.lt (mget 0 t.mem.obuf from'))) ∧
          u.seq = t.seq ∧ u.mem = { t.mem with wbAcked := t.mem.wbAcked + 1 })) ∧
    (AtIssue s die pt 0x32 w → w.getLsbD 55 = false → wf w 0 8 = 0 → wf w 37 4 = 0 → ofmtOk (wf w 50 4) = true →
      let u0 := wf w 28 9
      let exact := decide ((descOf t.mem u0).path = 1)
      let len := wbLen (wf w 8 2)
      let ru := rowUnits len exact
      let rows := wf w 20 8 + 1
      let lines := rows * ceilDiv (len * ofmtBytes (wf w 50 4)) 64
      let bits (r e : Nat) : Nat :=
        (convOut (wf w 50 4) (signedOf 7 (wf w 43 7))
          (rndMode (w.getLsbD 42) (partSeed t) (streamOf t) ((rdS t (w.extractLsb' 10 5)).toNat + r * len + e)) (w.getLsbD 41)
          (accVal exact (rdAcc t.mem exact (u0 + r * ru) e))).bits
      u0 + rows * ru ≤ 512 → (∀ i, i < rows * ru → (descOf t.mem (u0 + i)).path ≠ 0) →
      (w.getLsbD 54 = true → ∃ a ∈ t.mem.allocs, a.first = u0) → (∀ o ∈ t.mem.array, overlap o.acc o.units u0 (rows * ru) = false) →
      writeRefused env dst lines = false → (∀ d, env.doorway = some d → d < dst ∨ dst + lines ≤ d) → env.plane2 dst lines = true →
      ∃ v : State, ∃ u : Tile, exec (.wb die pt w) s = .next v ∧
        queued v u ⟨dst, (List.range rows).flatMap (fun r => rowLines (ofmtBytes (wf w 50 4)) ((List.range len).map (bits r))), true, u0,
          rows * ru, w.getLsbD 54, true, mltNs s⟩)

/-! ## The events of a tile -/

/-- R65, R71, R104, R145: the landings of a tile complete: a vector of the oldest array operation is counted, and the last one ends it; a shadow load
ends complete, and one that rebuilds the active block is promoted; the oldest pending allocation is granted once its units are free; the oldest
write-back has read its source and frees the allocation its release mark names. An error that ECC corrects changes nothing of this; an
uncorrectable one is a suspect event of the die.

R147, R152: the oldest write-back that has been read is acknowledged, where its partition may write its lines and no raised Sluice is in front of them:
it leaves the tile and is counted, its destination is one of its operation, and a line so written reads back, as some line where the operation's
destinations already hold unspecified data. Where its partition may not write the lines, its operation completes with the code of the access.
Model's choices it rests on: notes 8, 19 and 22. -/
def Obligations.TileEventsComplete : Prop :=
  (∀ (s : State) (die : Die) (pt : PT),
     let t := tileOf s die pt
     let seen (u : State) : Prop := flag u (hltB + 0x2200 + 4 * die) 1 = true ∧ (t.part = none → u.tiles = s.tiles)
     (∀ (up : Option Upset) (err : TileErr) (op : ArrayOp) (rest : List ArrayOp), err ≠ .uncorrectable → t.mem.array = op :: rest →
       ∃ u : State, exec (.arrayWriteLand die pt up err) s = .next u ∧
         (tileOf u die pt).mem.array = (if op.rows ≤ op.done + 1 then rest else { op with done := op.done + 1 } :: rest) ∧
         (t.mem.xpWait = [] → (tileOf u die pt).mem.obuf = t.mem.obuf) ∧ (tileOf u die pt).mem.allocs = t.mem.allocs) ∧
     (∀ up, ∃ u : State, exec (.arrayWriteLand die pt up .uncorrectable) s = .next u ∧ seen u) ∧
     (∀ (b : WBlock) (r : Nat × Nat), t.mem.shadow = some b → t.mem.loadLines = some r →
       ∃ u : Tile, exec (.shadowComplete die pt) s = .next (withTile s die pt u) ∧ u.seq = t.seq ∧
         (t.mem.rebuild = [] → u.mem.shadow = some { b with complete := true } ∧ u.mem.loadLines = none ∧ u.mem.active = t.mem.active) ∧
         (∀ x : Rebuild, t.mem.rebuild = [x] → u.mem.loadLines = none ∧ u.mem.rebuild = [] ∧
           (x.promote = true → u.mem.active = some { b with complete := true } ∧ u.mem.shadow = none) ∧
           (x.promote = false → u.mem.shadow = some { b with complete := true } ∧ u.mem.active = t.mem.active))) ∧
     (∀ (l r : List Alloc) (first count : Nat), t.mem.allocs = l ++ ⟨false, first, count⟩ :: r → (∀ a ∈ l, a.grant = true) →
       grantable t.mem first count = true →
       ∃ u : Tile, exec (.allocationGrant die pt) s = .next (withTile s die pt u) ∧ u.mem.allocs = l ++ ⟨true, first, count⟩ :: r ∧
         (∀ i, i < count → descOf u.mem (first + i) = {}) ∧ u.seq = t.seq ∧ u.mem.cist = t.mem.cist) ∧
     (∀ (err : TileErr) (l r : List WbOp) (b : WbOp), err ≠ .uncorrectable → t.mem.wbs = l ++ b :: r → (∀ x ∈ l, x.reading = false) →
       b.reading = true →
       ∃ u : State, exec (.wbReadComplete die pt err) s = .next u ∧ (tileOf u die pt).mem.wbs = l ++ { b with reading := false } :: r ∧
         (b.cist = true → b.rel = true → (tileOf u die pt).mem.allocs = delFirst (fun a => a.first == b.first) t.mem.allocs) ∧
         (b.cist = false ∨ b.rel = false → (tileOf u die pt).mem.allocs = t.mem.allocs) ∧ (tileOf u die pt).seq = t.seq ∧
         (tileOf u die pt).mem.cist = t.mem.cist ∧ (∀ d p, tileKey d p ≠ tileKey die pt → tileOf u d p = tileOf s d p)) ∧
     (∃ u : State, exec (.wbReadComplete die pt .uncorrectable) s = .next u ∧ seen u)) ∧
  (∀ (s : State) (die : Die) (pt : PT) (c : PartCtx) (b : WbOp) (l r : List WbOp),
     let t := tileOf s die pt
     let dst := tileDie s die c b.addr
     t.part = some c → t.mem.wbs = l ++ b :: r → (∀ x ∈ l, x.reading = true) → b.reading = false →
     (∀ i, i < b.data.length → gateOpen s die c (b.addr + i) true b.issued = true) →
       ∃ u : State, exec (.wbAcknowledge die pt) s = .next u ∧ u.host = s.host ∧
         (writable s c.part dst b.addr b.data.length = 0 →
           (tileOf u die pt).mem.wbs = l ++ r ∧ (tileOf u die pt).mem.wbAcked = t.mem.wbAcked + 1 ∧ (tileOf u die pt).seq = t.seq ∧
           (∀ o, opOf s c.op = some o → opOf u c.op = some { o with dests := o.dests ++ [⟨c.part, dst, b.addr, 0, 64 * b.data.length⟩] }) ∧
           (∀ d p, tileKey d p ≠ tileKey die pt → tileOf u d p = tileOf s d p) ∧ (absorbs s die pt = false → u.regs = s.regs) ∧
           (∀ x : Line, b.data = [x] →
             ((∀ o, opOf s c.op = some o → o.loose = false) → readLine u c.part dst b.addr = (0, x)) ∧
             ((∃ o, opOf s c.op = some o ∧ o.loose = true) → ∃ y : Line, readLine u c.part dst b.addr = (0, y)))) ∧
         (∀ (e : Status) (o : Op), writable s c.part dst b.addr b.data.length = e → e ≠ 0 → opOf s c.op = some o → decided o = false →
           ∃ x : Op, opOf u c.op = some x ∧ x.phase = .recordDue ∧ x.code = e))

/-- R127 to R131: requests to a tile whose clock runs complete. A LAUNCH taken at an acceptance point frees the first instruction that waits for it,
or a waiting WLCH, or sets EVP (and LOVR on a second one); to a tile that is being saved, restored or tested it sets EVP at once; elsewhere it waits.
STOP, SAVE and TEST are accepted at an acceptance point of a tile, STOP first, and wait elsewhere; a STOP ends the part with all results landed; a
SAVE that comes during a save or restore is held with its area. The budget of a repeat, once spent, makes the start of a cycle of its body an
acceptance point for a request that is pending. A request toward a stopped clock changes no tile.

R107 to R109, R130, R89: a save with nothing of the tile under way is reported complete with its image in the save area, and the tile is saved, or
saved again, or passes to the Tap test engine, and a fence that waited for it is made; a saved tile restored in place goes on with what its image
says; a tile at a boundary moves to a free physical tile, with its registers and Cistern, under a new GEN, the old one passing to the Tap test engine
where a test waits for the move; with an image of another version the logical tile resumes where it was.
Model's choices it rests on: notes 9, 14, 20, 21, 22, 26, 130 and 140. -/
def Obligations.TileRolesComplete : Prop :=
  (∀ (s : State) (die : Die) (pt : PT) (time : W64) (area : W32),
     let t := tileOf s die pt
     let rq := t.seq.reqs
     (stoppedDom s die 1 = true → exec (.stop die pt) s = .next s ∧ exec (.save die pt area) s = .next s ∧ exec (.test die pt) s = .next s ∧
       ∃ u : State, exec (.launch die pt time) s = .next u ∧ u.tiles = s.tiles) ∧
     (stoppedDom s die 1 = false →
       (∃ (v : State) (u : Tile), exec (.launch die pt time) s = .next (withTile v die pt u) ∧ v.tiles = s.tiles ∧ v.dies = s.dies ∧ v.ops = s.ops ∧
         u.mem = t.mem ∧
         (awayFromProgram t.seq = true → rq.launches = [] → u.seq.evp = true ∧ u.seq.launchTime = time.toNat ∧
           u.seq.lovr = (t.seq.lovr || t.seq.evp) ∧ u.seq.pc = t.seq.pc ∧ u.seq.status = t.seq.status) ∧
         (acceptable t.seq = true → reqPending t.seq = false →
           (t.seq.awaits = true → u.seq.awaits = false ∧ u.seq.notBefore = time.toNat ∧ u.seq.pc = t.seq.pc) ∧
           (t.seq.awaits = false → t.seq.status = .wlch → u.seq.status = .run ∧ u.seq.notBefore = time.toNat ∧ u.seq.slot = t.seq.slot + 1) ∧
           (t.seq.awaits = false → t.seq.status ≠ .wlch → u.seq.evp = true ∧ u.seq.launchTime = time.toNat ∧
             u.seq.lovr = (t.seq.lovr || t.seq.evp) ∧ u.seq.pc = t.seq.pc)) ∧
         (awayFromProgram t.seq = false → acceptable t.seq = false → u.seq = { t.seq with reqs := { rq with launches := rq.launches ++ [time.toNat] } })) ∧
       (∃ u : Tile, exec (.stop die pt) s = .next (withTile s die pt u) ∧ u.mem = t.mem ∧
         (t.seq.status = .idle → u = { t with ended := true }) ∧
         (t.seq.status ≠ .idle → acceptable t.seq = true → u.ended = true ∧ u.seq.evp = false ∧ u.fetch.running = false ∧ u.seq.reqs = {} ∧
           ((∀ f ∈ t.seq.inflight, f.due ≤ t.seq.slot + 8) → u.seq.inflight = []) ∧ u.seq.status = (if rq.test then .test else .idle)) ∧
         (acceptable t.seq = false → u.seq.reqs.stop = true ∧ u.seq.status = t.seq.status ∧ u.ended = t.ended ∧ u.seq.pc = t.seq.pc)) ∧
       (∃ u : Tile, exec (.save die pt area) s = .next (withTile s die pt u) ∧ u.mem = t.mem ∧
         (t.saved = true → u.seq.status = .saving ∧ u.saved = false ∧ u.saveArea = area.toNat) ∧
         (t.saved = false → t.seq.status = .saving ∨ t.seq.status = .restoring →
           u.seq = { t.seq with reqs := { rq with saveAgain := some area.toNat } } ∧ u.saveArea = t.saveArea) ∧
         (t.saved = false → acceptable t.seq = true → rq.stop = false →
           u.seq.status = .saving ∧ u.seq.before = t.seq.status ∧ u.saveArea = area.toNat ∧ u.seq.reqs.save = false ∧ u.seq.pc = t.seq.pc) ∧
         (t.saved = false → acceptable t.seq = true → rq.stop = true → u.ended = true ∧ u.seq.status = (if rq.test then .test else .idle)) ∧
         (t.saved = false → acceptable t.seq = false → t.seq.status ≠ .saving → t.seq.status ≠ .restoring →
           u.seq.reqs.save = true ∧ u.saveArea = area.toNat ∧ u.seq.status = t.seq.status ∧ u.seq.pc = t.seq.pc)) ∧
       (∃ u : Tile, exec (.test die pt) s = .next (withTile s die pt u) ∧ u.mem = t.mem ∧
         (acceptable t.seq = true → rq.stop = false → rq.save = false →
           (t.seq.status = .idle ∨ t.seq.status = .fault → u.seq.status = .test ∧ u.seq.reqs.test = false) ∧
           (t.seq.status ≠ .idle → t.seq.status ≠ .fault → u.seq.status = .saving ∧ u.seq.before = t.seq.status ∧ u.seq.reqs.test = true ∧
             u.seq.pc = t.seq.pc)) ∧
         (acceptable t.seq = true → rq.stop = true → u.seq.status = .test ∧ u.ended = true) ∧
         (acceptable t.seq = true → rq.stop = false → rq.save = true → u.seq.status = .saving ∧ u.seq.reqs.test = true) ∧
         (acceptable t.seq = false → u.seq.reqs.test = true ∧ u.seq.status = t.seq.status ∧ u.seq.pc = t.seq.pc))) ∧
     (∃ u : Tile, exec (.repeatBudgetExpiry die pt) s = .next (withTile s die pt u) ∧ u.mem = t.mem ∧
       (t.seq.lact = false → u = t) ∧
       (t.seq.lact = true → reqPending t.seq = false → u.seq = { t.seq with repHeld := true }) ∧
       (t.seq.lact = true → isRunning t.seq = true → t.seq.delay = 0 → rq.stop = false → rq.save = true →
         u.seq.status = .saving ∧ u.seq.repHeld = true ∧ u.seq.lcnt = t.seq.lcnt ∧ u.seq.pc = t.seq.pc) ∧
       (t.seq.lact = true → isRunning t.seq = true → t.seq.delay = 0 → rq.stop = true → u.ended = true))) ∧
  (∀ (s : State) (die : Die) (pt : PT),
     let t := tileOf s die pt
     let t1 := if t.mem.loadLines.isSome then shadowDone t else t
     let img := toLines (cisternBytes t1 ++ contextBytes t1 ++ scratchBytes t1)
     isSaving t = true → t.mem.array = [] → (∀ b ∈ t.mem.wbs, b.reading = false) →
       ∃ u : State, tileOf u die pt = afterSave t1 ∧ (tileOf u die pt).mem.cist = t.mem.cist ∧
         (∀ d p, tileKey d p ≠ tileKey die pt → tileOf u d p = tileOf s d p) ∧
         (t.seq.reqs.saveAgain = none → t.seq.reqs.test = false → (tileOf u die pt).saved = true ∧ (tileOf u die pt).seq = t.seq) ∧
         (t.seq.reqs.saveAgain = none → t.seq.reqs.test = true → (tileOf u die pt).saved = true ∧ (tileOf u die pt).seq.status = .test) ∧
         (∀ a, t.seq.reqs.saveAgain = some a → isSaving (tileOf u die pt) = true ∧ (tileOf u die pt).saveArea = a) ∧
         (t.saveArea / 2 ^ 30 = 1 → dieUp s die = true → t.saveArea % 2 ^ 30 + img.length ≤ basinLines →
           readArea u die (tilePart t) t.saveArea img.length = (0, img)) ∧
         (∀ (n : Nat) (v : State), tilePart t = some n → t.saveArea / 2 ^ 30 = 0 → writeLines s n die t.saveArea img = (0, v) →
           (dieOf u die).hbm = (dieOf v die).hbm ∧ (dieOf u die).basin = (dieOf v die).basin) ∧
         (mfind s.hub.fenceDue die = none ∨ savingOn u die = true → exec (.saveComplete die pt) s = .next u) ∧
         (∀ c : FenceCause, mfind s.hub.fenceDue die = some c → savingOn u die = false →
           exec (.saveComplete die pt) s = .next (fenceDie (modHub u fun h => { h with fenceDue := mdel h.fenceDue die }) die c))) ∧
  (∀ (s : State) (die : Die) (pt new : PT) (lt : Fin 128) (gen : BitVec 8),
     let t := tileOf s die pt
     (t.saved = false → exec (.restore die pt new) s = .next s) ∧
     (t.saved = true →
       (t.seq.status = .test → exec (.restore die pt pt) s = .next s) ∧
       (t.seq.status ≠ .test → ∃ u : State, exec (.restore die pt pt) s = .next u ∧ (tileOf u die pt).saved = false ∧
         (∀ l : List Line, savedImage s die t = some l → reqPending t.seq = false →
           let x := imageTile (fun i => l.toArray.getD i 0) t
           let v := tileOf u die pt
           v.seq.status = resumeStatus t.seq ∧ v.seq.pc = x.seq.pc ∧ v.seq.sreg = x.seq.sreg ∧ v.seq.vreg = x.seq.vreg ∧ v.seq.mreg = x.seq.mreg ∧
           v.mem.cist = x.mem.cist ∧ v.mem.ctag = x.mem.ctag ∧ v.mem.allocs = x.mem.allocs ∧ v.sat = x.sat)) ∧
       (new ≠ pt → ltOf s die pt = some lt.val → exec (.restore die pt new) s = exec (.tileMove die lt new) s) ∧
       (new ≠ pt → ltOf s die pt = none → exec (.restore die pt new) s = .next s)) ∧
     (ptOf s die lt = some (pt.val, gen) → new ≠ pt → movable t = true → freeTarget s die new = true →
       (∀ x : Tile, restoredTile s die t = some x → t.seq.reqs.stop = false →
         ∃ u : State, exec (.tileMove die lt new) s = .next u ∧
           (mfind s.hub.taps die = none ∨ (∃ j : TapJob, mfind s.hub.taps die = some j ∧ j.pt = pt.val) →
             ptOf u die lt = some (new.val, gen + 1) ∧ (tileOf u die new).seq.sreg = x.seq.sreg ∧ (tileOf u die new).seq.vreg = x.seq.vreg ∧
             (tileOf u die new).seq.pc = x.seq.pc ∧ (tileOf u die new).mem.cist = x.mem.cist ∧ (tileOf u die new).part = t.part ∧
             (tileOf u die pt).part = none) ∧
           (∀ j : TapJob, mfind s.hub.taps die = some j → j.pt = pt.val → j.step < 5 → j.lt = some lt.val → j.spare = some new.val →
             (tileOf u die pt).seq.status = .test)) ∧
       (restoredTile s die t = none → mfind s.hub.taps die = none →
         ∃ u : State, exec (.tileMove die lt new) s = .next u ∧ ptOf u die lt = some (pt.val, gen) ∧ (tileOf u die pt).saved = false)) ∧
     ((∀ m, ptOf s die lt = some m → movable (tileOf s die m.1) = false ∨ freeTarget s die new = false) → mfind s.hub.taps die = none →
       exec (.tileMove die lt new) s = .next s))

/-! ## Keeping the tiles fed -/

/-- R153 to R158, R161: the fetch engine's entries complete. The engine requests the next line of its list, and the line it requested arrives; SETUP
defines its ring and makes its lines invalid; FETCH takes a slot and requests its lines, alone or for every member of its multicast group; a line
that arrives is valid, or goes to the weight block that is rebuilt; MARK stops the engine, and its release goes on to the next layer, with SCOPE = 1
once every tile of the operation on the die has met its own; END stops it. An entry that is not as R154 says ends the operation with E_VERSION, a
read that carries an error with its code, an uncorrectable one as a suspect event of the die it was read on.

R162, R166 to R168: the next piece of a slice that a die stores goes into a free piece of its chain predecessor's ring, as does the oldest piece it
has received and must forward; a piece that has arrived takes the next place of its layer.
Model's choices it rests on: notes 11, 69, 137, 138 and 139. -/
def Obligations.FeedingCompletes : Prop :=
  (∀ (s : State) (die : Die) (pt : PT) (t : Tile) (c : PartCtx),
     tileOf s die pt = t → t.part = some c →
     let failed (u : State) (e : Status) : Prop := ∀ o : Op, opOf s c.op = some o → decided o = false →
       ∃ x : Op, opOf u c.op = some x ∧ x.phase = .recordDue ∧ x.code = e
     let older (r : FetchReq → Bool) : List FetchReq := (t.fetch.pending.takeWhile (fun x => !r x)).filter (·.sent)
     let next := t.fetch.listAddr + t.fetch.entry / 4 + t.fetch.linesHeld.length
     (t.fetch.pending.find? isList = none → t.fetch.running = true → t.fetch.linesHeld.length < 2 → endHeld t.fetch = false →
       portOpen s die pt = true → creditsFor s die c false [next] = true →
       ∃ (u : State) (q : FetchReq), exec (.fetchListLineArrival die pt) s = .next u ∧
         tileOf u die pt = { t with fetch := { t.fetch with pending := t.fetch.pending ++ [q] } } ∧ q.kind = .list ∧ q.srcs = [next] ∧ q.arrived = 0 ∧
         (∀ d p, tileKey d p ≠ tileKey die pt → tileOf u d p = tileOf s d p)) ∧
     (∀ r : FetchReq, t.fetch.pending.find? isList = some r → absorbs s die pt = false →
       (readAnswer s die c (older isList) r = none → exec (.fetchListLineArrival die pt) s = .next s) ∧
       (∀ x : Line, readAnswer s die c (older isList) r = some (0, x) →
         ∃ u : State, exec (.fetchListLineArrival die pt) s = .next u ∧ (tileOf u die pt).fetch.linesHeld = t.fetch.linesHeld ++ [x] ∧
           (tileOf u die pt).fetch.entry = t.fetch.entry ∧ (tileOf u die pt).seq = t.seq ∧ (tileOf u die pt).mem = t.mem ∧
           (∀ d p, tileKey d p ≠ tileKey die pt → tileOf u d p = tileOf s d p)) ∧
       (∀ (e : Status) (x : Line), readAnswer s die c (older isList) r = some (e, x) → e ≠ 0 →
         ∃ u : State, exec (.fetchListLineArrival die pt) s = .next u ∧ (e ≠ 0x50 → failed u e) ∧
           (e = 0x50 → flag u (suspectReg (lineDie s die c (r.srcs.getD 0 0))) 1 = true))) ∧
     (∀ r : FetchReq, t.fetch.pending.find? isData = some r → absorbs s die pt = false →
       let a := r.srcs.getD r.arrived 0
       (readAnswer s die c (older isData) r = none → exec (.fetchDataArrival die pt) s = .next s) ∧
       (∀ x : Line, readAnswer s die c (older isData) r = some (0, x) →
         ∃ u : State, exec (.fetchDataArrival die pt) s = .next u ∧ (tileOf u die pt).seq = t.seq ∧ (tileOf u die pt).mem.cist = t.mem.cist ∧
           let m := (tileOf u die pt).mem
           (r.kind ≠ .weights → mget 0 m.obuf (r.dst + r.arrived) = x ∧ mget false m.valid (r.dst + r.arrived) = true ∧
             (∀ k, k ≠ r.dst + r.arrived → mget 0 m.obuf k = mget 0 t.mem.obuf k ∧ mget false m.valid k = mget false t.mem.valid k)) ∧
           (r.kind = .weights → m.obuf = t.mem.obuf ∧ m.valid = t.mem.valid ∧
             (∀ b : Rebuild, t.mem.rebuild = [b] → b.kept = none → b.lines.length < b.srcs.length →
               m.rebuild = [{ b with lines := b.lines ++ [x] }])) ∧
           (∀ d p, tileKey d p ≠ tileKey die pt → tileOf u d p = tileOf s d p)) ∧
       (∀ (e : Status) (x : Line), readAnswer s die c (older isData) r = some (e, x) → e ≠ 0 →
         ∃ u : State, exec (.fetchDataArrival die pt) s = .next u ∧ (e ≠ 0x50 → failed u e) ∧
           (e = 0x50 → flag u (suspectReg (lineDie s die c a)) 1 = true))) ∧
     (∀ m : MarkWait, t.fetch.mark = some m → t.fetch.running = true → m.wbn ≤ t.mem.wbAcked →
       (∀ r ∈ t.fetch.rings, ∀ x ∈ r.2.live, x.2.released = true) → (m.scope = true → scopeMet s die c t m = true) →
       ∃ u : State, exec (.markRelease die pt) s = .next u ∧ (tileOf u die pt).fetch.mark = none ∧
         (tileOf u die pt).fetch.layer = t.fetch.layer + 1 ∧ (tileOf u die pt).fetch.entry = t.fetch.entry + 1 ∧
         (tileOf u die pt).seq = t.seq ∧ (tileOf u die pt).mem = t.mem) ∧
     (∀ e : Nat × Nat,
       (atEntry s die pt 2 = some (t, c, e) →
         (setupOk t.fetch e = true → ∃ u : State, exec (.setup die pt) s = .next u ∧
           mfind (tileOf u die pt).fetch.rings (entryRing e) = some (setupRing e) ∧
           (∀ i, i < (setupRing e).slots * (setupRing e).slotLines → mget false (tileOf u die pt).mem.valid ((setupRing e).first + i) = false) ∧
           (entryRing e = 0 → (tileOf u die pt).fetch.mode420 = bitAt e.1 59 ∧ (tileOf u die pt).fetch.lead = bitsOf e.1 56 3 + 1) ∧
           (tileOf u die pt).fetch.entry = t.fetch.entry + 1 ∧ (tileOf u die pt).seq = t.seq ∧ (tileOf u die pt).mem.obuf = t.mem.obuf) ∧
         (setupOk t.fetch e = false → ∃ u : State, exec (.setup die pt) s = .next u ∧ failed u 0x22)) ∧
       (atEntry s die pt 1 = some (t, c, e) →
         (t.fetch.rings ≠ [] → e.2 = 0 → bitsOf e.1 0 37 = 0 →
           ∃ u : State, ∃ m : MarkWait, exec (.mark die pt) s = .next u ∧ tileOf u die pt = { t with fetch := { t.fetch with mark := some m } } ∧
             m.scope = bitAt e.1 61 ∧ m.markId = bitsOf e.1 53 8 ∧ m.wbn = bitsOf e.1 37 16) ∧
         (t.fetch.rings = [] ∨ e.2 ≠ 0 ∨ bitsOf e.1 0 37 ≠ 0 → ∃ u : State, exec (.mark die pt) s = .next u ∧ failed u 0x22)) ∧
       (atEntry s die pt 3 = some (t, c, e) →
         (t.fetch.rings ≠ [] → e.2 = 0 → bitsOf e.1 0 62 = 0 →
           ∃ u : State, exec (.fetchListEnd die pt) s = .next u ∧ tileOf u die pt = { t with fetch := { t.fetch with running := false } }) ∧
         (t.fetch.rings = [] ∨ e.2 ≠ 0 ∨ bitsOf e.1 0 62 ≠ 0 → ∃ u : State, exec (.fetchListEnd die pt) s = .next u ∧ failed u 0x22)) ∧
       (∀ p : Partition, atEntry s die pt 0 = some (t, c, e) → partOf s c.part = some p →
         (fetchOk t.fetch e = false → ∃ u : State, exec (.fetch die pt) s = .next u ∧ failed u 0x22) ∧
         (∀ a, fetchOk t.fetch e = true → fetchBad p c.part t.fetch e = some a →
           ∃ u : State, exec (.fetch die pt) s = .next u ∧ failed u 0x22 ∧
             (∀ o x : Op, opOf s c.op = some o → decided o = false → opOf u c.op = some x → x.info.xaddr = BitVec.ofNat 32 a)) ∧
         (fetchOk t.fetch e = true → fetchBad p c.part t.fetch e = none → portOpen s die pt = true → creditsFor s die c false (fetchSrcs e) = true →
           (fetchMc e = false → fetchFree t e = true → fetchHere s die c.part t e = true →
             ∃ (u : State) (q : FetchReq) (l : List FetchReq), exec (.fetch die pt) s = .next u ∧
               (tileOf u die pt).fetch.pending = t.fetch.pending ++ q :: l ∧ q.srcs = fetchSrcs e ∧ q.arrived = 0 ∧ q.kind = .data ∧ q.credited = true ∧
               (∀ x ∈ l, x.kind = .list) ∧ (∀ i, i < fetchLines e → mget false (tileOf u die pt).mem.valid (q.dst + i) = false) ∧
               (tileOf u die pt).mem.obuf = t.mem.obuf ∧ (tileOf u die pt).fetch.entry = t.fetch.entry + 1 ∧ (tileOf u die pt).seq = t.seq) ∧
           (let ms := mcMembers s die c (bitsOf e.1 53 6)
            let own (m : Nat) : Nat × Nat := (entryAt (tileOf s die m).fetch).getD e
            fetchMc e = true →
            (∀ m ∈ ms, mcMember (tileOf s die m) t.fetch.entry e = some true ∧ fetchOk (tileOf s die m).fetch (own m) = true ∧
              fetchBad p c.part (tileOf s die m).fetch (own m) = none ∧ fetchFree (tileOf s die m) (own m) = true ∧
              fetchHere s die c.part (tileOf s die m) (own m) = true) →
            ∃ u : State, exec (.fetch die pt) s = .next u ∧
              (∀ m ∈ ms, m < 136 → t.fetch.entry < (tileOf u die m).fetch.entry ∧ (tileOf u die m).seq = (tileOf s die m).seq ∧
                (ms.Nodup → (∀ n ∈ ms, n < 136) → (tileOf u die m).fetch.entry = t.fetch.entry + 1 ∧
                  ∃ (q : FetchReq) (l : List FetchReq), (tileOf u die m).fetch.pending = (tileOf s die m).fetch.pending ++ q :: l ∧
                    q.srcs = fetchSrcs e ∧ q.arrived = 0 ∧ q.kind = .data ∧ (q.credited = true ↔ m = pt.val)))))))) ∧
  (∀ (s : State) (die : Die) (part : Fin 64) (layer : W32) (slice : Fin 16) (p : Partition) (e : Nat),
     let mine := stagingOf s die part
     let k := (slicesTo p e).findIdx (fun j => j == slice.val)
     partOf s part = some p → chainPred p die = some e → e ≠ die.val → p.cur.chain = true → slice.val ∈ slicesTo p e →
     (stagingOf s e part).pieces.length + (stagingOf s e part).incoming.length < p.cur.staging →
     portOpen s die (d2dPort die e slice) = true → creditFree s die (d2dPort die e slice) 3 (partCls s part) (some part.val) = true →
     (∀ (a : W32) (xs : List Line), inTurn p e mine.lastSent layer.toNat k a.toNat = true → a.toNat < 2 ^ 30 → holdsSlice p die slice = true →
       readLines s part die a.toNat pieceLines = (0, xs) →
       ∃ u : State, ∃ x : StagePiece, exec (.stagingPieceSend die part layer slice (some a)) s = .next u ∧
         stagingOf u e part = { stagingOf s e part with incoming := (stagingOf s e part).incoming ++ [x] } ∧ x.layer = layer.toNat ∧
         x.slice = slice.val ∧ x.lines = xs ∧ x.sender = die.val ∧
         stagingOf u die part = { mine with lastSent := some (layer.toNat, k, a.toNat + pieceLines) } ∧ u.tiles = s.tiles ∧ u.regs = s.regs) ∧
     (∀ y : StagePiece, mine.pieces.find? (fun x => !x.forwarded) = some y → y.layer = layer.toNat → y.slice = slice.val →
       inTurn p e mine.lastSent layer.toNat k (match mine.lastSent with | some l => l.2.2 | none => 0) = true →
       ∃ u : State, ∃ x : StagePiece, exec (.stagingPieceSend die part layer slice none) s = .next u ∧
         stagingOf u e part = { stagingOf s e part with incoming := (stagingOf s e part).incoming ++ [x] } ∧ x.layer = layer.toNat ∧
         x.slice = slice.val ∧ x.lines = y.lines ∧ x.sender = die.val ∧ (stagingOf u die part).lastSent = some (layer.toNat, k, 0) ∧
         (partTiles s die part = [] →
           (stagingOf u die part).pieces = updFirst (fun x => !x.forwarded) (fun x => { x with forwarded := true }) mine.pieces) ∧
         u.tiles = s.tiles ∧ u.regs = s.regs)) ∧
  (∀ (s : State) (die : Die) (part : Fin 64) (x : StagePiece) (r : List StagePiece), (stagingOf s die part).incoming = x :: r →
     ∃ u : State, exec (.stagingPieceArrival die part) s = .next u ∧ (stagingOf u die part).incoming = r ∧
       let y := { x with idx := mget 0 (stagingOf s die part).counts x.layer }
       (x.forwarded = false → y ∈ (stagingOf u die part).pieces) ∧
       (partTiles s die part = [] → (stagingOf u die part).pieces = (stagingOf s die part).pieces ++ [y]) ∧
       (∀ z ∈ (stagingOf s die part).pieces, z.forwarded = false → z ∈ (stagingOf u die part).pieces) ∧ u.tiles = s.tiles)

/-! ## Operations -/

/-- R404, R405, R408, R412: the fetch of a descriptor completes. One of the right generation becomes the operation of the next OPSEQ, at
the Weir (a CANCEL past it), or is complete with the code of its fault; one of the wrong generation, or one that cannot be read, puts the
context into ERROR with the cause; without a free tag it is not fetched, and counted.

R413: an operation at the Weir that no older one of its ring, and none of the express ring, waits before is admitted when each bucket
with a rate holds what it needs, and pays for itself; else it waits.
Model's choices it rests on: notes 60, 81, 82, 86, 87 and 88. -/
def Obligations.AdmissionCompletes : Prop :=
  (∀ (s : State) (ctx : Fin 4096) (express : Bool) (b : List Byte),
     let t := tcOf s ctx
     let z := ringSize s ctx express
     let f := fetchedOf t express
     let o := newOp s ctx express b
     let k := opKey o.life ctx express o.opseq
     t.phase = .active → pendingOf s ctx express ≠ 0 → dieUp s (ctxHome s ctx) = true → (express = true ∨ expressAhead s ctx = false) →
       hostRead s (ringBase s ctx (if express then 0x18 else 0x10) + 64 * (f % z)) 64 = b →
       (∃ u : State, exec (.descriptorFetch ctx express false) s = .next u ∧ (tcOf u ctx).phase = .error ∧ (tcOf u ctx).errc = 4) ∧
       (byteAt b 0 ≠ 10 → tagFree s ctx = false →
         exec (.descriptorFetch ctx express true) s = .next (bump s (qpB (ctxHome s ctx) + 8) 0 32 1)) ∧
       ((byteAt b 0 = 10 ∨ tagFree s ctx = true) →
         ((byteAt b 1).testBit 7 ≠ ((f / z + 1) % 2 == 1) →
           ∃ u : State, exec (.descriptorFetch ctx express true) s = .next u ∧ (tcOf u ctx).phase = .error ∧
             (tcOf u ctx).errc = (if express then 2 else 1) ∧ fetchedOf (tcOf u ctx) express = f) ∧
         ((byteAt b 1).testBit 7 = ((f / z + 1) % 2 == 1) →
           ∃ u : State, exec (.descriptorFetch ctx express true) s = .next u ∧ fetchedOf (tcOf u ctx) express = f + 1 ∧
             fetchedOf (tcOf u ctx) (!express) = fetchedOf t (!express) ∧ u.host = s.host ∧ u.tiles = s.tiles ∧
             (descFault s o = none →
               opOf u k = some { o with phase := if byteAt b 0 = 10 then .admitted else .fetched, launch := (launchOf s o).getD 0 }) ∧
             (∀ c, descFault s o = some c → ∃ x : Op, opOf u k = some x ∧ x.phase = .recordDue ∧ x.code = c)))) ∧
  (∀ (s : State) (ctx : Fin 4096) (express : Bool) (opseq : W32) (k : Nat) (o : Op),
     let t := tcOf s ctx
     let dt := mltNs s - t.weirAt
     let rate := fld s (tcB ctx + 0x2C) 0 16
     let brate := fld s (tcB ctx + 0x30) 0 20
     let ops := min (t.opsTokens + dt * rate) (fld s (tcB ctx + 0x2C) 16 16 * 1000000)
     let bytes : Int := min (t.bytesTokens + ((dt * brate : Nat) : Int)) ((fld s (tcB ctx + 0x30) 20 12 * 2 ^ 20 * 1000 : Nat) : Int)
     Names s ctx express opseq k o → o.phase = .fetched →
     (waitsBefore s o = true → exec (.weirAdmission ctx express opseq) s = .next s) ∧
     (waitsBefore s o = false →
       ∃ u : State, exec (.weirAdmission ctx express opseq) s = .next u ∧ u.regs = s.regs ∧ u.tiles = s.tiles ∧
         ((rate = 0 ∨ 1000000 ≤ ops) → (brate = 0 ∨ 0 < bytes) →
           opOf u k = some { o with phase := .admitted } ∧ (tcOf u ctx).opsTokens = (if rate = 0 then ops else ops - 1000000) ∧
           (tcOf u ctx).bytesTokens = (if brate = 0 then bytes else max (bytes - ((chargeOf o * 1000 : Nat) : Int)) (-((2 ^ 47 * 1000 : Nat) : Int)))) ∧
         (rate ≠ 0 ∧ ops < 1000000 ∨ brate ≠ 0 ∧ bytes ≤ 0 → opOf u k = some o ∧ (tcOf u ctx).opsTokens = ops ∧ (tcOf u ctx).bytesTokens = bytes)))

/-- R407, R414 to R416: an operation whose dependences have completed becomes ready, or completes with E_DEP unless RUNANY, and waits till they have; a
ready NOP completes OK; a CANCEL ends the operations of its range that wait, or run or are held as a KERNEL, a COPY or a message, with CANCELLED, leaves
those past their decision, and its record counts the ones it ended; TIMEOUT ms after its fetch an operation that waits, or runs or is held in
one of the units, ends with E_TIMEOUT.
Model's choices it rests on: notes 88, 89 and 129. -/
def Obligations.WaitingOperationsComplete : Prop :=
  ∀ (s : State) (ctx : Fin 4096) (express : Bool) (opseq : W32) (k : Nat) (o : Op), Names s ctx express opseq k o →
    (o.phase = .admitted →
      (∀ a b : BitVec 8, depCode s o 24 = some a → depCode s o 26 = some b →
        ∃ u : State, exec (.operationReady ctx express opseq) s = .next u ∧
          ((opFlag o 1 || depRuns a && depRuns b) = true → opOf u k = some { o with phase := .ready }) ∧
          ((opFlag o 1 || depRuns a && depRuns b) = false → opOf u k = some { o with phase := .recordDue, code := 0x02, seedE := 0 }) ∧
          u.tcs = s.tcs ∧ u.regs = s.regs) ∧
      (depCode s o 24 = none ∨ depCode s o 26 = none → exec (.operationReady ctx express opseq) s = .next s)) ∧
    (opcOf o = 11 → o.phase = .ready →
      ∃ u : State, exec (.nopDescriptor ctx express opseq) s = .next u ∧ opOf u k = some { o with phase := .recordDue, code := 0, seedE := 0 } ∧
        u.tcs = s.tcs ∧ u.regs = s.regs ∧ u.host = s.host) ∧
    (let hit (e : Nat × Op) : Bool := e.2.ctx == o.ctx && e.2.life == o.life && e.2.express == (dF o 38 1).testBit 0 && e.1 != k &&
        decide ((e.2.opseq + 2 ^ 32 - dF o 32 4) % 2 ^ 32 < dF o 36 2)
     keysRise s.ops = true → opcOf o = 10 → o.phase = .ready →
     (∀ e ∈ s.ops, hit e = true →
       undispatched e.2 = true ∨ decided e.2 = true ∨ (e.2.phase = .running ∨ e.2.phase = .held) ∧ opcOf e.2 ∈ [1, 5, 6]) →
      ∃ u : State, exec (.cancel ctx express opseq) s = .next u ∧
        (∃ x : Op, opOf u k = some x ∧ x.phase = .recordDue ∧ x.code = 0 ∧
          x.info.xaddr = BitVec.ofNat 32 (s.ops.filter (fun e => hit e && !decided e.2)).length) ∧
        (∀ e ∈ s.ops, hit e = true → undispatched e.2 = true → opOf u e.1 = some { e.2 with phase := .recordDue, code := 0x01, seedE := 0 }) ∧
        (∀ e ∈ s.ops, hit e = true → decided e.2 = false → ∃ x : Op, opOf u e.1 = some x ∧ x.phase = .recordDue ∧ x.code = 0x01) ∧
        (∀ e ∈ s.ops, hit e = false ∨ decided e.2 = true → e.1 ≠ k → opOf u e.1 = some e.2)) ∧
    (dF o 28 2 ≠ 0xFFFF → o.fetchedAt + (if dF o 28 2 = 0 then 10000 else dF o 28 2) * 1000000 ≤ mltNs s →
      ∃ u : State, exec (.operationTimeout ctx express opseq) s = .next u ∧
        (undispatched o = true → opOf u k = some { o with phase := .recordDue, code := 0x11, seedE := 0 }) ∧
        (o.phase = .running ∨ o.phase = .held → opcOf o ∈ [1, 3, 4, 5, 6, 8] → ∃ x : Op, opOf u k = some x ∧ x.phase = .recordDue ∧ x.code = 0x11) ∧
        (decided o = true → u = s)) ∧
    (dF o 28 2 = 0xFFFF ∨ mltNs s < o.fetchedAt + (if dF o 28 2 = 0 then 10000 else dF o 28 2) * 1000000 →
      exec (.operationTimeout ctx express opseq) s = .next s)

/-- R410, R275, R378, R114, R231: a ready KERNEL whose launch time is no more than 10 µs away, and whose tiles can take it, is dispatched: each tile runs
from its entry with its arguments, its fetch list and an IMEM image that was read for it, an earlier launch waits, and so does one whose tiles are
not free; a tile that is off ends it with E_TARGET_OFF, ENT = 1 under determinism mode or lock-step with E_VERSION. A KERNEL that was held for a
capability is dispatched so once the capability is set; the next kernel of a record is dispatched when the tiles of the one before have passed END.
Model's choices it rests on: notes 67, 68, 75 and 142. -/
def Obligations.KernelsComplete : Prop :=
  ∀ (s : State) (ctx : Fin 4096) (express : Bool) (opseq : W32) (k : Nat) (o : Op) (xs : List Target) (b : Target → List Byte),
    let read (i : Nat) (x : Target) : Status × List Byte :=
      readBytes s x.part (resolveDie s x.part x.orig x.die (kernelRec o i).image) (kernelRec o i).image 0 (8 * (kernelRec o i).words)
    let runs (u : State) (i : Nat) (waits : Bool) : Prop := ∀ x ∈ xs,
      let v := tileOf u x.die x.pt
      { v with fetch := { v.fetch with pending := [] } } =
          initTile (tileOf s x.die x.pt) ⟨k, x.part, opSeed o, i, x.lt, x.orig⟩ (imemOf (b x)) (kernelRec o i).entry x.entry.args x.entry.list waits ∧
        (∀ r ∈ v.fetch.pending, r.kind = .list ∧ r.srcs = [x.entry.list])
    let kept (u : State) : Prop := (∀ d p, (∀ x ∈ xs, tileKey d p ≠ tileKey x.die x.pt) → tileOf u d p = tileOf s d p) ∧ u.regs = s.regs ∧ u.host = s.host
    let ends (u : State) (c : BitVec 8) : Prop := ∃ y : Op, opOf u k = some y ∧ y.phase = .recordDue ∧ y.code = c
    let distinct := (xs.map (fun x => tileKey x.die x.pt)).Nodup
    Names s ctx express opseq k o → opcOf o = 1 →
    (mayDispatch s o = true →
      ((opFlag o 3 && strict s o.part) = true → ∃ u : State, exec (.kernel ctx express opseq) s = .next u ∧ ends u 0x22) ∧
      ((opFlag o 3 && strict s o.part) = false →
        (o.launch ≠ 0 → mltNs s + 10000 < o.launch → exec (.kernel ctx express opseq) s = .next s) ∧
        ((o.launch = 0 ∨ o.launch ≤ mltNs s + 10000) →
          (targetsOf s { o with runDie := firstDie s o } 0 = none → ∃ u : State, exec (.kernel ctx express opseq) s = .next u ∧ ends u 0x10) ∧
          (targetsOf s { o with runDie := firstDie s o } 0 = some xs → (∃ x ∈ xs, targetFree s k x = false) →
            exec (.kernel ctx express opseq) s = .next s) ∧
          (targetsOf s { o with runDie := firstDie s o } 0 = some xs → (∀ x ∈ xs, targetFree s k x = true ∧ read 0 x = (0, b x)) → distinct →
            ∃ u : State, exec (.kernel ctx express opseq) s = .next u ∧ (capsOf o ≠ 0 → exec (.capabilityRelease ctx express opseq) s = .next u) ∧
              runs u 0 (decide (o.launch ≠ 0)) ∧ (∃ y : Op, opOf u k = some y ∧ y.phase = .running ∧ y.kernel = 0) ∧ kept u)))) ∧
    (mayDispatch s o = false → exec (.kernel ctx express opseq) s = .next s ∧ exec (.capabilityRelease ctx express opseq) s = .next s) ∧
    (o.phase = .running → o.finished = false → kernelEnded s k = true → o.kernel + 1 < kCount o →
      (targetsOf s o (o.kernel + 1) = none → ∃ u : State, exec (.kernelDispatch ctx express opseq) s = .next u ∧ ends u 0x10) ∧
      (targetsOf s o (o.kernel + 1) = some xs → (∀ x ∈ xs, targetFree s k x = true ∧ read (o.kernel + 1) x = (0, b x)) → distinct →
        ∃ u : State, exec (.kernelDispatch ctx express opseq) s = .next u ∧ runs u (o.kernel + 1) false ∧
          opOf u k = some { o with kernel := o.kernel + 1 } ∧ kept u))

/-- R220 to R226, R230, R238, R421: the commit decision of a run that has ended. A first run that is clean commits with the code of its end; one that is not
is held where the operation is replayable, with the code of its end kept; else a checksum failure ends it with E_CHECKSUM and any other run commits
with SUSP. A replay that qualifies commits the latest run that does, and is counted; one that does not is held again, or after the third run ends
with E_CHECKSUM and is counted. Where a committed KERNEL asks for one, its result digest record is written to RDADDR on the home die, and a refused
RDADDR gives the operation its code.

R223: a held operation runs again on the die of the rule: of a replica-mode partition of two or more dies the next that qualifies, in a chain that of
its first entry, else its own once no tile that failed its check is mapped; where none qualifies it ends, with E_CHECKSUM after a checksum
failure, and else with its own code and SUSP.
Model's choices it rests on: notes 66, 75, 80, 129 and 141. -/
def Obligations.CommitAndReplayComplete : Prop :=
  ∀ (s : State) (ctx : Fin 4096) (express : Bool) (opseq : W32) (launch : W64) (k : Nat) (o : Op) (p : Partition),
    Names s ctx express opseq k o → partOf s o.part = some p → opcOf o ≠ 2 →
    (let base (replayed : Bool) : BitVec 8 := if o.satSeen then 0x30 else if replayed then 0x32 else 0x00
     let write (c : BitVec 8) : Status :=
       match homeDie p with
       | some d => (writeBytes s o.part d (dF o 44 4) 0 (boundBlock s o c ++ sha256 (boundBlock s o c))).1
       | none => 0
     let final (c : BitVec 8) : BitVec 8 := if (opFlag o 4 && opcOf o == 1) = true ∧ write c ≠ 0 then write c else c
     let clean := !o.chkFail && !o.badRun
     let rs := o.runs ++ [⟨o.runDie, clean, o.chkFail, resultCrc o⟩]
     let best := (upTo rs.length).reverse.find? (qualifies rs)
     runEnded s k o = true →
     ∃ u : State, ∃ x : Op, exec (.commitDecision ctx express opseq) s = .next u ∧ opOf u k = some x ∧ u.host = s.host ∧ u.tcs = s.tcs ∧
       (∀ d q, (tileOf s d q).part ≠ none → tileOf u d q = tileOf s d q) ∧
       (o.runs = [] → u.regs = s.regs ∧
         (clean = true → x.phase = .recordDue ∧ x.code = final (base false) ∧ x.info.runs = 1 ∧ x.info.cdie = o.runDie ∧ x.info.susp = o.info.susp) ∧
         (clean = true → (opFlag o 4 && opcOf o == 1) = false → u.dies = s.dies) ∧
         (clean = true → opFlag o 4 = true → opcOf o = 1 → ∀ d, homeDie p = some d → write (base false) = 0 →
           u.dies = (writeBytes s o.part d (dF o 44 4) 0 (boundBlock s o (base false) ++ sha256 (boundBlock s o (base false)))).2.dies) ∧
         (clean = false → replayable s o = true → x.phase = .held ∧ x.code = o.code ∧ x.runs = rs ∧ x.own = (if o.own = 0 then base false else o.own)) ∧
         (clean = false → replayable s o = false → x.phase = .recordDue ∧ (o.chkFail = true → x.code = 0x31) ∧
           (o.chkFail = false → x.code = final (base false) ∧ x.info.susp = true))) ∧
       (o.runs ≠ [] →
         (∀ j, best = some j → x.phase = .recordDue ∧ x.code = final (base true) ∧ x.info.runs = rs.length ∧
           x.info.cdie = (rs.getD j ⟨o.runDie, clean, o.chkFail, resultCrc o⟩).die ∧
           fld u (hltB + 0x2300) 0 32 = min (fld s (hltB + 0x2300) 0 32 + 1) (2 ^ 32 - 1)) ∧
         (best = none → rs.length < 3 → x.phase = .held ∧ x.runs = rs ∧ u.regs = s.regs) ∧
         (best = none → 3 ≤ rs.length → x.phase = .recordDue ∧ x.code = 0x31 ∧
           fld u (hltB + 0x2304) 0 32 = min (fld s (hltB + 0x2304) 0 32 + 1) (2 ^ 32 - 1)))) ∧
    (runEnded s k o = false → exec (.commitDecision ctx express opseq) s = .next s) ∧
    (let s1 := freeTiles (foldFlags s k) k
     let goes (d : Nat) : Prop :=
       (opcOf o ≠ 1 → ∃ u : State, exec (.replayDispatch ctx express opseq launch) s = .next u ∧ u.regs = s.regs ∧ u.host = s.host ∧
         opOf u k = some (rerun { o with info := tileFlags s k o.info } d) ∧
         (opcOf o = 3 ∨ opcOf o = 4 → k ∈ (dieOf u d).fountain.queue ∨ k ∈ (dieOf u d).fountain.heldOps)) ∧
       (opcOf o = 1 → ∀ xs : List Target, targetsOf s1 (rerun o d) 0 = some xs →
         ((∃ x ∈ xs, targetFree s1 k x = false) → exec (.replayDispatch ctx express opseq launch) s = .next s) ∧
         ((∀ x ∈ xs, targetFree s1 k x = true ∧
             (readBytes s x.part (resolveDie s x.part x.orig x.die (kernelRec o 0).image) (kernelRec o 0).image 0 (8 * (kernelRec o 0).words)).1 = 0) →
           ∃ (u : State) (y : Op), exec (.replayDispatch ctx express opseq launch) s = .next u ∧ opOf u k = some y ∧ y.phase = .running ∧
             y.runDie = d ∧ y.kernel = 0 ∧ y.runs = o.runs ∧ (∀ x ∈ xs, ∃ c, (tileOf u x.die x.pt).part = some c ∧ c.op = k) ∧
             u.regs = s.regs ∧ u.host = s.host))
     let fails : Prop :=
       ∃ (u : State) (x : Op), exec (.replayDispatch ctx express opseq launch) s = .next u ∧ opOf u k = some x ∧ x.phase = .recordDue ∧
         fld u (hltB + 0x2304) 0 32 = min (fld s (hltB + 0x2304) 0 32 + 1) (2 ^ 32 - 1) ∧
         (o.runs.any (fun r => r.chk) = true → x.code = 0x31) ∧
         (o.runs.any (fun r => r.chk) = false → x.info.susp = true ∧ (opFlag o 4 = false → x.code = o.own))
     o.phase = .held →
     (p.cur.chain = false → 2 ≤ (spanDies p).length →
       (∀ d, replayDie s p o = some d → (tagsOn s d < 3072 → goes d ∧ ∀ x ∈ o.runs, x.die ≠ d) ∧
         (3072 ≤ tagsOn s d → exec (.replayDispatch ctx express opseq launch) s = .next s)) ∧
       (replayDie s p o = none → fails)) ∧
     (p.cur.chain = true ∨ (spanDies p).length < 2 →
       let stuck := o.chkTiles.filter (fun t =>
         dieUp s (t / 136) && (upTo 128).any (fun n => match ptOf s (t / 136) n with | some m => m.1 == t % 136 | none => false))
       (stuck = [] → goes (if p.cur.chain then chainDie s o p else o.runDie)) ∧
       ((∃ t ∈ stuck, ∀ q, q < 136 → freeTarget s (t / 136) q = false) → fails) ∧
       (stuck ≠ [] → (∀ t ∈ stuck, ∃ q, q < 136 ∧ freeTarget s (t / 136) q = true) → exec (.replayDispatch ctx express opseq launch) s = .next s)))

/-- R228, R229: a ready DIGEST asks for an epoch. The comparison of an epoch, of the replicas' digests or in chain mode of the shards and their copies,
ends its operations, OK where they agree and E_DIGEST where they do not, and names the dies outside a strict majority, which are to be reloaded, or that
there is none; a reload copies the weight range of a die of the majority, and the reloaded die is to rejoin once its page digests are equal.

R237 to R239: lock-step records that have their partner leave the pair and those that have none stay; where all are equal nothing else changes;
unequal ones are reported, with a suspect event on both dies, and end their operations with E_CHECKSUM.
Model's choices it rests on: notes 77, 78, 79 and 126. -/
def Obligations.IntegrityChecksComplete : Prop :=
  (∀ (s : State) (ctx : Fin 4096) (express : Bool) (opseq : W32) (k : Nat) (o : Op) (part : Fin 64) (p : Partition) (agree : Bool) (die : Die),
     partOf s part = some p →
     (Names s ctx express opseq k o → opcOf o = 8 → o.part = part.val → mayDispatch s o = true →
       ∃ u : State, ∃ q : Partition, ∃ x : Op, exec (.digest ctx express opseq) s = .next u ∧ partOf u part = some q ∧
         q.digest.requested = p.digest.requested ++ [k] ∧ q.cur = p.cur ∧ opOf u k = some x ∧ x.phase = .running ∧ u.regs = s.regs ∧ u.dies = s.dies) ∧
     (p.digest.busy = false → exec (.digestCompare part agree) s = .next s) ∧
     (let ws := p.digest.weights
      let same : Bool := if p.cur.chain then agree else ws.all (fun e => e.2 == (ws.headD (0, [])).2)
      let maj := if p.cur.chain then none else majority ws
      p.digest.busy = true →
       ∃ u : State, ∃ q : Partition, exec (.digestCompare part agree) s = .next u ∧ partOf u part = some q ∧ q.cur = p.cur ∧ q.digest.busy = false ∧
         q.digest.done = true ∧ q.digest.doneWeights = ws ∧ q.digest.doneSteps = p.digest.startSteps ∧ q.digest.agree = same ∧ u.dies = s.dies ∧
         (∀ n x, n ∈ p.digest.runBy → opOf s n = some x →
           ∃ y : Op, opOf u n = some y ∧ y.phase = .recordDue ∧ y.code = (if same then 0 else 0x33)) ∧
         (same = true → q.digest.odd = 0 ∧ q.digest.nomaj = false ∧ u.regs = s.regs) ∧
         (∀ l, same = false → maj = some l →
           q.digest.reload = true ∧ q.digest.nomaj = false ∧ q.digest.leave = (ws.map (·.1)).filter (fun d => !l.contains d) ∧ u.regs = s.regs) ∧
         (same = false → maj = none → q.digest.nomaj = true ∧ q.digest.odd = 0 ∧ q.digest.reload = p.digest.reload)) ∧
     (p.digest.reload = true → p.digest.odd.testBit die.val = true → p.digest.leave.contains die.val = false →
       p.digest.rejoin.contains die.val = false → p.outDies.testBit die.val = true →
       let from' := (majority p.digest.doneWeights).bind (fun l => (l.filter (dieUp s)).head?)
       (from' = none → exec (.replicaReloadComplete part die) s = .next s) ∧
       (∀ src, from' = some src →
         let v := copyWeights s p src die.val
         ∃ u : State, ∃ q : Partition, exec (.replicaReloadComplete part die) s = .next u ∧ partOf u part = some q ∧ u.regs = s.regs ∧
           u.tiles = s.tiles ∧ dieOf u die = dieOf v die ∧ (∀ d, d ≠ die.val → dieOf u d = dieOf s d) ∧
           (pageDigests v p part die.val = pageDigests v p part src → q.digest.rejoin = p.digest.rejoin ++ [die.val] ∧ q.copying = p.copying) ∧
           (pageDigests v p part die.val ≠ pageDigests v p part src → q = p)))) ∧
  (∀ (s : State) (part : Fin 64) (q : LockPair), s.pairs.find? (fun q => q.primary == part.val) = some q →
     ∃ u : State, exec (.lockstepRecord part) s = .next u ∧
       u.pairs.find? (fun q => q.primary == part.val) =
         some { q with
           fromPrimary := q.fromPrimary.filter (fun r => (partner q.fromMirror r).isNone)
           fromMirror := q.fromMirror.filter (fun r => (partner q.fromPrimary r).isNone) } ∧
       ((∀ a ∈ q.fromPrimary, ∀ b, partner q.fromMirror a = some b → a.crc = b.crc) → u.ops = s.ops ∧ u.regs = s.regs) ∧
       (∀ a ∈ q.fromPrimary, ∀ b, partner q.fromMirror a = some b → a.crc ≠ b.crc →
         flag u (hltB + 0x2600) 31 = true ∧
         (keysRise s.ops = true → ∀ e ∈ s.ops, e.2.part = part.val → e.2.opseq = a.opseq → e.2.phase = .running ∨ e.2.phase = .held →
           ∃ y : Op, opOf u e.1 = some y ∧ y.phase = .recordDue ∧ y.code = 0x31) ∧
         (q.fromPrimary = [a] → flag s (hltB + 0x2600) 31 = false → a.die < 16 → b.die < 16 →
           fld u (hltB + 0x2600) 0 7 = a.lt % 128 ∧ flag u (hltB + 0x2600) 30 = (q.module != 0xFF) ∧ flag u (suspectReg a.die) 7 = true ∧
           (q.module = 0xFF → flag u (suspectReg b.die) 7 = true))))

/-- R397, R405, R411, R419: while its context is ACTIVE or DRAINING the record of an operation that has completed is written to the next completion slot
when there is one, and the operation gives up its tag; a message record is written so too. Without a free slot a record waits, as it does while the
context is in ERROR; the record of an operation whose context was reset is discarded. A completion slot that cannot be written is a ring fault.
Model's choices it rests on: notes 82, 89, 90 and 141. -/
def Obligations.RecordsComplete : Prop :=
  ∀ (s : State) (ctx : Fin 4096) (express : Bool) (opseq : W32) (k : Nat) (o : Op) (ok : Bool),
    let t := tcOf s ctx
    let slot := ringBase s ctx 0x20 + 32 * (t.records % cqSize s ctx)
    let goes := t.phase = .active ∨ t.phase = .draining
    (Names s ctx express opseq k o →
      (completed s k o = false → exec (.completionRecordWrite ctx (some (express, opseq)) ok) s = .next s) ∧
      (completed s k o = true → o.discard = true →
        ∃ u : State, exec (.completionRecordWrite ctx (some (express, opseq)) ok) s = .next u ∧ opOf u k = none ∧ u.host = s.host ∧
          (∀ j, j ≠ k → opOf u j = opOf s j)) ∧
      (completed s k o = true → o.discard = false →
        (¬ goes ∨ slotFree s ctx = false → exec (.completionRecordWrite ctx (some (express, opseq)) ok) s = .next s) ∧
        (goes → slotFree s ctx = true →
          (∃ u : State, exec (.completionRecordWrite ctx (some (express, opseq)) true) s = .next u ∧ opOf u k = none ∧
            hostRead u slot 32 = opRecord s { o with info := tileFlags s k o.info } ∧
            (∀ a, a < slot ∨ slot + 32 ≤ a → mget 0 u.host a = mget 0 s.host a) ∧
            (tcOf u ctx).records = t.records + 1 ∧ (∀ j, j ≠ k → opOf u j = opOf s j)) ∧
          (∃ u : State, exec (.completionRecordWrite ctx (some (express, opseq)) false) s = .next u ∧
            (tcOf u ctx).phase = .error ∧ (tcOf u ctx).errc = 5 ∧ u.host = s.host)))) ∧
    (t.waiting = [] → exec (.completionRecordWrite ctx none ok) s = .next s) ∧
    (∀ (w : WaitRec) (r : List WaitRec), t.waiting = w :: r →
      (¬ goes ∨ slotFree s ctx = false → exec (.completionRecordWrite ctx none ok) s = .next s) ∧
      (goes → slotFree s ctx = true →
        (∃ u : State, exec (.completionRecordWrite ctx none true) s = .next u ∧ (tcOf u ctx).waiting = r ∧ (tcOf u ctx).records = t.records + 1 ∧
          hostRead u slot 32 = messageRecord s ctx w ∧ (∀ a, a < slot ∨ slot + 32 ≤ a → mget 0 u.host a = mget 0 s.host a)) ∧
        (∃ u : State, exec (.completionRecordWrite ctx none false) s = .next u ∧ (tcOf u ctx).phase = .error ∧ (tcOf u ctx).errc = 5 ∧
          u.host = s.host)))

/-! ## The host interface -/

/-- R403, R273, R423, R397: a well-formed doorbell write to an ACTIVE context sets the index it names, or is a ring fault where the index is past
the ring; one that is malformed or finds the context not ACTIVE is counted, and one before QUEUES is discarded and counted. The coalescing timer,
once it has run out, signals the interrupt of the records that wait, or leaves it pending under MASK. A draining context with nothing in flight is
DISABLED.

R394: a reset of a link, by whatever event, disables every context of the link, discards the records of its operations in flight and
clears its ABI selection; what runs goes on, and host memory and the contexts of the other link are as they were.
Model's choices it rests on: notes 60 and 90. -/
def Obligations.ContextsComplete : Prop :=
  (∀ (s : State) (link : Fin 2) (page ctx : Fin 4096) (val : W32) (whole : Bool),
     (let all (u : State) : Prop := exec (.normalRingTail link page val whole) s = .next u ∧ exec (.expressRingTail link page val whole) s = .next u ∧
        exec (.completionRingHead link page val whole) s = .next u
      (pageCtx s link page = none → all s) ∧
      (pageCtx s link page = some ctx.val → cap s 1 = false → all (bump s (cfgB + 0x1C) 0 32 1))) ∧
     (pageCtx s link page = some ctx.val → cap s 1 = true →
       ∃ u1 u2 u3 : State, exec (.normalRingTail link page val whole) s = .next u1 ∧ exec (.expressRingTail link page val whole) s = .next u2 ∧
         exec (.completionRingHead link page val whole) s = .next u3 ∧
         (whole = true → val.toNat < 65536 → (tcOf s ctx).phase = .active →
           (val.toNat < ringSize s ctx false → tcOf u1 ctx = { tcOf s ctx with nTail := val.toNat } ∧ u1.regs = s.regs ∧ u1.ops = s.ops) ∧
           (val.toNat < ringSize s ctx true → tcOf u2 ctx = { tcOf s ctx with xTail := val.toNat } ∧ u2.regs = s.regs ∧ u2.ops = s.ops) ∧
           (val.toNat < cqSize s ctx → tcOf u3 ctx = { tcOf s ctx with cHead := val.toNat } ∧ u3.regs = s.regs ∧ u3.ops = s.ops) ∧
           (ringSize s ctx false ≤ val.toNat → (tcOf u1 ctx).phase = .error ∧ (tcOf u1 ctx).errc = 3) ∧
           (ringSize s ctx true ≤ val.toNat → (tcOf u2 ctx).phase = .error ∧ (tcOf u2 ctx).errc = 3) ∧
           (cqSize s ctx ≤ val.toNat → (tcOf u3 ctx).phase = .error ∧ (tcOf u3 ctx).errc = 3)) ∧
         (whole = false ∨ 65536 ≤ val.toNat ∨ (tcOf s ctx).phase ≠ .active →
           ∀ u ∈ [u1, u2, u3], u.tcs = s.tcs ∧ u.ops = s.ops ∧
             fld u (qpB (ctxHome s ctx)) 12 4 = min (fld s (qpB (ctxHome s ctx)) 12 4 + 1) 15)) ∧
     (let tmr := fld s (tcB ctx + 0xC) 0 8
      (∀ t : Nat, (tcOf s ctx).firstUnsig = some t → tmr ≠ 0 → t + tmr * 1000 ≤ mltNs s →
        ∃ u : State, exec (.coalescingTimerExpiry ctx) s = .next u ∧ (tcOf u ctx).unsignalled = 0 ∧ (tcOf u ctx).firstUnsig = none ∧
          (flag s (tcB ctx + 0xC) 29 = false →
            (irqMode s ctx = 1 →
              u.out = .irqWrite ((raw s (tcB ctx + 0x34)).toNat + (raw s (tcB ctx + 0x38)).toNat * 2 ^ 32) (raw s (tcB ctx + 0x3C)) :: s.out) ∧
            (irqMode s ctx = 2 → let v := msix s (linkOf s ctx) (fld s (tcB ctx + 0xC) 16 11); u.out = v.out ∧ u.regs = v.regs)) ∧
          (irqMode s ctx ≠ 0 → flag s (tcB ctx + 0xC) 29 = true → (tcOf u ctx).pend = true ∧ u.out = s.out) ∧
          (irqMode s ctx = 0 → (tcOf u ctx).pend = (tcOf s ctx).pend ∧ u.out = s.out) ∧ u.host = s.host ∧ u.ops = s.ops) ∧
      ((tcOf s ctx).firstUnsig = none ∨ tmr = 0 ∨ (∃ t, (tcOf s ctx).firstUnsig = some t ∧ mltNs s < t + tmr * 1000) →
        exec (.coalescingTimerExpiry ctx) s = .next s)) ∧
     ((tcOf s ctx).phase = .draining → (tcOf s ctx).waiting = [] → (∀ e ∈ s.ops, e.2.ctx = ctx.val → e.2.life ≠ (tcOf s ctx).life) →
       ∃ u : State, exec (.contextDrainDone ctx) s = .next u ∧ tcOf u ctx = { tcOf s ctx with phase := .disabled, errc := 0 } ∧
         u.regs = s.regs ∧ u.ops = s.ops) ∧
     ((tcOf s ctx).phase ≠ .draining ∨ (tcOf s ctx).waiting ≠ [] ∨ (∃ e ∈ s.ops, e.2.ctx = ctx.val ∧ e.2.life = (tcOf s ctx).life) →
       exec (.contextDrainDone ctx) s = .next s)) ∧
  (∀ (s : State) (link : Fin 2) (c : Instr), c ∈ [Instr.perstAssert link, .functionLevelReset link, .hotReset link, .linkDown link] →
     (link = 1 → twoLinks s = false → exec c s = .next s) ∧
     ((link = 1 → twoLinks s = true) →
       ∃ u : State, exec c s = .next u ∧ (∀ n, linkOf s n = link.val → (tcOf u n).phase = .disabled) ∧
         (∀ n, linkOf s n ≠ link.val → tcOf u n = tcOf s n) ∧ (∀ e ∈ u.ops, linkOf s e.2.ctx = link.val → e.2.discard = true) ∧
         raw u (abiB link + 0x1020) = 0 ∧ raw u (abiB link + 0x1024) = 0xFFFFFFFF ∧ u.ops.map (·.1) = s.ops.map (·.1) ∧ u.host = s.host ∧
         u.tiles = s.tiles ∧ u.parts = s.parts))

/-- R393, R273: an access through BAR4 reaches the lines of its window; one that leaves the bank set, or finds the window off, is answered
with a Completer Abort (a read) or counted and discarded (a write), and so is one that meets an error, an uncorrectable one as a suspect event.
Before QUEUES every access is answered with a Completer Abort.

R395, R397, R398, R399, R423: EN set on a DISABLED context whose link has an ABI makes it ACTIVE with its indices at 0, and without one enables no
context; EN cleared on an ACTIVE one, and RESET on one in ERROR, drain it; an interrupt that pends is sent when MASK is cleared; GO selects the
newest common version of the ABI for its link, or none.
Model's choices it rests on: notes 62, 85 and 117. -/
def Obligations.HostAccessesComplete : Prop :=
  (∀ (s : State) (link : Fin 2) (off : Fin 68719476736) (n : Fin 4097) (b : List Byte),
     let k := hubB + 0x1040
     (cap s 1 = false → exec (.bar4Read link off n) s = .next { s with out := .abort link false :: s.out } ∧
       exec (.bar4Write link off b) s = .next { s with out := .abort link true :: s.out }) ∧
     (cap s 1 = true →
     (∀ l l', bar4Line s off = some l → bar4Line s (off.val + (n.val - 1)) = some l' →
       readBytes s (fld s k 20 6) (fld s k 16 4) l (off.val % 64) n = (0, b) →
       exec (.bar4Read link off n) s = .next { s with out := .readData link b :: s.out }) ∧
     (∀ l l' e x, bar4Line s off = some l → bar4Line s (off.val + (n.val - 1)) = some l' →
       readBytes s (fld s k 20 6) (fld s k 16 4) l (off.val % 64) n = (e, x) → e ≠ 0 →
       ∃ u : State, exec (.bar4Read link off n) s = .next u ∧ u.out = .abort link false :: s.out ∧ u.dies = s.dies ∧
         (e = 0x50 → flag u (suspectReg (fld s k 16 4)) 1 = true) ∧ (e ≠ 0x50 → u.regs = s.regs)) ∧
     (bar4Line s off = none ∨ bar4Line s (off.val + (n.val - 1)) = none →
       exec (.bar4Read link off n) s = .next { s with out := .abort link false :: s.out }) ∧
     (∀ l l' v, bar4Line s off = some l → bar4Line s (off.val + (b.length - 1)) = some l' →
       writeBytes s (fld s k 20 6) (fld s k 16 4) l (off.val % 64) b = (0, v) → exec (.bar4Write link off b) s = .next v) ∧
     (∀ l l' e v, bar4Line s off = some l → bar4Line s (off.val + (b.length - 1)) = some l' →
       writeBytes s (fld s k 20 6) (fld s k 16 4) l (off.val % 64) b = (e, v) → e ≠ 0 →
       ∃ u : State, exec (.bar4Write link off b) s = .next u ∧ fld u k 26 5 = min (fld s k 26 5 + 1) 31 ∧ u.dies = v.dies ∧ u.out = s.out) ∧
     (bar4Line s off = none ∨ bar4Line s (off.val + (b.length - 1)) = none →
       ∃ u : State, exec (.bar4Write link off b) s = .next u ∧ fld u k 26 5 = min (fld s k 26 5 + 1) 31 ∧ u.dies = s.dies ∧ u.out = s.out))) ∧
  (∀ (s : State) (req : Fin 3) (ctx : Fin 4096),
     (Reaches s req (tcB ctx) (tcB ctx) →
       ((tcOf s ctx).phase = .disabled → flag s (tcB ctx) 31 = false → abiReady s (linkOf s ctx) = true →
         ∃ u : State, exec (.tcEnSet req ctx) s = .next u ∧ (tcOf u ctx).phase = .active ∧ (tcOf u ctx).life = (tcOf s ctx).life + 1 ∧
           (tcOf u ctx).nTail = 0 ∧ (tcOf u ctx).xTail = 0 ∧ (tcOf u ctx).cHead = 0 ∧ (tcOf u ctx).nFetched = 0 ∧ (tcOf u ctx).xFetched = 0 ∧
           (tcOf u ctx).records = 0 ∧ flag u (tcB ctx) 31 = true ∧ u.ops = s.ops) ∧
       ((tcOf s ctx).phase ≠ .active → flag s (tcB ctx) 31 = false → abiReady s (linkOf s ctx) = false →
         ∃ u : State, exec (.tcEnSet req ctx) s = .next u ∧ flag u (tcB ctx) 31 = false ∧ u.tcs = s.tcs) ∧
       ((tcOf s ctx).phase = .active →
         ∃ u : State, exec (.tcEnClear req ctx) s = .next u ∧ (tcOf u ctx).phase = .draining ∧ flag u (tcB ctx) 31 = false ∧
           (keysRise s.ops = true → ∀ e ∈ s.ops, e.2.ctx = ctx.val → undispatched e.2 = true →
             opOf u e.1 = some { e.2 with phase := .recordDue, code := 0x01, seedE := 0 })) ∧
       ((tcOf s ctx).phase = .error →
         ∃ u : State, exec (.tcReset req ctx) s = .next u ∧ (tcOf u ctx).phase = .draining ∧ u.host = s.host)) ∧
     (Reaches s req (tcB ctx + 0xC) (tcB ctx + 0xC) →
       ∃ u : State, exec (.interruptUnmask req ctx) s = .next u ∧ (tcOf u ctx).pend = false ∧ flag u (tcB ctx + 0xC) 29 = false ∧
         ((tcOf s ctx).pend = true → irqMode s ctx = 1 →
           u.out = .irqWrite ((raw s (tcB ctx + 0x34)).toNat + (raw s (tcB ctx + 0x38)).toNat * 2 ^ 32) (raw s (tcB ctx + 0x3C)) :: s.out) ∧
         ((tcOf s ctx).pend = true → irqMode s ctx = 2 →
           u.out = (msix s (linkOf s ctx) (fld s (tcB ctx + 0xC) 16 11)).out) ∧
         ((tcOf s ctx).pend = false ∨ irqMode s ctx = 0 → u.out = s.out)) ∧
     (∀ link : Fin 2, (link = 0 → Reaches s 0 0x1020 0x1020) → (link = 1 → Reaches s 1 0x60000 (ownB 1) ∧ raw s (ownB 1) &&& 3 = 0) →
       ∃ u : State, exec (.abiNegotiation link) s = .next u ∧ flag u (abiB link + 0x1020) 30 = true ∧
         raw u (abiB link + 0x1024) = (abiCommon s (abiB link)).getD 0xFFFFFFFF ∧
         flag u (abiB link + 0x1020) 29 = (abiCommon s (abiB link)).isNone ∧ u.tcs = s.tcs))

/-! ## Registers -/

/-- R14, R15, R425, R430: an access of 4 bytes, or of 8 as two, of any register that is reached writes or reads it. A write to a register of CFG_, HLT_ or
PWR_ leaves each bit as its type says: a RW bit as written, a locked-by-LOCK bit as written unless LOCK is set, a W1C bit cleared where 1 is
written, LOCK set for good, any other bit as it was, but for the three registers whose fields have limits, which keep them; a read returns the
register and clears its RC bits. No other register changes but HUB_STAT.
Model's choice it rests on: note 108. -/
def Obligations.RegisterAccessesComplete : Prop :=
  (∀ (s : State) (req : Fin 3) (off : Fin 67108864) (k : Nat) (v : W32), Reaches s req off k → k ≠ ownB req + 4 →
     exec (.registerWrite req off 4 0xF (v.zeroExtend 64)) s = .next (writeReg s k v) ∧
     exec (.registerRead req off 4 0xF) s = .next (send (clearRead s k) (.readData req (leBytes 4 (viewOf s k).toNat))) ∧
     (∀ (j : Nat) (hi : W32), off.val % 8 = 0 → j ≠ ownB req + 4 → Reaches s req (off.val + 4) j →
       (Reaches (writeReg s k v) req (off.val + 4) j →
         exec (.registerWrite req off 8 0xFF (hi ++ v)) s = .next (writeReg (writeReg s k v) j hi)) ∧
       (Reaches (clearRead s k) req (off.val + 4) j →
         exec (.registerRead req off 8 0xFF) s = .next (send (clearRead (clearRead s k) j)
           (.readData req (leBytes 4 (viewOf s k).toNat ++ leBytes 4 (viewOf (clearRead s k) j).toNat)))))) ∧
  (∀ (s : State) (req : Fin 3) (off : Fin 67108864) (v : W32) (m : RegMask),
     0x30000 ≤ off.val → off.val < 0x60000 → Reaches s req off off → fieldsOf off = some m →
     (∃ u : State, exec (.registerWrite req off 4 0xF (v.zeroExtend 64)) s = .next u ∧
       (off.val ∉ [hltB + 4, hltB + 0x408, pwrB + 4] → ∀ i, i < 32 → (raw u off).getLsbD i =
         if m.rw.testBit i then v.getLsbD i
         else if m.rwl.testBit i then (if (raw s off).msb then (raw s off).getLsbD i else v.getLsbD i)
         else if m.w1c.testBit i then (raw s off).getLsbD i && !v.getLsbD i
         else if i = 31 ∧ m.rwl ≠ 0 then (raw s off).getLsbD i || v.getLsbD i
         else (raw s off).getLsbD i) ∧
       (off.val = hltB + 4 → 1 ≤ fld u (hltB + 4) 16 8) ∧
       (off.val = hltB + 0x408 → 4 ≤ fld u (hltB + 0x408) 24 4 ∧ fld u (hltB + 0x408) 24 4 ≤ 12) ∧
       (off.val = pwrB + 4 → 8 ≤ fld u (pwrB + 4) 0 6 ∧ fld u (pwrB + 4) 0 6 ≤ 48 ∧ 60 ≤ fld u (pwrB + 4) 8 8 ∧
         1500 ≤ fld u (pwrB + 4) 16 13 ∧ fld u (pwrB + 4) 16 13 ≤ 4000) ∧
       (∀ k, k ≠ off.val → k ≠ 8 → raw u k = raw s k) ∧ u.out = s.out ∧ u.host = s.host ∧ u.tiles = s.tiles) ∧
     (∃ u : State, exec (.registerRead req off 4 0xF) s = .next u ∧ u.out = .readData req (leBytes 4 (viewOf s off).toNat) :: s.out ∧
       (∀ i, i < 32 → (raw u off).getLsbD i = ((raw s off).getLsbD i && !m.rc.testBit i)) ∧ (∀ k, k ≠ off.val → raw u k = raw s k) ∧
       u.host = s.host ∧ u.tiles = s.tiles))

/-- R433, R434, R436, R437, R495: IND_ADDR takes a target; an access of IND_DATA writes or reads the register it names, as an access at the register's own
offset does where it has one, and OFFSET advances by 4 where AINC is set; a request of the wide-value mailbox captures the selected value, and
one while a capture is under way sets OVR; the SMBus answers from stage A on and reads the register at the offset it was given.

R425, R426, R387: an access of the wrong size or alignment, to a place where no register is, or to one behind a stopped clock, through IND_DATA
too, changes no register but the log of the first bus error since BUSERR was cleared, and the requester is answered with an abort.
Model's choices it rests on: notes 108, 109, 111 and 118. -/
def Obligations.IndirectAccessesAndBusErrors : Prop :=
  (∀ (s : State) (req : Fin 3) (v : W32),
     (Reaches s req 0x60000 (ownB req) →
       ∃ u : State, exec (.indAddrWrite req v) s = .next u ∧ raw u (ownB req) &&& 0xFFF0FFFC = v &&& 0xFFF0FFFC ∧
         (∀ k, k ≠ ownB req → raw u k = raw s k) ∧ u.out = s.out) ∧
     (∀ w : Option W32, Reaches s req 0x60004 (ownB req + 4) →
       let a := (raw s (ownB req)).toNat
       let next (u : State) : State := if bitAt a 31 then setFld u (ownB req) 0 16 (bitsOf a 0 16 + 4) else u
       (∀ p : RegPlace, locateInd s req a = .ok p → waits s none p = false →
         exec (.indDataAccess req w) s =
           .next (match w with
             | some b => next (writeReg s p.key b)
             | none => send (next (clearRead s p.key)) (.readData req (leBytes 4 (viewOf s p.key).toNat))) ∧
         (p.key < 0x4000000 → Reaches s req p.key p.key →
           match w with
           | some b => exec (.registerWrite req (Fin.ofNat 67108864 p.key) 4 0xF (b.zeroExtend 64)) s = .next (writeReg s p.key b)
           | none => exec (.registerRead req (Fin.ofNat 67108864 p.key) 4 0xF) s =
               .next (send (clearRead s p.key) (.readData req (leBytes 4 (viewOf s p.key).toNat))))) ∧
       (∀ c, (locateInd s req a = .error c ∨ (∃ p, locateInd s req a = .ok p ∧ waits s none p = true) ∧ c = 4) → flag s 8 30 = false →
         ∃ u : State, exec (.indDataAccess req w) s = .next u ∧ flag u 8 30 = true ∧ raw u 0x10 = 0x60004 ∧ fld u 0x14 24 5 = c % 32 ∧
           fld u 0x14 0 24 = bitsOf a 2 24 ∧ u.out = .abort req w.isSome :: s.out ∧
           (∀ k, k ≠ 8 → k ≠ 0x10 → k ≠ 0x14 → k ≠ ownB req → raw u k = raw s k))) ∧
     (Reaches s req 0x61008 (ownB req + 0x1008) →
       let k := ownB req + 0x1000
       let w := wideValue s (fld s k 24 8) (fld s k 16 4) (fld s k 0 6) (fld s (k + 4) 0 32)
       ∃ u : State, exec (.wideReq req) s = .next u ∧ u.out = s.out ∧
         (wideBusy s req = false → mfind u.hub.wides req = some ⟨s.hub.cycles, w.isNone, w.getD []⟩ ∧ (∀ j, raw u j = raw s j)) ∧
         (wideBusy s req = true → u.hub.wides = s.hub.wides ∧ flag u (k + 8) 27 = true)) ∧
     (stageAUp s = false → exec (.smbusOffsetWrite v) s = .next s ∧ exec .smbusRegisterRead s = .next s) ∧
     (stageAUp s = true →
       exec (.smbusOffsetWrite v) s = .next { s with pwr := { s.pwr with smbusOff := v } } ∧
       (let k := s.pwr.smbusOff.toNat
        let b := if cfgB ≤ k ∧ k < 0x60000 ∧ k % 4 = 0 ∧ (fieldsOf k).isSome = true then leBytes 4 (viewOf s k).toNat else []
        exec .smbusRegisterRead s = .next { s with out := .smbus b :: s.out }))) ∧
  (∀ (s : State) (req : Fin 3) (off : Fin 67108864) (size : Nat) (be val : W64),
     ((req = 1 → twoLinks s = true) → ∀ c, (¬ (size = 4 ∧ off.val % 4 = 0 ∧ be = 0xF) ∧ ¬ (size = 8 ∧ off.val % 8 = 0 ∧ be = 0xFF) ∧ c = 2) ∨
         (((size = 4 ∧ be = 0xF ∧ off.val % 4 = 0) ∨ (size = 8 ∧ be = 0xFF ∧ off.val % 8 = 0)) ∧ locate s req off = .error c) ∨
         (size = 4 ∧ be = 0xF ∧ off.val % 4 = 0 ∧ (∃ p, locate s req off = .ok p ∧ waits s none p = true) ∧ c = 4) →
       (flag s 8 30 = true →
         exec (.registerRead req off size be) s = .next { s with out := .abort req false :: s.out } ∧
         exec (.registerWrite req off size be val) s = .next { s with out := .abort req true :: s.out }) ∧
       (flag s 8 30 = false →
         (∃ u : State, exec (.registerRead req off size be) s = .next u ∧ flag u 8 30 = true ∧ raw u 0x10 = BitVec.ofNat 32 off ∧
           fld u 0x14 30 2 = req.val ∧ fld u 0x14 29 1 = 0 ∧ fld u 0x14 24 5 = c % 32 ∧ u.out = .abort req false :: s.out ∧
           (∀ k, k ≠ 8 → k ≠ 0x10 → k ≠ 0x14 → raw u k = raw s k)) ∧
         (∃ u : State, exec (.registerWrite req off size be val) s = .next u ∧ flag u 8 30 = true ∧ raw u 0x10 = BitVec.ofNat 32 off ∧
           fld u 0x14 29 1 = 1 ∧ fld u 0x14 24 5 = c % 32 ∧ u.out = .abort req true :: s.out ∧
           (∀ k, k ≠ 8 → k ≠ 0x10 → k ≠ 0x14 → raw u k = raw s k)))) ∧
     (req = 1 → twoLinks s = false → exec (.registerRead req off size be) s = .next s ∧ exec (.registerWrite req off size be val) s = .next s))

/-! ## The Fountain -/

/-- R175, R177 to R190, R217, R231: a ready GENERATE or SAMPLE enters the unit of its die, or is held while the unit holds eight, and one that is not to run
there ends with its code; at the head of its unit a GENERATE writes its tensor and ends, and a SAMPLE draws a row and writes its record, row by
row; one whose parameters or lines are refused ends with the code, and an uncorrectable error in the unit is a suspect event of its die, ends the run
and takes it out of the unit. A held operation enters once the unit holds fewer than eight; a seed is drawn once, from a source that is healthy,
and it is any value.
Model's choices it rests on: notes 27, 54, 55, 56 and 159. -/
def Obligations.FountainCompletes : Prop :=
  ∀ (s : State) (ctx : Fin 4096) (express : Bool) (opseq : W32) (k : Nat) (o : Op) (p : Partition) (orig : Nat) (die : Die),
    let d := o.runDie
    let f := (dieOf s d).fountain
    let runs : Prop := Names s ctx express opseq k o ∧ partOf s o.part = some p ∧ o.phase = .running ∧ f.queue.head? = some k
    let failed (u : State) (e : Status) : Prop :=
      (∃ x : Op, opOf u k = some x ∧ x.phase = .recordDue ∧ x.code = e) ∧ (dieOf u d).fountain.queue = f.queue.filter (· != k)
    let eccEnds (u : State) : Prop :=
      flag u (suspectReg d) 1 = true ∧ (dieOf u d).fountain.queue = f.queue.filter (· != k) ∧
        ∃ x : Op, opOf u k = some x ∧ (x.phase = .recordDue ∧ x.code = 0x50 ∨ x.finished = true ∧ x.badRun = true)
    (runs → opcOf o = 3 →
      (∃ u : State, exec (.generate ctx express opseq true) s = .next u ∧ eccEnds u) ∧
      (genOk (genArgs o) = false → ∃ u : State, exec (.generate ctx express opseq false) s = .next u ∧ failed u 0x22) ∧
      (∀ (e : Status) (v : State), genOk (genArgs o) = true → spanDie p (genArgs o).die = some orig →
        writeBytes s o.part (resolveDie s o.part orig d (genArgs o).dst) (genArgs o).dst 0 (genBytes (opSeed o) (genArgs o)).1 = (e, v) →
        (e ≠ 0 → e ≠ 0x50 → ∃ u : State, exec (.generate ctx express opseq false) s = .next u ∧ failed u e) ∧
        (e = 0 → ∃ u : State, ∃ x : Op, exec (.generate ctx express opseq false) s = .next u ∧ opOf u k = some x ∧ x.finished = true ∧
          x.phase = .running ∧ (dieOf u d).fountain.queue = f.queue.filter (· != k) ∧ (∀ pn c a, readLine u pn c a = readLine v pn c a) ∧
          u.regs = v.regs ∧ u.tiles = s.tiles ∧ u.host = s.host))) ∧
    (Names s ctx express opseq k o → opcOf o = 4 →
      (∀ (n : Nat) (ecc : Bool) (u : State), exec (.sample ctx express opseq 1 false) s = .next u →
        exec (.sample ctx express opseq (n + 1) ecc) s = exec (.sample ctx express opseq n ecc) u) ∧
      (runs → exec (.sample ctx express opseq 0 false) s = .next s ∧ ∃ u : State, exec (.sample ctx express opseq 0 true) s = .next u ∧ eccEnds u) ∧
      (∀ (pr lr : Status × List Byte), runs → spanDie p (smpDie o) = some orig →
        let res (a : Nat) : Nat := resolveDie s o.part orig d a
        let pa := smpParams o + f.row / 2
        let ra := smpResult o + f.row / 4
        let n := smpV o * (if smpFmt o = 6 then 4 else 2)
        let a := rowArgs pr.2
        let e : W64 := if a.src then (if o.seedDrawn then o.seedE else Config.freeValue s.fresh) else 0
        let row := sampleRow (a.seed ^^^ e) a (logitVals (smpFmt o) lr.2 (smpV o))
        let am := rowArgs (mirrorBytes s o.part (res pa) pa (f.row % 2 * 32) 32 pr.2)
        let rowm := sampleRow am.seed am (logitVals (smpFmt o) (mirrorBytes s o.part (res am.logits) am.logits 0 n lr.2) (smpV o))
        readBytes s o.part (res pa) pa (f.row % 2 * 32) 32 = pr →
        (pr.1 ≠ 0 → pr.1 ≠ 0x50 → ∃ u : State, exec (.sample ctx express opseq 1 false) s = .next u ∧ failed u pr.1) ∧
        (pr.1 = 0 → a.ok = false ∨ (a.src && o.strictAt) = true →
          ∃ u : State, exec (.sample ctx express opseq 1 false) s = .next u ∧ failed u 0x22) ∧
        (pr.1 = 0 → a.ok = true → (a.src && o.strictAt) = false → readBytes s o.part (res a.logits) a.logits 0 n = lr →
          (lr.1 ≠ 0 → lr.1 ≠ 0x50 → ∃ u : State, exec (.sample ctx express opseq 1 false) s = .next u ∧ failed u lr.1) ∧
          (∀ (w : Status) (v : State), lr.1 = 0 → writeBoth s o.part (res ra) ra (f.row % 4 * 16) (rowRecord row) (rowRecord rowm) = (w, v) →
            (w ≠ 0 → w ≠ 0x50 → ∃ u : State, exec (.sample ctx express opseq 1 false) s = .next u ∧ failed u w) ∧
            (w = 0 → ∃ u : State, ∃ x : Op, exec (.sample ctx express opseq 1 false) s = .next u ∧ opOf u k = some x ∧ x.phase = .running ∧
              (∀ pn c i, readLine u pn c i = readLine v pn c i) ∧ fld u (ftnB d + 4) 0 32 = min (fld s (ftnB d + 4) 0 32 + 1) (2 ^ 32 - 1) ∧
              (smpRows o ≤ f.row + 1 → x.finished = true ∧ (dieOf u d).fountain.queue = f.queue.filter (· != k)) ∧
              (f.row + 1 < smpRows o → x.finished = o.finished ∧ (dieOf u d).fountain = { f with row := f.row + 1 }) ∧ u.tiles = s.tiles))))) ∧
    (∀ c : Instr, Names s ctx express opseq k o → mayDispatch s o = true →
      let pos := if opcOf o = 3 then (genArgs o).die else smpDie o
      let ends (e : Status) : Prop := ∃ u : State, exec c s = .next u ∧ ∃ x : Op, opOf u k = some x ∧ x.phase = .recordDue ∧ x.code = e
      ((∃ ecc, c = .generate ctx express opseq ecc) ∧ opcOf o = 3) ∨ ((∃ rows ecc, c = .sample ctx express opseq rows ecc) ∧ opcOf o = 4) →
      ((opFlag o 3 && strict s o.part) = true → ends 0x22) ∧
      ((opFlag o 3 && strict s o.part) = false →
        ((partOf s o.part).bind (fun p => spanDie p pos) = none → ends 0x10) ∧
        (∀ e : Nat, (partOf s o.part).bind (fun p => spanDie p pos) = some e →
          let g := (dieOf s e).fountain
          exec c s = exec c (enterFtn s k e) ∧
          (g.queue.head? ≠ some k → g.queue ≠ [] → ∃ u : State, exec c s = .next u ∧ u.regs = s.regs ∧
            (g.queue.length < 8 → g.heldOps = [] → (dieOf u e).fountain = { g with queue := g.queue ++ [k] }) ∧
            (8 ≤ g.queue.length ∨ g.heldOps ≠ [] → (dieOf u e).fountain = { g with heldOps := g.heldOps ++ [k] }))))) ∧
    (∀ (n : Nat) (r : List Nat), (dieOf s die).fountain.heldOps = n :: r → (dieOf s die).fountain.queue.length < 8 →
      ∃ u : State, exec (.fountainQueueRelease die) s = .next u ∧
        (dieOf u die).fountain = { (dieOf s die).fountain with queue := (dieOf s die).fountain.queue ++ [n], heldOps := r } ∧ u.ops = s.ops) ∧
    ((dieOf s die).fountain.heldOps = [] ∨ 8 ≤ (dieOf s die).fountain.queue.length →
      ∃ u : State, exec (.fountainQueueRelease die) s = .next u ∧ (∀ e, dieOf u e = dieOf s e) ∧ u.ops = s.ops) ∧
    (Names s ctx express opseq k o → o.phase = .ready → opFlag o 3 = true →
      (o.seedDrawn = false → s.ks.entropyOk = true → ∃ u : State, exec (.entropySeedDraw ctx express opseq) s = .next u ∧
        opOf u k = some { o with seedE := Config.freeValue s.fresh, seedDrawn := true } ∧ u.fresh = s.fresh + 1) ∧
      (o.seedDrawn = true ∨ s.ks.entropyOk = false → exec (.entropySeedDraw ctx express opseq) s = .next s)) ∧
    (∀ passed : Bool, exec (.entropyHealthTest passed) s = .next { s with ks := { s.ks with entropyOk := passed } })

/-! ## Copies, messages and requests over the Vidonlink -/

/-- R407, R411, R415, R341: each COPY command moves the next lines, at most 64: from host memory or a die of the partition into host memory or a die of the
partition, or into a request when either side is remote, for which it waits while no tag is free. A MESSAGE leaves in one packet. A ready operation
is dispatched first. A position with no die ends it with E_TARGET_OFF, a refused or unreadable line with the code of the access, a remote
request that is not forwarded with E_LINK_LOST.
Model's choices it rests on: notes 66 and 159. -/
def Obligations.CopiesComplete : Prop :=
  ∀ (s : State) (ctx : Fin 4096) (express : Bool) (opseq : W32) (lines : Nat) (k : Nat) (o : Op), Names s ctx express opseq k o →
    (opcOf o = 5 →
      let ends (e : Status) : Prop :=
        ∃ u : State, ∃ x : Op, exec (.copy ctx express opseq lines) s = .next u ∧ opOf u k = some x ∧ x.phase = .recordDue ∧ x.code = e
      let i := o.linesSent
      let n := min (min lines 64) (cpLines o - i)
      (mayDispatch s o = true → exec (.copy ctx express opseq lines) s = exec (.copy ctx express opseq lines) (startOp s k o.home)) ∧
      (mayDispatch s o = false → o.phase ≠ .running ∨ o.finished = true ∨ n = 0 → exec (.copy ctx express opseq lines) s = .next s) ∧
      (o.phase = .running → o.finished = false → n ≠ 0 →
        (cpKind o false = 1 → cpDie s o false = none → ends 0x10) ∧
        (∀ d e xs, cpKind o false = 1 → cpDie s o false = some d → readLines s o.part d (cpAddr o false + i) n = (e, xs) → e ≠ 0 → e ≠ 0x50 → ends e) ∧
        (2 ≤ cpKind o false →
          let r := issueReq s o.runDie (cpPkt s o false i n []) ⟨0, 0, 0, some k, i, n, false, false⟩
          (r = none → exec (.copy ctx express opseq lines) s = .next s) ∧ (∀ v, r = some (v, false) → ends 0x12) ∧
          (∀ v, r = some (v, true) → ∃ u : State, exec (.copy ctx express opseq lines) s = .next u ∧ opOf u k = some { o with linesSent := i + n } ∧
            u.ports = v.ports ∧ u.dies = s.dies ∧ u.host = s.host)) ∧
        (∀ (xs : List Line) (ms : List Byte),
          (cpKind o false = 0 ∧ ms = hostRead s (cpAddr o false + 64 * i) (64 * n) ∧ xs = toLines ms) ∨
          (cpKind o false = 1 ∧ ∃ d, cpDie s o false = some d ∧ readLines s o.part d (cpAddr o false + i) n = (0, xs) ∧
            ms = mirrorBytes s o.part d (cpAddr o false + i) 0 (64 * n) (xs.flatMap lineBytes)) →
          (cpKind o true = 0 → ∃ u : State, ∃ x : Op, exec (.copy ctx express opseq lines) s = .next u ∧ opOf u k = some x ∧
            x.linesSent = i + n ∧ x.linesDone = o.linesDone + n ∧ x.finished = decide (o.linesDone + n = cpLines o) ∧
            (o.discard = false → hostRead u (cpAddr o true + 64 * i) (64 * n) = xs.flatMap lineBytes) ∧ (o.discard = true → u.host = s.host) ∧
            u.dies = s.dies ∧ u.regs = s.regs) ∧
          (cpKind o true = 1 → cpDie s o true = none → ends 0x10) ∧
          (∀ d e v, cpKind o true = 1 → cpDie s o true = some d →
            writeBoth s o.part d (cpAddr o true + i) 0 (xs.flatMap lineBytes) ms = (e, v) →
            (e = 0 → ∃ u : State, ∃ x : Op, exec (.copy ctx express opseq lines) s = .next u ∧ opOf u k = some x ∧ x.linesSent = i + n ∧
              x.linesDone = o.linesDone + n ∧ x.finished = decide (o.linesDone + n = cpLines o) ∧ u.dies = v.dies ∧ u.host = s.host ∧
              u.regs = s.regs) ∧
            (e ≠ 0 → e ≠ 0x50 → ends e)) ∧
          (2 ≤ cpKind o true →
            let r := issueReq s o.runDie (cpPkt s o true i n xs) ⟨0, 0, 0, some k, i, n, true, false⟩
            (r = none → exec (.copy ctx express opseq lines) s = .next s) ∧ (∀ v, r = some (v, false) → ends 0x12) ∧
            (∀ v, r = some (v, true) → ∃ u : State, exec (.copy ctx express opseq lines) s = .next u ∧
              opOf u k = some { o with linesSent := i + n } ∧ u.ports = v.ports ∧ u.dies = s.dies ∧ u.host = s.host))))) ∧
    (opcOf o = 6 →
      let ends (e : Status) : Prop :=
        ∃ u : State, ∃ x : Op, exec (.message ctx express opseq) s = .next u ∧ opOf u k = some x ∧ x.phase = .recordDue ∧ x.code = e
      let goes := mayDispatch s o = true ∨ (o.phase = .running ∧ o.linesSent = 0)
      let d := if mayDispatch s o then o.home else o.runDie
      let n := byteAt o.desc 43 + 1
      (¬ goes → exec (.message ctx express opseq) s = .next s) ∧
      (goes → ∀ (e : Status) (xs : List Line), readLines s o.part o.home (dF o 32 4) n = (e, xs) →
        (e ≠ 0 → e ≠ 0x50 → ends e) ∧
        (e = 0 →
          let q : Pkt :=
            { typ := 3, dmod := byteAt o.desc 40, ddie := byteAt o.desc 41, sdie := d, smod := 0, cls := opClass s o
              part := byteAt o.desc 42, lines := n, addr := dF o 36 4, payload := xs }
          let r := issueReq s d q ⟨0, 0, 0, some k, 0, n, true, true⟩
          (∀ v, r = some (v, false) → ends 0x12) ∧
          (∀ v, r = some (v, true) → ∃ u : State, ∃ x : Op, exec (.message ctx express opseq) s = .next u ∧ opOf u k = some x ∧
            x.phase = .running ∧ x.linesSent = n ∧ u.ports = v.ports ∧ u.dies = s.dies) ∧
          (r = none → ∃ u : State, ∃ x : Op, exec (.message ctx express opseq) s = .next u ∧ opOf u k = some x ∧
            x.phase = .running ∧ x.linesSent = o.linesSent ∧ u.ports = s.ports ∧ u.dies = s.dies))))

/-- R339, R341, R342, R356: a request at a die is taken from the front of its lane. One for this module that its partition admits is served and
answered from the die with the code of the access, a message waiting for its record first; one that is refused is answered with the code; one for another
module goes on along its route, or is answered with E_LINK_LOST where it has none or the port is being retired. An express message for this module
is put into its operand-buffer line, at once or when the instruction that holds the line has read it, or is counted where it is not admitted; one
for another goes on, or is counted.

R343, R363, R411: an answer of a live request at its die ends it: lines read go where the COPY puts them, a write is counted, a message
is done; a code other than OK ends the operation; an answer of no live request is counted; one for another module goes on. A request that has waited
for its timeout ends with E_TIMEOUT, or with E_LINK_LOST where its port is lost, and its tag changes its generation.
Model's choices it rests on: notes 83, 92 and 124. -/
def Obligations.PacketsComplete : Prop :=
  (∀ (s : State) (die : Die) (loc : Bool) (typ : Nat) (c : Instr),
     (typ = 1 ∧ c = .readRequest die loc) ∨ (typ = 2 ∧ c = .writeRequest die loc) ∨ (typ = 3 ∧ c = .messagePacket die loc) →
     (takePkt s die 2 typ loc = none → exec c s = .next s) ∧
     (∀ (q : Pkt) (s1 : State), takePkt s die 2 typ loc = some (q, s1) →
       (loc = false → (portOf s die).refuse = true → exec c s = .next (respond s1 die q 0x12 [])) ∧
       (loc = false → (portOf s die).refuse = false → q.dmod ≠ modId s die →
         exec c s = .next ((routePkt s1 die q).getD (respond s1 die q 0x12 []))) ∧
       (loc = true ∨ ((portOf s die).refuse = false ∧ q.dmod = modId s die) →
         (refusal s1 q ≠ 0 → exec c s = .next (respond s1 die q (refusal s1 q) [])) ∧
         (∀ (e : Status) (xs : List Line), typ = 1 → refusal s1 q = 0 → readLines s1 q.part q.ddie q.addr q.lines = (e, xs) →
           exec c s = .next (respond (eccSuspect s1 q.ddie e) die q e xs)) ∧
         (∀ (e : Status) (w : State), refusal s1 q = 0 → writeLines s1 q.part q.ddie q.addr q.payload = (e, w) →
           (typ = 2 → exec c s = .next (respond (eccSuspect w q.ddie e) die q e [])) ∧
           (typ = 3 →
             let m := ((partOf s1 q.part).bind (fun p => p.cur.msgCtx)).filter (fun n => (tcOf s1 n).phase == .active)
             (m = none → exec c s = .next (respond s1 die q 0x10 [])) ∧
             (∀ n, m = some n → e ≠ 0 → exec c s = .next (respond (eccSuspect w q.ddie e) die q e [])) ∧
             (∀ n, m = some n → e = 0 → ∃ u : State, exec c s = .next u ∧ u.dies = w.dies ∧ u.ports = w.ports ∧ u.regs = w.regs ∧
               (tcOf u n).waiting = (tcOf s n).waiting ++ [⟨q.addr, q.smod, q.sdie, q.lines, q.ddie, q.cls, q.part, q.tag, q.gen⟩])))))) ∧
  (∀ (s : State) (die : Die),
     (headFlit (portOf s die) 0 = none → exec (.expressMessageArrival die) s = .next s) ∧
     (∀ x : Line, headFlit (portOf s die) 0 = some x →
       let w := popFlits s die 0 1
       let d := bitsOf x.toNat 28 4
       let lt := bitsOf x.toNat 21 7
       let line := bitsOf x.toNat 8 13
       let admitted (pt : Nat) : Prop := ∃ g q, ptOf s d lt = some (pt, g) ∧ ltOwner s d lt = some q ∧ bitsOf x.toNat 0 8 = 0x10 ∧ dieUp s d = true ∧
         q.cur.peers.contains (bitsOf x.toNat 51 8) = true ∧
         (∀ r ∈ (tileOf s d pt).fetch.rings, overlap r.2.first (r.2.slots * r.2.slotLines) line 1 = false)
       (bitsOf x.toNat 32 8 = modId s die →
         (∀ pt, admitted pt → (sluiceOf s d pt).phase = .opened →
           ∃ u : State, exec (.expressMessageArrival die) s = .next u ∧ u.regs = w.regs ∧ (tileOf u d pt).seq = (tileOf s d pt).seq ∧
             (linesHeld (tileOf s d pt).mem line 1 = false → mget 0 (tileOf u d pt).mem.obuf line = x ∧ mget false (tileOf u d pt).mem.valid line = true ∧
               (∀ i, i ≠ line → mget 0 (tileOf u d pt).mem.obuf i = mget 0 (tileOf s d pt).mem.obuf i)) ∧
             (linesHeld (tileOf s d pt).mem line 1 = true → (tileOf u d pt).mem.obuf = (tileOf s d pt).mem.obuf ∧
               (tileOf u d pt).mem.xpWait = (tileOf s d pt).mem.xpWait ++ [(line, x)])) ∧
         (∀ pt, admitted pt → (sluiceOf s d pt).phase ≠ .opened → exec (.expressMessageArrival die) s = .next w) ∧
         ((∀ pt, ¬ admitted pt) → exec (.expressMessageArrival die) s = .next (noRoute w d))) ∧
       (bitsOf x.toNat 32 8 ≠ modId s die →
         (∀ e, routeOf s die (bitsOf x.toNat 32 8) (bitsOf x.toNat 59 4) = some e →
           ∃ u : State, exec (.expressMessageArrival die) s = .next u ∧ u.tiles = s.tiles ∧ u.regs = w.regs ∧
             (∀ n, n ≠ die.val → n ≠ e → portOf u n = portOf s n)) ∧
         (routeOf s die (bitsOf x.toNat 32 8) (bitsOf x.toNat 59 4) = none → exec (.expressMessageArrival die) s = .next (noRoute w die))))) ∧
  (∀ (s : State) (die : Die) (loc : Bool) (typ : Nat) (c : Instr),
     (typ = 4 ∧ c = .readResponse die loc) ∨ (typ = 5 ∧ c = .writeAcknowledgement die loc) →
     (takePkt s die 3 typ loc = none → exec c s = .next s) ∧
     (∀ (q : Pkt) (s1 : State), takePkt s die 3 typ loc = some (q, s1) →
       let s2 := if loc then s1 else unrelay s1 die q
       (loc = false → q.dmod ≠ modId s die → exec c s = .next ((routePkt s2 die q).getD (noRoute s2 die))) ∧
       (loc = true ∨ q.dmod = modId s die →
         let live (r : TagRec) : Prop := mfind (portOf s q.ddie).tags q.tag = some r ∧ r.gen = q.gen ∧ (typ = 4 ↔ r.write = false) ∧
           mltNs s < r.issued + timeoutNs s q.ddie
         let s3 := modPort s2 q.ddie fun t => { t with tags := mdel t.tags q.tag }
         ((∀ r, ¬ live r) → exec c s = .next (bump s2 (vlR q.ddie 0x14) 8 12 1)) ∧
         (∀ r, live r → r.op = none ∨ (∃ k, r.op = some k ∧ (opOf s k = none ∨ ∃ o, opOf s k = some o ∧ (o.phase ≠ .running ∨ o.runDie ≠ q.ddie))) →
           exec c s = .next s3) ∧
         (∀ (r : TagRec) (k : Nat) (o : Op), live r → r.op = some k → opOf s k = some o → o.phase = .running → o.runDie = q.ddie →
           let gone (u : State) (x : Op) : Prop := exec c s = .next u ∧ opOf u k = some x ∧ mhas (portOf u q.ddie).tags q.tag = false
           let ends (e : BitVec 8) : Prop := ∃ u x, gone u x ∧ x.phase = .recordDue ∧ x.code = e
           (q.status ≠ 0 → BitVec.ofNat 8 q.status ≠ 0x50 → ends (BitVec.ofNat 8 q.status)) ∧
           (q.status = 0 → r.message = true → ∃ u x, gone u x ∧ x = { o with finished := true } ∧ u.dies = s.dies ∧ u.host = s.host) ∧
           (q.status = 0 → r.message = false → r.write = true → ∃ u x, gone u x ∧ x.phase = .running ∧ x.linesDone = o.linesDone + r.lines ∧
             (o.linesDone + r.lines = cpLines o → x.finished = true) ∧ u.dies = s.dies ∧ u.host = s.host) ∧
           (q.status = 0 → r.message = false → r.write = false →
             let xs := q.payload.take r.lines
             let done (x : Op) : Prop := x.linesDone = o.linesDone + xs.length ∧ (o.linesDone + xs.length = cpLines o → x.finished = true)
             (cpKind o true = 0 → ∃ u x, gone u x ∧ done x ∧ u.dies = s.dies ∧ (o.discard = true → u.host = s.host) ∧
               (o.discard = false → hostRead u (cpAddr o true + 64 * r.line) (64 * xs.length) = xs.flatMap lineBytes)) ∧
             (cpKind o true = 1 → cpDie s o true = none → ends 0x10) ∧
             (∀ d e v, cpKind o true = 1 → cpDie s o true = some d →
               writeBoth s o.part d (cpAddr o true + r.line) 0 (xs.flatMap lineBytes) (xs.flatMap lineBytes) = (e, v) →
               (e = 0 → ∃ u x, gone u x ∧ done x ∧ u.dies = v.dies ∧ u.host = s.host) ∧ (e ≠ 0 → e ≠ 0x50 → ends e)) ∧
             (2 ≤ cpKind o true →
               let y := issueReq s3 o.runDie (cpPkt s3 o true r.line xs.length xs) ⟨0, 0, 0, some k, r.line, xs.length, true, false⟩
               (y = none → exec c s = .next s) ∧ (∀ v, y = some (v, true) → exec c s = .next v) ∧
               (∀ v, y = some (v, false) → ∃ u x, exec c s = .next u ∧ opOf u k = some x ∧ x.phase = .recordDue ∧ x.code = 0x12))))))) ∧
  (∀ (s : State) (die : Die) (tag : Fin 4096),
     (mfind (portOf s die).tags tag = none → exec (.transactionTimeout die tag) s = .next s) ∧
     (∀ r : TagRec, mfind (portOf s die).tags tag = some r →
       (mltNs s < r.issued + timeoutNs s die → exec (.transactionTimeout die tag) s = .next s) ∧
       (r.issued + timeoutNs s die ≤ mltNs s →
         ∃ u : State, exec (.transactionTimeout die tag) s = .next u ∧ mhas (portOf u die).tags tag = false ∧
           mget 0 (portOf u die).gens tag = (mget 0 (portOf s die).gens tag + 1) % 16 ∧ u.host = s.host ∧ u.dies = s.dies ∧
           (∀ k o, r.op = some k → opOf s k = some o → decided o = false → ∃ x : Op, opOf u k = some x ∧ x.phase = .recordDue ∧
             x.code = (if (portOf s r.port).phase = .lost then 0x12 else 0x11)) ∧
           (∀ k o, r.op = some k → opOf s k = some o → decided o = true → opOf u k = some o))))

/-- R338, R341, R362, R209, R237: a management packet for this module is a Cascade progress message, a lock-step record, or tells of a step of a group
of this module: a piece that came badly is sent again, one that came is answered for, a verdict, an end or a piece that has returned reaches
the module that decides, and goes on round the ring till then; of another epoch nothing of the step is changed. One for another module goes
on. A SURVEY numbers its flood, which is taken up once and measured on every port that is up; a report goes into its place of the result buffer
while the operation runs and has room for it; 1 s after its dispatch the operation ends OK with the count of its reports.
Model's choices it rests on: notes 57, 84 and 158. -/
def Obligations.ManagementCompletes : Prop :=
  ∀ (s : State) (die : Die) (loc : Bool),
    (takePkt s die 4 6 loc = none → exec (.managementPacket die loc) s = .next s) ∧
    (∀ (q : Pkt) (s1 : State), takePkt s die 4 6 loc = some (q, s1) →
      (loc = false → q.dmod ≠ modId s die → exec (.managementPacket die loc) s = .next ((routePkt s1 die q).getD (noRoute s1 die))) ∧
      (loc = true ∨ q.dmod = modId s die →
        let b := q.payload.flatMap lineBytes
        (byteAt b 0 = 1 ∨ byteAt b 0 = 2 →
          ∃ u : State, exec (.managementPacket die loc) s = .next u ∧ u.ops = s.ops ∧ u.regs = s1.regs ∧ u.dies = s.dies ∧
            (∀ c, byteAt b 0 = 1 → cstepOf s (fieldLe b 1 2) (fieldLe b 3 4) = some c →
              cstepOf u (fieldLe b 1 2) (fieldLe b 3 4) = some { c with heard := mput c.heard (fieldLe b 7 2) (mltNs s) }) ∧
            (byteAt b 0 = 2 → u.pairs = s.pairs.map (fun p => if p.primary = byteAt b 1 ∧ p.module ≠ 0xFF then
              { p with fromMirror := p.fromMirror ++
                [⟨fieldLe b 2 4, fieldLe b 6 2, byteAt b 8, BitVec.ofNat 64 (fieldLe b 9 8), byteAt b 17, byteAt b 18⟩] } else p))) ∧
        (byteAt b 0 ≠ 1 → byteAt b 0 ≠ 2 →
          (∀ (g : Group) (c : CStep), groupOf s (fieldLe b 1 2) = some g → cstepOf s (fieldLe b 1 2) (fieldLe b 7 4) = some c →
            (c.epoch ≠ fieldLe b 3 4 → exec (.managementPacket die loc) s = .next s1) ∧
            (c.epoch = fieldLe b 3 4 → c.group = fieldLe b 1 2 → c.step = fieldLe b 7 4 →
              (byteAt b 0 = 3 → exec (.managementPacket die loc) s = .next (applyVerdict (sendOn s1 g (byteAt b 12) b) c
                (match byteAt b 11 with | 0 => .hold | 1 => .fixedOrder | 2 => .relaunch (fieldLe b 13 8) | _ => .ends (BitVec.ofNat 8 (fieldLe b 13 8))))) ∧
              (byteAt b 0 = 4 → ∃ u : State, exec (.managementPacket die loc) s = .next u ∧
                cstepOf u c.group c.step = some { c with nacked := fieldLe b 11 6 :: c.nacked } ∧ u.ops = s.ops ∧ u.dies = s.dies) ∧
              (byteAt b 0 = 5 → ∃ u : State, exec (.managementPacket die loc) s = .next u ∧
                cstepOf u c.group c.step = some { c with transit := mdel c.transit (fieldLe b 11 6) } ∧ u.ops = s.ops ∧ u.dies = s.dies) ∧
              (byteAt b 0 = 6 → decides g = true →
                exec (.managementPacket die loc) s = .next (cancelStep s1 c.group c.step (BitVec.ofNat 8 (byteAt b 11)))) ∧
              (byteAt b 0 = 6 → decides g = false → exec (.managementPacket die loc) s = .next (sendOn s1 g (byteAt b 12) b)) ∧
              (byteAt b 0 = 7 → decides g = true → ∃ u : State, ∃ x : CStep, exec (.managementPacket die loc) s = .next u ∧
                cstepOf u c.group c.step = some x ∧ fieldLe b 11 4 ∈ x.returned ∧ x.sat = (c.sat || decide (byteAt b 15 = 1)) ∧ x.final = c.final) ∧
              (byteAt b 0 = 7 → decides g = false → exec (.managementPacket die loc) s = .next (sendOn s1 g (byteAt b 16) b)))) ∧
          (groupOf s (fieldLe b 1 2) = none ∨ cstepOf s (fieldLe b 1 2) (fieldLe b 7 4) = none →
            exec (.managementPacket die loc) s = .next s1)))) ∧
    (takePkt s die 4 7 loc = none → exec (.surveyPacket die loc) s = .next s) ∧
    (∀ (q : Pkt) (s1 : State), takePkt s die 4 7 loc = some (q, s1) →
      let b := q.payload.flatMap lineBytes
      let num := fieldLe b 4 4
      (byteAt b 0 = 0 → mhas s.hub.surveys num = true → exec (.surveyPacket die loc) s = .next s1) ∧
      (byteAt b 0 = 0 → mhas s.hub.surveys num = false → ∃ u : State, exec (.surveyPacket die loc) s = .next u ∧
        mfind u.hub.surveys num = some q.smod ∧
        (∀ d ∈ allDies, (portOf s1 d).phase = .up → (portOf s1 d).pver = 1 → ∃ r : PlumbRun, (portOf u d).plumb = some r ∧ num ∈ r.surveys) ∧
        (q.hops < 8 → ∀ d ∈ allDies, d ≠ die.val → (portOf s1 d).phase = .up → (portOf s1 d).pver = 1 →
          (mget [] (portOf s1 d).txq (txKey 4 0)).length < (mget [] (portOf u d).txq (txKey 4 0)).length)) ∧
      (byteAt b 0 ≠ 0 → loc = false → q.dmod ≠ modId s die → exec (.surveyPacket die loc) s = .next ((routePkt s1 die q).getD (noRoute s1 die))) ∧
      (byteAt b 0 ≠ 0 → loc = true ∨ q.dmod = modId s die →
        (∀ (k : Nat) (o : Op), mfind s.hub.surveyOps num = some k → opOf s k = some o → o.phase = .running → 128 * (o.count + 1) ≤ dF o 40 4 →
          ∃ u : State, exec (.surveyPacket die loc) s = .next u ∧ opOf u k = some { o with count := o.count + 1 } ∧
            (o.discard = false → ∀ i, i < 128 → i < b.length - 8 → mget 0 u.host (dF o 32 8 + 128 * o.count + i) = b.getD (8 + i) 0) ∧
            (o.discard = true → u.host = s.host) ∧ u.regs = s1.regs ∧ u.dies = s.dies) ∧
        ((∀ (k : Nat) (o : Op), mfind s.hub.surveyOps num = some k → opOf s k = some o → o.phase ≠ .running ∨ dF o 40 4 < 128 * (o.count + 1)) →
          exec (.surveyPacket die loc) s = .next s1))) ∧
    (∀ (ctx : Fin 4096) (express : Bool) (opseq : W32) (k : Nat) (o : Op), Names s ctx express opseq k o → opcOf o = 9 →
      let num := modId s o.home * 256 + s.hub.surveyNext % 256
      (mayDispatch s o = true →
        ∃ u : State, ∃ x : Op, exec (.survey ctx express opseq) s = .next u ∧ opOf u k = some x ∧ x.phase = .running ∧
          x.dispatchedAt = mltNs s ∧ u.hub.surveyNext = (s.hub.surveyNext + 1) % 256 ∧ mfind u.hub.surveyOps num = some k ∧
          mfind u.hub.surveys num = some (modId s o.home) ∧
          (∀ d ∈ allDies, (portOf s d).phase = .up → (portOf s d).pver = 1 → ∃ r : PlumbRun, (portOf u d).plumb = some r ∧ num ∈ r.surveys)) ∧
      (mayDispatch s o = false → o.phase = .running → o.dispatchedAt + 1000000000 ≤ mltNs s →
        ∃ u : State, ∃ x : Op, exec (.survey ctx express opseq) s = .next u ∧ opOf u k = some x ∧ x.phase = .recordDue ∧ x.code = 0 ∧
          x.info.xaddr = BitVec.ofNat 32 o.count ∧ u.host = s.host) ∧
      (mayDispatch s o = false → o.phase ≠ .running ∨ mltNs s < o.dispatchedAt + 1000000000 →
        exec (.survey ctx express opseq) s = .next s))

/-! ## The Cascade -/

/-- R196 to R203, R207, R211: a CASCADE sets its step up, joins one that stands, waits for its group's epoch and for room on its dies, or ends with its
fault; a station whose turn has come sends its piece to the next position, keeping it, and the pieces after a late one follow its lateness; a station
takes a piece that passed its check, adding its contributions to a running value and storing a final one, learns from its tags of a saturation, and
asks for one that did not pass twice more before the step ends with a suspect event; contributions of unequal length end it with E_VERSION; a piece asked
for is sent again. A chain of one station holds its final pieces at once.

R200, R202, R203, R212, R221, R226: with every final piece returned and no earlier step open, the step is held where a suspect event of a
replayable operation, here or at a station on the way, names it, ends with E_CHECKSUM after a failed checksum of another, runs again in fixed order
where a fast exact one has saturated, and is else decided; a marker writes the result on its station's die, and the operation whose stations all have
it completes; a held step runs again under a new LAUNCH, and after its third run ends with E_CHECKSUM.
Model's choices it rests on: notes 57, 58, 59, 64, 149, 151, 152, 154 and 158. -/
def Obligations.CascadeStepsComplete : Prop :=
  (∀ (s : State) (ctx : Fin 4096) (express : Bool) (opseq : W32) (k : Nat) (o : Op), Names s ctx express opseq k o → opcOf o = 2 →
     mayDispatch s o = true →
     (∀ e, cascadeFault s o = some e →
       ∃ (u : State) (x : Op), exec (.cascade ctx express opseq) s = .next u ∧ opOf u k = some x ∧ x.phase = .recordDue ∧ x.code = e ∧ u.csteps = s.csteps) ∧
     (∀ g : Group, cascadeFault s o = none → groupOf s (cscGroup o) = some g →
       (g.epoch < cscEpoch o ∨ (cstepOf s (cscGroup o) (cscStep o) = none ∧ ∃ d ∈ groupDies g, 64 ≤ stepsOn s d) → exec (.cascade ctx express opseq) s = .next s) ∧
       (g.epoch = cscEpoch o → ((∀ d ∈ groupDies g, stepsOn s d < 64) ∨ cstepOf s (cscGroup o) (cscStep o) ≠ none) →
         ∃ u : State, ∃ x : Op, ∃ y : CStep, exec (.cascade ctx express opseq) s = .next u ∧ opOf u k = some x ∧ x.phase = .running ∧
           cstepOf u (cscGroup o) (cscStep o) = some y ∧ u.ports = s.ports ∧
           (∀ c, cstepOf s (cscGroup o) (cscStep o) = some c → y = c) ∧
           (cstepOf s (cscGroup o) (cscStep o) = none → y.phase = .waiting ∧ y.launch = opLaunch o ∧ y.pieces = cscPieces o ∧ y.dst = cscDst o ∧
             y.epoch = g.epoch ∧ y.exact = decide (cscPath o = 0) ∧ y.fast = cscFast o ∧ y.autorpl = cscAuto o)))) ∧
  (∀ (s : State) (group : Fin 65536) (step : W32) (pos : Fin 4096) (piece : Fin 16777216) (final : Bool) (g : Group) (c : CStep),
     groupOf s group = some g → cstepOf s group step.toNat = some c → c.group = group.val → c.step = step.toNat → keysRise s.ops = true →
     let n := g.stations.length
     let key := pieceKey pos piece final
     let due := dueAt s g c piece pos final + mget 0 c.late (lateKey pos final)
     let open' : Prop := c.phase = .waiting ∨ c.phase = .running
     let ended (u : State) (e : BitVec 8) : Prop := cstepOf u group step.toNat = none ∧
       ∀ x ∈ stepOps s group step.toNat, x.2.phase ≠ .committed → ∃ y : Op, opOf u x.1 = some y ∧ y.phase = .recordDue ∧ y.code = e
     (∀ (st : Station), open' → stationAt g pos = some st → isLocal g st = true → stationReady s g c st = true → piece.val < c.pieces →
       key ∉ c.sent → due ≤ mltPs s → c.epoch = g.epoch → (c.attempts = 0 ∨ earlierOpen s c = false) →
       (∀ (b : Station) (v : PieceData), 2 ≤ n → stationAt g (nextPos c n piece pos) = some b →
         ((final = false ∧ relPos c n piece pos = 0 ∧ landed s g st = true ∧ evenAt s g c st piece [] = true ∧ v = (addStation s g c st piece []).1) ∨
           (final = false ∧ 0 < relPos c n piece pos ∧ relPos c n piece pos < n - 1 ∧ mfind c.running (pos.val * 2 ^ 24 + piece.val) = some v) ∨
           (final = true ∧ mfind c.final (pos.val * 2 ^ 24 + piece.val) = some v)) →
         ∃ u : State, ∃ x : CStep, exec (.pieceForward group step pos piece final) s = .next u ∧ cstepOf u group step.toNat = some x ∧
           x.phase = .running ∧ x.sent = key :: c.sent ∧
           mget 0 x.late (lateKey pos final) = mget 0 c.late (lateKey pos final) + (mltPs s - due) ∧
           (∃ q : Piece, mfind x.transit key = some q ∧ q.data = v ∧ q.fromPos = pos.val ∧ q.toPos = nextPos c n piece pos ∧ q.epoch = g.epoch ∧
             q.final = final ∧ q.num = piece.val ∧ q.hold = (c.holdAsked || (asks s g c st).1) ∧ q.chk = (c.chkAsked || (asks s g c st).2)) ∧
           x.final = c.final ∧ (isLocal g b = true → u.ports = s.ports) ∧ u.tiles = s.tiles) ∧
       (final = false → relPos c n piece pos = 0 → landed s g st = true → evenAt s g c st piece [] = false →
         (n = 1 ∨ relPos c n piece pos ≠ n - 1) → ∃ u : State, exec (.pieceForward group step pos piece final) s = .next u ∧ ended u 0x22) ∧
       (n = 1 → final = false → landed s g st = true → evenAt s g c st piece [] = true →
         ∃ u : State, ∃ x : CStep, exec (.pieceForward group step pos piece final) s = .next u ∧ cstepOf u group step.toNat = some x ∧
           mfind x.final piece = some (addStation s g c st piece []).1 ∧ piece.val ∈ x.returned ∧ u.tiles = s.tiles ∧ u.ports = s.ports)) ∧
     (∀ (q : Piece) (st : Station), open' → retryHeld s group = s → mfind c.transit key = some q → key ∉ c.nacked → q.group = group.val →
       q.step = step.toNat → q.epoch = g.epoch → q.marker = false → q.fromPos = pos.val → q.num = piece.val → q.final = final →
       stationAt g q.toPos = some st → stationReady s g c st = true →
       (final = true ∨ (landed s g st = true ∧ evenAt s g c st piece q.data = true) →
         ∃ u : State, ∃ x : CStep, exec (.pieceReceive (.chain group step pos piece final true)) s = .next u ∧ cstepOf u group step.toNat = some x ∧
           x.phase = .running ∧ mfind x.transit key = none ∧ mget 0 x.heard q.toPos = mltNs s ∧ x.holdAsked = (c.holdAsked || q.hold) ∧
           x.chkAsked = (c.chkAsked || q.chk) ∧ u.tiles = s.tiles ∧
           (let slot := q.toPos * 2 ^ 24 + piece.val
            let sum := (addStation s g c st piece q.data).1
            let last := relPos c n piece q.toPos = n - 1
            let tagged := (c.exact && q.data.any (fun y => y.2.2)) = true
            (final = true → last → x.final = c.final ∧ (decides g = true → piece.val ∈ x.returned ∧ (tagged → x.sat = true))) ∧
            (final = true → ¬ last → mfind x.final slot = some q.data ∧ (tagged → x.sat = true)) ∧
            (final = false → last → mfind x.final slot = some sum) ∧
            (final = false → ¬ last → mfind x.running slot = some sum ∧ x.final = c.final))) ∧
       (final = false → landed s g st = true → evenAt s g c st piece q.data = false →
         ∃ u : State, exec (.pieceReceive (.chain group step pos piece final true)) s = .next u ∧ ended u 0x22) ∧
       (mget 0 c.crcFails key < 2 →
         ∃ u : State, ∃ x : CStep, exec (.pieceReceive (.chain group step pos piece final false)) s = .next u ∧ cstepOf u group step.toNat = some x ∧
           key ∈ x.nacked ∧ mget 0 x.crcFails key = mget 0 c.crcFails key + 1 ∧ mfind x.transit key = some q ∧ x.final = c.final) ∧
       (2 ≤ mget 0 c.crcFails key →
         ∃ u : State, exec (.pieceReceive (.chain group step pos piece final false)) s = .next u ∧ ended u 0x50 ∧
           flag u (suspectReg st.die) 2 = true)) ∧
     (∀ q : Piece, mfind c.transit key = some q → key ∈ c.nacked → q.fromPos = pos.val → q.num = piece.val → q.final = final →
       ∃ u : State, ∃ x : CStep, exec (.pieceResend group step pos piece final) s = .next u ∧ cstepOf u group step.toNat = some x ∧
         key ∉ x.nacked ∧ mfind x.transit key = some q ∧ x.final = c.final ∧ u.tiles = s.tiles) ∧
     (decides g = true → c.phase = .running → earlierOpen s c = false → (∀ k, k < c.pieces → k ∈ c.returned) →
       (stepHeld s c ≠ [] ∨ c.holdAsked = true →
         ∃ u : State, exec (.cascadeCommit group step) s = .next u ∧ cstepOf u group step.toNat = some { c with phase := .held } ∧
           (∀ k ∈ stepHeld s c, ∃ x : Op, opOf u k = some x ∧ x.phase = .held) ∧ u.dies = s.dies ∧ u.tiles = s.tiles) ∧
       (stepHeld s c = [] → c.holdAsked = false →
         ((∃ e ∈ stepOps s group step.toNat, e.2.chkFail = true) ∨ c.chkAsked = true →
           ∃ u : State, exec (.cascadeCommit group step) s = .next u ∧ ended u 0x31 ∧ u.dies = s.dies) ∧
         ((∀ e ∈ stepOps s group step.toNat, e.2.chkFail = false) → c.chkAsked = false →
           ((c.fast && c.exact && c.sat) = true →
             ∃ u : State, exec (.cascadeCommit group step) s = .next u ∧
               cstepOf u group step.toNat = some { clearAttempt c with fast := false, phase := .waiting, since := mltNs s } ∧
               (∀ d ∈ groupDies g, flag u (cscB d) 29 = true) ∧ u.ops = s.ops ∧ u.tiles = s.tiles) ∧
           ((c.fast && c.exact && c.sat) = false →
             ∃ u : State, exec (.cascadeCommit group step) s = .next u ∧ cstepOf u group step.toNat = some { c with phase := .decided, markers := [] } ∧
               groupOf u group = some { g with lastStep := some (max step.toNat (g.lastStep.getD 0)) } ∧
               (∀ e ∈ stepOps s group step.toNat, opOf u e.1 = some { e.2 with phase := .committed, satSeen := e.2.satSeen || c.sat }) ∧
               u.dies = s.dies ∧ u.tiles = s.tiles)))) ∧
     (∀ (st : Station) (epoch : W32), epoch.toNat = g.epoch → stationAt g pos = some st → isLocal g st = true → markerDue g c pos = true →
       pos.val ∉ c.markers →
       let w := writeResult s g c pos st
       ∃ u : State, exec (.commitMarker group epoch step pos) s = .next u ∧ u.dies = w.2.dies ∧ u.host = s.host ∧
         ((∀ e ∈ localStations g, e.1 ∈ pos.val :: c.markers ∨ e.1 ∈ g.lost) → cstepOf u group step.toNat = none) ∧
         ((∃ e ∈ localStations g, e.1 ∉ pos.val :: c.markers ∧ e.1 ∉ g.lost) → ∃ x : CStep, cstepOf u group step.toNat = some x ∧
           x.phase = .decided ∧ x.markers = pos.val :: c.markers ∧ x.final = c.final) ∧
         (∀ e ∈ stepOps s group step.toNat,
           (∀ q ∈ localStations g, q.1 ∉ g.lost → partOn s g q.2.die = some e.2.part → q.1 ∈ pos.val :: c.markers) →
             ∃ x : Op, opOf u e.1 = some x ∧ x.phase = .recordDue ∧
               (w.1 ≠ 0 → partOn s g st.die = some e.2.part → x.code = w.1) ∧
               (w.1 = 0 ∨ partOn s g st.die ≠ some e.2.part → x.code = (if e.2.code ≠ 0 then e.2.code else stepCode c (!e.2.runs.isEmpty))))) ∧
     (∀ (ctx : Fin 4096) (express : Bool) (opseq : W32) (launch : W64) (k : Nat) (o : Op), Names s ctx express opseq k o → opcOf o = 2 →
       o.phase = .held → cscGroup o = group.val → cscStep o = step.toNat → c.phase = .held →
       (o.runs.length < 2 →
         ∃ u : State, exec (.replayDispatch ctx express opseq launch) s = .next u ∧
           cstepOf u group step.toNat = some { clearAttempt c with phase := .waiting, launch := launch.toNat, since := mltNs s, replayed := true } ∧
           (∃ x : Op, opOf u k = some x ∧ x.phase = .running ∧ x.runs.length = o.runs.length + 1) ∧ u.dies = s.dies ∧ u.tiles = s.tiles) ∧
       (2 ≤ o.runs.length → ∃ u : State, exec (.replayDispatch ctx express opseq launch) s = .next u ∧ ended u 0x31 ∧
         fld u (hltB + 0x2304) 0 32 = min (fld s (hltB + 0x2304) 0 32 + 1) (2 ^ 32 - 1)))) ∧
  (∀ (s v : State) (d : Die) (f : Line) (r : List Line), mget [] (portOf s d).rxq 1 = f :: r → wireLen (lineBytes f) ≤ (f :: r).length →
     let w := parseWire (((f :: r).take (wireLen (lineBytes f))).flatMap lineBytes)
     arrive s w.1 w.2 = some v →
       exec (.pieceReceive (.port d)) s = .next ((s.groups.map (·.1)).foldl retryHeld (popFlits v d 1 (wireLen (lineBytes f)))))

/-- R206 to R210: what is held for a later epoch is discarded after 3 s; every running station of this module tells the next one that it lives; an
upstream station silent for the transaction timeout is lost, and so are stations that drop out: a step fails its epoch and waits for the new list,
keeping its final pieces where they are all stored here and another module takes the decision, or completes with E_MEMBERSHIP. A new list of R206 for
which the dies have a slot, or one made of the survivors, takes effect with module event 5: a failed step is set up again under it, or ends with
E_MEMBERSHIP after its third attempt or without AUTORPL, with E_VERSION where the map breaks R194; a step that was decided, or is known to be committed
and is stored here, completes.
Model's choices it rests on: notes 45, 59, 65, 150 and 156. -/
def Obligations.MembershipCompletes : Prop :=
  ∀ (s : State) (group : Fin 65536) (step : W32) (g : Group), groupOf s group = some g →
    (∃ u : State, exec (.epochHoldExpiry group) s = .next u ∧
      groupOf u group = some { g with held := g.held.filter (fun e => decide (mltNs s < e.1 + 3000000000)) } ∧ u.csteps = s.csteps) ∧
    (∀ c : CStep, cstepOf s group step.toNat = some c →
      (c.phase ≠ .running → exec (.cascadeProgressMessage group step) s = .next s) ∧
      (c.phase = .running →
        ∃ (u : State) (x : CStep), exec (.cascadeProgressMessage group step) s = .next u ∧ u.ops = s.ops ∧ u.dies = s.dies ∧
          cstepOf u group step.toNat = some x ∧ x.phase = .running ∧ x.launch = c.launch ∧ x.sent = c.sent ∧
          (∀ e ∈ localStations g, stationReady s g c e.2 = true →
            ∀ b, stationAt g ((e.1 + 1) % g.stations.length) = some b →
              (isLocal g b = true → mget 0 x.heard ((e.1 + 1) % g.stations.length) = mltNs s) ∧
              (isLocal g b = false → e.2.port ≠ 15 → (mget [] (portOf s e.2.port).txq (txKey 4 0)).length < (mget [] (portOf u e.2.port).txq (txKey 4 0)).length))) ∧
      (∀ (pos : Fin 4096) (st : Station), c.phase = .running → stationAt g pos = some st → isLocal g st = true → g.stations.length ≤ 4096 →
        (max (startOf c) (mget 0 c.heard pos) + timeoutNs s st.die ≤ mltNs s →
          exec (.upstreamLost group step pos) s =
            exec (.membershipChange group [Fin.ofNat 4096 ((pos.val + g.stations.length - 1) % g.stations.length)]) s) ∧
        (mltNs s < max (startOf c) (mget 0 c.heard pos) + timeoutNs s st.die → exec (.upstreamLost group step pos) s = .next s))) ∧
    (∀ (lost : List (Fin 4096)), keysRise s.csteps = true → keysRise s.ops = true →
      (∀ e ∈ s.csteps, e.1 = stepKey e.2.group e.2.step ∧ e.2.step < 2 ^ 32) →
      ∃ u : State, exec (.membershipChange group lost) s = .next u ∧
        groupOf u group = some { g with lost := (g.lost ++ lost.map (·.val)).eraseDups, changed := true } ∧
        (∀ c : CStep, cstepOf s group step.toNat = some c → c.group = group.val → c.phase = .waiting ∨ c.phase = .running ∨ c.phase = .held →
          (∀ d ∈ groupDies g, flag u (cscB d) 30 = true) ∧
          (decides g = false → storedHere g c = true → cstepOf u group step.toNat = some { c with phase := .failed, attempts := c.attempts + 1 }) ∧
          (decides g = true ∨ storedHere g c = false → c.autorpl = true → c.attempts < 2 →
            cstepOf u group step.toNat = some { clearAttempt c with phase := .failed, attempts := c.attempts + 1 } ∧
            (∀ e ∈ stepOps s group step.toNat, e.2.phase ≠ .committed → ∃ x : Op, opOf u e.1 = some x ∧ x.phase = .running)) ∧
          (decides g = true ∨ storedHere g c = false → c.autorpl = false ∨ 2 ≤ c.attempts → cstepOf u group step.toNat = none ∧
            (∀ e ∈ stepOps s group step.toNat, e.2.phase ≠ .committed → ∃ x : Op, opOf u e.1 = some x ∧ x.phase = .recordDue ∧ x.code = 0x13)))) ∧
    (∀ (list : List Byte) (map : List (Fin 128 × Fin 512)) (rank : Fin 256) (parts : List (Fin 64)) (known : List W32),
      let cmd : Instr := .membershipRebuild group list map rank parts known
      let cs : List Contribution := map.map (fun e => ⟨e.1, e.2⟩)
      let listed : Group :=
        ⟨fieldLe list 4 4, BitVec.ofNat 32 (fieldLe list 8 4), fieldLe list 12 4, rank, listStations list, cs, parts.map (·.val), [], false, g.held, g.lastStep⟩
      let out := if mltConflict s g.myRank (survivors g) then
          g.lost ++ (upTo g.stations.length).filter (fun i => match g.stations[i]? with | some st => st.rank == g.myRank | none => false) else g.lost
      let made : Group :=
        { g with stations := survivors { g with lost := out }, epoch := g.epoch + 1, map := (if cs.length = g.contributions then cs else g.map), lost := [], changed := false }
      let accepted : Prop := listOk list group (some g) = true ∧ slotsFree s group listed = true ∧ mltConflict s rank listed.stations = false
      let ended (e : BitVec 8) (c : CStep) : Prop := ∃ u : State, exec cmd s = .next u ∧ cstepOf u group c.step = none ∧
        ∀ x ∈ stepOps s group c.step, x.2.phase ≠ .committed → ∃ y : Op, opOf u x.1 = some y ∧ y.phase = .recordDue ∧ y.code = e
      let installs (w : Group) : Prop := (∀ e ∈ g.held, w.epoch < e.2.epoch) →
        (s.csteps = [] → ∃ u : State, exec cmd s = .next u ∧ groupOf u group = some w ∧ flag u hltB 5 = true) ∧
        (∀ c : CStep, s.csteps = [(stepKey group c.step, c)] → c.group = group.val → c.step < 2 ^ 32 → keysRise s.ops = true →
          let sure : Prop := c.phase = .decided ∨ ((∃ k ∈ known, k.toNat = c.step) ∧ storedHere g c = true)
          (sure → ∃ u : State, exec cmd s = .next u ∧ cstepOf u group c.step = none ∧ flag u hltB 5 = true ∧
            ∀ x ∈ stepOps s group c.step, ∃ y : Op, opOf u x.1 = some y ∧ y.phase = .recordDue) ∧
          (¬ sure → c.phase = .failed →
            (c.autorpl = false ∨ 2 < c.attempts → ended 0x13 c) ∧
            (c.autorpl = true → c.attempts ≤ 2 → mapOk w = false → ended 0x22 c) ∧
            (c.autorpl = true → c.attempts ≤ 2 → mapOk w = true →
              ∃ u : State, exec cmd s = .next u ∧ groupOf u group = some w ∧ flag u hltB 5 = true ∧
                cstepOf u group c.step = some { clearAttempt c with phase := .waiting, epoch := w.epoch, since := mltNs s })))
      (list ≠ [] → accepted → g.changed = true → installs listed) ∧
      (list ≠ [] → accepted → g.changed = false → ∃ t : State, exec (.membershipChange group []) s = .next t ∧ exec cmd s = exec cmd t) ∧
      (list ≠ [] → ¬ accepted → exec cmd s = .next s) ∧
      (list = [] → g.changed = true → installs made) ∧
      (list = [] → g.changed = false → exec cmd s = .next s))

/-! ## The Mortar -/

/-- R245 to R247, R278 to R282: a ready REGION_LOAD enters its die's queue, or ends with E_TARGET_OFF where its region is not granted and with E_VERSION where
its LEN disagrees with PLEN; at its head it is accepted, a released region isolated and its Sluice raised, its region emptied; once the drain is over
and every credit is back, an image that passes is written, its block memories preloaded and the region bound, then released with its ports answering and the load
OK; one that is refused, or not verified by the deadline, leaves the region empty and ends the load with its code.
Model's choices it rests on: notes 28 and 94. -/
def Obligations.RegionLoadsComplete : Prop :=
  ∀ (s : State) (die : Die) (l : RegionLoad) (o : Op),
    let loads (u : State) : List RegionLoad := (dieOf u die).mortar.loads
    let x := regionOf s die l.region
    let ends (u : State) (c : BitVec 8) : Prop := regionOf u die l.region = {} ∧ (∀ y ∈ loads u, y.op ≠ l.op) ∧
      ∃ y : Op, opOf u l.op = some y ∧ y.phase = .recordDue ∧ y.code = c
    (∀ (ctx : Fin 4096) (express : Bool) (opseq : W32) (k : Nat) (p : Partition), Names s ctx express opseq k o → opcOf o = 7 →
      mayDispatch s o = true → partOf s o.part = some p →
      let agrees : Prop := dF o 40 4 = 656 + leNat (hostRead s (dF o 32 8 + 24) 4)
      let fails (c : BitVec 8) : Prop := ∃ (u : State) (y : Op), exec (.regionLoad ctx express opseq) s = .next u ∧ opOf u k = some y ∧
        y.phase = .recordDue ∧ y.code = c ∧ u.dies = s.dies ∧ u.regs = s.regs
      (spanDie p (dF o 47 1 % 16) = some die.val → p.cur.regions.testBit (rlRegion o) = true → agrees →
        ∃ u : State, ∃ y : Op, exec (.regionLoad ctx express opseq) s = .next u ∧ loads u = loads s ++ [{ op := k, region := rlRegion o }] ∧
          opOf u k = some y ∧ y.phase = .running ∧ (∀ r, regionOf u die r = regionOf s die r) ∧ u.regs = s.regs) ∧
      (spanDie p (dF o 47 1 % 16) = none ∨ p.cur.regions.testBit (rlRegion o) = false → fails 0x10) ∧
      (spanDie p (dF o 47 1 % 16) ≠ none → p.cur.regions.testBit (rlRegion o) = true → ¬ agrees → fails 0x22)) ∧
    (∀ rest : List RegionLoad, loads s = l :: rest →
      (opOf s l.op = none → ∃ u : State, exec (.regionLoadAcceptance die) s = .next u ∧ (∀ y ∈ loads u, y.op ≠ l.op) ∧ u.regs = s.regs) ∧
      (opOf s l.op = some o →
        (l.accepted = false →
          let t := if x.phase = .released then isolateRegion s die l.region .released else s
          ∃ u : State, exec (.regionLoadAcceptance die) s = .next u ∧
            loads u = { l with accepted := true, deadline := mltNs s + dF o 44 3 * 1000, det := strict s o.part } :: rest ∧
            (regionOf u die l.region).phase = (if creditsBack t die l.region = true then .loading else x.phase) ∧
            (regionOf u die l.region).image = [] ∧ (regionOf u die l.region).bram = [] ∧ (regionOf u die l.region).flipped = [] ∧
            (regionOf u die l.region).boundTo = none ∧ (regionOf u die l.region).scrubPaused = true ∧
            (x.phase = .released → (regionOf u die l.region).isolated = true ∧ (regionOf u die l.region).setReset = true ∧
              (regionOf u die l.region).clocksOn = false ∧ (regionOf u die l.region).writePorts = false ∧
              (raisedAlready (dieOf s die).runnel [regionPort l.region] = false → (sluiceOf u die (regionPort l.region)).phase ≠ .opened)) ∧
            (∀ r, r ≠ l.region → regionOf u die r = regionOf s die r) ∧ u.ops = s.ops) ∧
        (l.accepted = true → exec (.regionLoadAcceptance die) s = .next s) ∧
        (l.accepted = true → l.verified = false → creditsBack s die l.region = true → mltNs s ≤ l.deadline →
          ∃ u : State, exec (.regionImageVerified die) s = .next u ∧
            (regionFault s die l (loadImage s o) = none →
              let p := (plainOf s.ks (loadImage s o)).getD []
              loads u = { l with verified := true } :: rest ∧
              (regionOf u die l.region).image = loadImage s o ∧ (regionOf u die l.region).payload = p ∧ (regionOf u die l.region).boundTo = some o.part ∧
              (regionOf u die l.region).bramCfg = memoryConfigs p regionMemories ∧ (regionOf u die l.region).bram = preloadOf p regionMemories ∧
              (regionOf u die l.region).nondet = imgNondet (loadImage s o) ∧
              (regionOf u die l.region).phase = .loading ∧ (regionOf u die l.region).isolated = x.isolated ∧ u.ops = s.ops) ∧
            (∀ c, regionFault s die l (loadImage s o) = some c → decided o = false → ends u c)) ∧
        (l.accepted = false ∨ l.verified = true ∨ creditsBack s die l.region = false ∨ l.deadline < mltNs s →
          exec (.regionImageVerified die) s = .next s) ∧
        (l.verified = true →
          ∃ u : State, exec (.regionRelease die) s = .next u ∧ (regionOf u die l.region).phase = .released ∧
            (regionOf u die l.region).clocksOn = true ∧ (regionOf u die l.region).setReset = false ∧ (regionOf u die l.region).writePorts = true ∧
            (regionOf u die l.region).isolated = false ∧ (regionOf u die l.region).scrubPaused = false ∧ (regionOf u die l.region).bram = x.bram ∧
            (sluiceOf u die (regionPort l.region)).phase = .opened ∧ (∀ y ∈ loads u, y.op ≠ l.op) ∧
            opOf u l.op = some { o with phase := .recordDue, code := 0, seedE := 0 }) ∧
        (l.verified = false → exec (.regionRelease die) s = .next s) ∧
        (l.accepted = true → l.verified = false → l.deadline < mltNs s → decided o = false →
          ∃ u : State, exec (.regionDeadlineExpiry die) s = .next u ∧ ends u 0x40 ∧ u.regs = s.regs) ∧
        (l.accepted = false ∨ l.verified = true ∨ mltNs s ≤ l.deadline → exec (.regionDeadlineExpiry die) s = .next s)))

/-- R251 to R254, R259: a port of a block memory of a region that runs stores the word it writes, every other word staying, of two writes to one word A's;
a port that reads shows the word as it was before the cycle, with the errors that its code does not correct, one cycle later behind an output register, and an
unstated value where the other port writes it and the rule states none; a corrected error is counted. A word outside a port's shape is not accessed. The
scrub counts a corrected frame of a region, and isolates a region in error, or all of them, their loads ended with E_TARGET_OFF, where the shell is; a region
that is loading is not scrubbed. A ring oscillator's window latches its count.
Model's choices it rests on: notes 63 and 94. -/
def Obligations.MortarEventsComplete : Prop :=
  ∀ (s : State) (die : Die) (region : Fin 8),
    let x := regionOf s die region
    (∀ (mem : Fin 120) (wa wb : Fin 32768) (a b : Option BramAccess) (v w flips : BitVec 72),
      let cmd (a b : Option BramAccess) : Instr := .blockMemoryAccess die region mem a b flips
      (mfind x.bramCfg mem = none ∨ regionLive s die region = false → exec (cmd a b) s = .next s) ∧
      (∀ c : BramCfg, mfind x.bramCfg mem = some c →
        (∀ y, c.a.depth ≤ wa.val → exec (cmd (some ⟨wa, y⟩) b) s = exec (cmd none b) s) ∧
        (∀ y, c.b.depth ≤ wb.val → exec (cmd a (some ⟨wb, y⟩)) s = exec (cmd a none) s) ∧
        (regionLive s die region = true → wa.val < c.a.depth → wb.val < c.b.depth →
          let at_ (u : State) : SMap (BitVec 72) := (regionOf u die region).bram
          let out (u : State) (k : Nat) (q : BitVec 72 × Bool) : Prop :=
            (c.outReg = false → mfind (regionOf u die region).bramOut k = some q) ∧
            (c.outReg = true → mfind (regionOf u die region).bramLatch k = some q ∧
              ∀ y, mfind x.bramLatch k = some y → mfind (regionOf u die region).bramOut k = some y)
          let holds (u : State) (sh : BramShape) (n : Nat) (y : BitVec 72) : Prop :=
            (c.protected_ = false → wordRead (at_ u) mem sh n = lowBits sh.width y) ∧
            (c.protected_ = true → (wordRead (at_ u) mem sh n).setWidth 64 = y.setWidth 64)
          let same := sameWord c.a wa c.b wb
          let free := (Config.freeValue s.fresh).setWidth 72
          let err := if c.protected_ then ones72 flips else 0
          let old := wordRead x.bram mem c.b wb
          (∃ u : State, exec (cmd (some ⟨wa, some v⟩) (some ⟨wb, none⟩)) s = .next u ∧ holds u c.a wa v ∧
            (∀ k, k ≠ (wordAt mem c.a wa).1 → mget 0 (at_ u) k = mget 0 x.bram k) ∧
            (c.protected_ = false → ∀ (sh : BramShape) (n : Nat), n < sh.depth → sameWord c.a wa sh n = false → wordRead (at_ u) mem sh n = wordRead x.bram mem sh n) ∧
            out u (mem.val * 2 + 1) (if c.protected_ && err == 1 then old else old ^^^ lowBits c.b.width flips, c.protected_ && err == 2) ∧
            fld u (morB die + 0x200 + 4 * region.val) 0 16 =
              (if err = 1 then min (fld s (morB die + 0x200 + 4 * region.val) 0 16 + 1) 65535
               else fld s (morB die + 0x200 + 4 * region.val) 0 16) ∧ u.ops = s.ops ∧ u.tiles = s.tiles) ∧
          (c.a ≠ .x72 → c.b ≠ .x72 →
            (∃ u : State, exec (cmd (some ⟨wa, none⟩) (some ⟨wb, some w⟩)) s = .next u ∧ holds u c.b wb w ∧
              (∀ k, k ≠ (wordAt mem c.b wb).1 → mget 0 (at_ u) k = mget 0 x.bram k) ∧
              out u (mem.val * 2) (if same then lowBits c.a.width free else wordRead x.bram mem c.a wa, false) ∧
              out u (mem.val * 2 + 1) (lowBits c.b.width w, false) ∧ u.fresh = (if same then s.fresh + 1 else s.fresh) ∧ u.ops = s.ops) ∧
            (∃ u : State, exec (cmd (some ⟨wa, some v⟩) (some ⟨wb, some w⟩)) s = .next u ∧ holds u c.a wa v ∧
              (same = false → holds u c.b wb w) ∧ out u (mem.val * 2) (lowBits c.a.width v, false) ∧
              out u (mem.val * 2 + 1) (if same then lowBits c.b.width free else lowBits c.b.width w, false) ∧ u.ops = s.ops))))) ∧
    (∀ frame : W32,
      (x.scrubPaused = false → ∃ u : State, exec (.configScrub die (some region) frame .corrected) s = .next u ∧ u.dies = s.dies ∧
        fld u (morB die + 0x200 + 4 * region.val) 16 16 = min (fld s (morB die + 0x200 + 4 * region.val) 16 16 + 1) 65535) ∧
      (x.scrubPaused = false → ∃ u : State, exec (.configScrub die (some region) frame .uncorrectable) s = .next u ∧
        (regionOf u die region).phase = .fault ∧ (regionOf u die region).isolated = true ∧ (regionOf u die region).clocksOn = false ∧
        (regionOf u die region).setReset = true ∧ (regionOf u die region).flipped = [] ∧
        (raisedAlready (dieOf s die).runnel [regionPort region] = false → (sluiceOf u die (regionPort region)).phase ≠ .opened) ∧ u.ops = s.ops) ∧
      (x.scrubPaused = true → ∀ e, exec (.configScrub die (some region) frame e) s = .next s) ∧
      (∀ r, exec (.configScrub die r frame .clean) s = .next s) ∧ exec (.configScrub die none frame .corrected) s = .next s ∧
      (∃ u : State, exec (.configScrub die none frame .uncorrectable) s = .next u ∧ (dieOf u die).mortar.shellOk = false ∧ flag u (morB die) 30 = true ∧
        (dieOf u die).mortar.loads = [] ∧ (∀ r, r < 8 → (regionOf u die r).phase = .fault ∧ (regionOf u die r).isolated = true) ∧
        (∀ l ∈ (dieOf s die).mortar.loads, ∀ o, opOf s l.op = some o → decided o = false →
          ∃ y : Op, opOf u l.op = some y ∧ y.phase = .recordDue ∧ y.code = 0x10))) ∧
    (∀ (osc : Fin 4) (count : W32), ∃ u : State, exec (.ringOscillatorWindow die osc count) s = .next u ∧ raw u (morB die + 0x300 + 4 * osc.val) = count ∧
      (∀ k, k ≠ morB die + 0x300 + 4 * osc.val → raw u k = raw s k) ∧ u.dies = s.dies)

/-! ## The Runnel -/

/-- R257, R258, R286 to R294, R299 to R301: a request that a port takes waits for its credit and is sent with it, on its route and a read with its receive space
reserved; an isolated region and a request that no port serves send none. The oldest of its flow, when no class goes before it, arrives at its target: behind an
open Sluice a memory's lines are read or written, a Sluice in DRAIN or CLOSED answers E_TARGET_OFF, one in REDIRECT forwards; its response comes back in order, is
counted for its initiator or absorbed; a snapshot copies and clears the statistics it selects.

R293, R295 to R298: the Sluices of a domain are raised, unless it is under isolation: OPEN to DRAIN, REDIRECT to CLOSED; a drain ends 20 µs after the raise, or
once nothing is left inside, what is left being answered E_TARGET_OFF, and the Sluice closes; a domain whose Sluices are closed with none of its requests
and credits left is done, SAFE is set with the last isolated one, a fenced die is powered down and a deleted partition leaves the die; a
closed Sluice opens again once what lies behind it can answer; REDIRECT becomes CLOSED after 160 ns.
Model's choices it rests on: notes 48, 49, 93, 98, 107, 134 and 136. -/
def Obligations.RunnelCompletes : Prop :=
  (∀ (s : State) (die : Die),
     let rn (u : State) : Runnel := (dieOf u die).runnel
     (∀ (init : Fin 151) (target : Fin 170) (plane cls : Fin 4) (part : Option (Fin 64)) (write : Bool) (addr lines : Nat) (data : List Line)
         (lt : Option (Fin 128)),
       let cmd : Instr := .runnelRequest die init target plane cls part write addr lines data lt
       let asked : RunReq :=
         { id := (rn s).nextId, init := init, target := if lt.isSome then 0 else target, plane := plane, cls := cls, part := part.map (·.val), write := write
           addr := addr, lines := if write then data.length else lines, data := data, lt := lt.map (·.val), gen := 0, issued := mltNs s, place := .waiting
           credited := false }
       let taken' := (aim s die asked).bind (admitReq s die)
       (taken' = none → exec cmd s = .next s) ∧
       (∀ q, taken' = some q → (∀ x ∈ (rn s).reqs, x.id < (rn s).nextId) →
         ∃ (u : State) (y : RunReq), exec cmd s = .next u ∧ (rn u).reqs.map (·.id) = (rn s).reqs.map (·.id) ++ [(rn s).nextId] ∧
           (rn u).nextId = (rn s).nextId + 1 ∧ reqOf (rn u) (rn s).nextId = some y ∧ y.init = init.val ∧ y.target = q.target ∧ y.gen = q.gen ∧ y.addr = addr ∧
           y.lines = asked.lines ∧ y.write = write ∧ y.issued = mltNs s ∧ u.regs = s.regs ∧ u.tiles = s.tiles ∧
           (q.place = .response → y = q) ∧
           (q.place = .waiting → (∀ x ∈ (rn s).reqs, x.place ≠ .waiting) →
             (creditFree s die q.target q.plane q.cls q.part = false → y = q) ∧
             (creditFree s die q.target q.plane q.cls q.part = true → 
               y = { q with place := .transit, credited := true, sentAt := mltNs s, space := if write then 0 else q.lines
                            path := runRoute (initPort init) q.target })))) ∧
     (∀ (id : Nat) (q : RunReq), reqOf (rn s) id = some q → (∀ x ∈ (rn s).reqs, x.id = id → x = q) →
       let ready : Prop := q.place = .transit ∧ (∀ x ∈ (rn s).reqs, sameFlow x q = true → x.place = .transit → id ≤ x.id) ∧ outranked s (rn s) q = false
       let memory : Prop := 136 ≤ q.target ∧
         match slotUse die q.plane (q.target - 136) with | .hbm _ => True | .basin _ => True | .bridge _ => True | _ => False
       (¬ ready → exec (.runnelRequestArrival die id) s = .next s) ∧
       (ready →
         ((sluiceOf s die q.target).phase = .opened → memory → ∀ pn, q.part = some pn →
           (q.write = false → ∃ u : State, exec (.runnelRequestArrival die id) s = .next u ∧
             reqOf (rn u) id = some { q with place := .inside, status := (readLines s pn die q.addr q.lines).1, data := (readLines s pn die q.addr q.lines).2 }) ∧
           (q.write = true → ∃ u : State, exec (.runnelRequestArrival die id) s = .next u ∧
             reqOf (rn u) id = some { q with place := .inside, status := (writeLines s pn die q.addr q.data).1 } ∧
             (dieOf u die).hbm = (dieOf (writeLines s pn die q.addr q.data).2 die).hbm ∧
             (dieOf u die).basin = (dieOf (writeLines s pn die q.addr q.data).2 die).basin)) ∧
         ((sluiceOf s die q.target).phase = .opened → ¬ memory ∨ q.part = none → ∃ u : State, exec (.runnelRequestArrival die id) s = .next u ∧
           reqOf (rn u) id = some { q with place := .inside } ∧ (dieOf u die).hbm = (dieOf s die).hbm ∧ (dieOf u die).basin = (dieOf s die).basin) ∧
         ((sluiceOf s die q.target).phase = .redirect → ∃ u : State, exec (.runnelRequestArrival die id) s = .next u ∧
           reqOf (rn u) id = some
               { q with target := (sluiceOf s die q.target).newPt
                        path := q.path ++ runRoute q.target (sluiceOf s die q.target).newPt }) ∧
         ((sluiceOf s die q.target).phase = .drain ∨ (sluiceOf s die q.target).phase = .closed →
           ∃ u : State, exec (.runnelRequestArrival die id) s = .next u ∧
             reqOf (rn u) id = some { q with place := .response, status := 0x10, credited := false, data := [] })) ∧
       (q.place = .transit ∨ q.place = .waiting ∨ (∃ x ∈ (rn s).reqs, sameFlow x q = true ∧ x.id < id) → exec (.runnelResponse die id) s = .next s) ∧
       (q.place = .inside ∨ q.place = .response → (∀ x ∈ (rn s).reqs, sameFlow x q = true → id ≤ x.id) →
         ∃ u : State, exec (.runnelResponse die id) s = .next u ∧ (rn u).reqs.map (·.id) = ((rn s).reqs.map (·.id)).filter (· != id) ∧
           (absorbs s die q.init = false →
             (mget {} (rn u).stats (statKey q.init q.plane)).count = min ((mget {} (rn s).stats (statKey q.init q.plane)).count + 1) 0xFFFFFFFF ∧
             (∀ r, q.init = 136 + r → r < 8 → (regionOf u die r).lastResp = respStatus q.status ∧
               fld u (morB die + 0x100 + 4 * r) 0 16 = (if q.status = 0 then fld s (morB die + 0x100 + 4 * r) 0 16
                 else min (fld s (morB die + 0x100 + 4 * r) 0 16 + 1) 65535))) ∧
           (absorbs s die q.init = true → fld u (runB die) 0 16 = min (fld s (runB die) 0 16 + 1) 65535 ∧
             ∀ k, (mget {} (rn u).stats k).count = (mget {} (rn s).stats k).count))) ∧
     (∀ id : Nat, reqOf (rn s) id = none → exec (.runnelRequestArrival die id) s = .next s ∧ exec (.runnelResponse die id) s = .next s) ∧
     (∀ (req : Fin 3) (init : Fin 151) (plane : Fin 4), Reaches s req (runB die + 0x100) (runB die + 0x100) →
       ∃ u : State, exec (.runnelSnapshot req die init plane) s = .next u ∧ (rn u).snap = mget {} (rn s).stats (statKey init plane) ∧
         mget {} (rn u).stats (statKey init plane) = {} ∧ (∀ k, k ≠ statKey init plane → mget {} (rn u).stats k = mget {} (rn s).stats k) ∧
         (rn u).reqs = (rn s).reqs)) ∧
  (∀ (s : State) (die : Die),
     let rn (u : State) : Runnel := (dieOf u die).runnel
     let shut (p : Nat) : Bool := drainOver s die p
     let safe := (rn s).domains.filter (domainSafe s die)
     let dark : Prop := (dieOf s die).fenced = true ∧ ∃ l ∈ safe, ∀ p, p < 170 → p ∈ l
     (∀ ports : List Nat,
       ((∃ p ∈ ports, 170 ≤ p) → exec (.sluiceRaise die ports) s = .fault .illFormed) ∧
       ((∀ p ∈ ports, p < 170) → raisedAlready (rn s) ports = true → exec (.sluiceRaise die ports) s = .next s) ∧
       ((∀ p ∈ ports, p < 170) → raisedAlready (rn s) ports = false →
         ∃ u : State, exec (.sluiceRaise die ports) s = .next u ∧ (rn u).domains = ports :: (rn s).domains ∧
           (∀ p ∈ ports, sluiceOf u die p = raiseOne (mltNs s) (sluiceOf s die p)) ∧
           (∀ p, p ∉ ports → sluiceOf u die p = sluiceOf s die p) ∧ flag u (runB die) 30 = false ∧ (rn u).reqs = (rn s).reqs ∧ u.tiles = s.tiles)) ∧
     (∃ u : State, exec (.sluiceDrainExpiry die) s = .next u ∧
       (∀ p, (sluiceOf u die p).phase = if shut p then .closed else (sluiceOf s die p).phase) ∧
       ((∀ x ∈ (rn s).reqs, ∀ y ∈ (rn s).reqs, x.id = y.id → x = y) → ∀ q ∈ (rn s).reqs, q.place = .inside →
         reqOf (rn u) q.id = some (if shut q.target then { q with place := .response, status := 0x10, credited := false, data := [] } else q)) ∧
       (rn u).reqs.map (·.id) = (rn s).reqs.map (·.id) ∧ u.regs = s.regs ∧
       ((dieOf s die).hubSluice.phase = .drain → (dieOf s die).hubSluice.raisedAt + 20000 ≤ mltNs s ∨ (∀ q ∈ (rn s).reqs, q.init ≠ 145) →
         (dieOf u die).hubSluice.phase = .closed)) ∧
     ((∀ n p, partOf s n = some p → p.deleting = false) →
       (safe = [] ∨ (dark ∧ aroundSafe s die = false) → exec (.sluiceSafe die) s = .next s) ∧
       (safe ≠ [] → ¬ dark → ∃ u : State, exec (.sluiceSafe die) s = .next u ∧ (rn u).domains = (rn s).domains.filter (fun x => !safe.contains x) ∧
         (rn u).sluices = (rn s).sluices ∧ (rn u).reqs = (rn s).reqs ∧ u.tiles = s.tiles ∧
         (∀ x r, (rn s).domains = x :: r → x ∈ safe → flag u (runB die) 30 = true) ∧
         (∀ x r, (rn s).domains = x :: r → x ∉ safe → u.regs = s.regs)) ∧
       (dark → aroundSafe s die = true → ∃ u : State, exec (.sluiceSafe die) s = .next u ∧ hbmOf u die = {} ∧ (dieOf u die).basin = [] ∧
         (dieOf u die).ltMap = [] ∧ portOf u die = {} ∧ (dieOf u die).fenced = true ∧
         ∀ p : PT, (tileOf u die p).part = none ∧ (tileOf u die p).seq.status = .idle)) ∧
     (∀ n p, partOf s n = some p → p.deleting = true → die.val ∈ p.delDies → (∀ m q, partOf s m = some q → m ≠ n → q.deleting = false) →
       portsDone (sluiceSafe s die) die (partPorts (sluiceSafe s die) n p die) = true →
       ∃ u : State, exec (.sluiceSafe die) s = .next u ∧
         ((∀ d ∈ p.delDies, d = die.val) → partOf u n = none) ∧
         ((∃ d ∈ p.delDies, d ≠ die.val) → ∃ x, partOf u n = some x ∧ x.delDies = p.delDies.filter (· != die.val))) ∧
     (∀ port : Fin 170,
       ((sluiceOf s die port).phase ≠ .closed ∨ canAnswer s die port = false → exec (.sluiceOpen die port) s = .next s) ∧
       ((sluiceOf s die port).phase = .closed → canAnswer s die port = true →
         ∃ u : State, exec (.sluiceOpen die port) s = .next u ∧ (sluiceOf u die port).phase = .opened ∧
           (∀ p, p ≠ port.val → sluiceOf u die p = sluiceOf s die p) ∧ u.regs = s.regs ∧
           ((∀ x ∈ (rn s).reqs, ∀ y ∈ (rn s).reqs, x.id = y.id → x = y) → ∀ q ∈ (rn s).reqs, q.place ≠ .waiting →
             reqOf (rn u) q.id = some (if q.target = port.val then { q with credited := false } else q)))) ∧
     (∀ pt : PT,
       ((sluiceOf s die pt).phase = .redirect → (sluiceOf s die pt).raisedAt + 160 ≤ mltNs s →
         ∃ u : State, exec (.redirectEnd die pt) s = .next u ∧ sluiceOf u die pt = { sluiceOf s die pt with phase := .closed } ∧
           (∀ p, p ≠ pt.val → sluiceOf u die p = sluiceOf s die p) ∧ u.regs = s.regs) ∧
       ((sluiceOf s die pt).phase ≠ .redirect ∨ mltNs s < (sluiceOf s die pt).raisedAt + 160 → exec (.redirectEnd die pt) s = .next s)))

/-! ## The HBM -/

/-- R309 to R312, R316, R317: a request of its bank's class enters its queue while there is room; a whole-line write is seen by every read after it; in a slot of
its class the picked command issues: a read answers, with E_ECC and its line poisoned where it cannot be corrected, a whole line is stored, a part of one merged
into a line that can be read; a scrub counts a corrected error, and poisons a line that cannot be corrected, its row's repair due.

R314, R315, R318, R319: a refresh closes its bank's row; a refresh window frees the disturbance tables; a stack above 85 °C is HOT; a
pseudo-channel idle for PD_TIMER powers down; a row that is due is repaired with the spare of its group, or stays in service without one; the next channel is
trained, to full speed or left slow.
Model's choices it rests on: notes 24, 53 and 63. -/
def Obligations.HbmCompletes : Prop :=
  (∀ (s : State) (die : Die) (pc bank : Fin 64) (row : Fin 16384) (col : Fin 16) (training : Bool),
     let h := hbmOf s die
     let key := hbmKey pc bank row col
     let counts (u : State) (r : Nat) : Prop := fld u r 0 32 = min (fld s r 0 32 + 1) (2 ^ 32 - 1)
     ((24 ≤ (queueOf h pc training false).length ∨ training ≠ bankClass s die bank → exec (.hbmRead die pc bank row col training) s = .next s) ∧
      ((queueOf h pc training false).length < 24 → training = bankClass s die bank →
       ∃ u : State, ∃ q : HbmReq, exec (.hbmRead die pc bank row col training) s = .next u ∧ (hbmOf u die).queue = h.queue ++ [q] ∧ q.id = h.nextId ∧
         q.write = false ∧ q.key = key ∧ q.training = training ∧ (hbmOf u die).nextId = h.nextId + 1 ∧ (hbmOf u die).lines = h.lines ∧
         mget false (hbmOf u die).powerDown pc = false ∧
         (mget 16384 h.openRow (bankKey pc bank) = row.val →
           (∃ w ∈ h.queue, w.write = true ∧ w.pc = pc.val ∧ w.bank = bank.val ∧ w.row = row.val) → mget false (hbmOf u die).inOrder (bankKey pc bank) = true) ∧
         u.regs = s.regs)) ∧
     (∀ (data : Line) (mask : BitVec 64),
       (16 ≤ (queueOf h pc training true).length ∨ training ≠ bankClass s die bank → exec (.hbmWrite die pc bank row col training mask data) s = .next s) ∧
       ((queueOf h pc training true).length < 16 → training = bankClass s die bank →
         ∃ u : State, ∃ q : HbmReq, exec (.hbmWrite die pc bank row col training mask data) s = .next u ∧ (hbmOf u die).queue = h.queue ++ [q] ∧
           q.id = h.nextId ∧ q.write = true ∧ q.key = key ∧ q.training = training ∧ q.data = data ∧ q.mask = mask ∧ (hbmOf u die).nextId = h.nextId + 1 ∧
           (mask = -1 → hbmSee (hbmOf u die) (hbmOf u die).nextId key = (false, data)) ∧ (hbmOf u die).lines = h.lines ∧ u.regs = s.regs)) ∧
     (∀ err : ReadErr, slotsOf s die training = 0 ∨ (flag s (hbmStat die) 30 = true ∧ fld s (hbmStat die) 16 5 = pc.val / 2) ∨
       pickHbm h (mltNs s) pc training = none → exec (.hbmCommandIssue die pc training err) s = .next s) ∧
     (∀ (q : HbmReq) (err : ReadErr), slotsOf s die training ≠ 0 → (flag s (hbmStat die) 30 = false ∨ fld s (hbmStat die) 16 5 ≠ pc.val / 2) →
       pickHbm h (mltNs s) pc training = some q →
       ∃ u : State, exec (.hbmCommandIssue die pc training err) s = .next u ∧ (hbmOf u die).queue = h.queue.filter (fun y => y.id != q.id) ∧
         (∀ k, k ≠ q.key → mget 0 (hbmOf u die).lines k = mget 0 h.lines k) ∧
         (q.write = false → (hbmOf u die).lines = h.lines ∧
           (∀ x, hbmSee h q.id q.key = (true, x) → (hbmOf u die).answers = (q.id, 0x50, 0) :: h.answers) ∧
           (∀ x, hbmSee h q.id q.key = (false, x) → err ≠ .uncorrectable → (hbmOf u die).answers = (q.id, 0, x) :: h.answers) ∧
           (∀ x, hbmSee h q.id q.key = (false, x) → err = .uncorrectable → (hbmOf u die).answers = (q.id, 0x50, 0) :: h.answers ∧
             mget false (hbmOf u die).poison q.key = true ∧ flag u (hltB + 0x2200 + 4 * die.val) 1 = true)) ∧
         (q.write = true → q.mask = -1 → mget 0 (hbmOf u die).lines q.key = q.data ∧ mget false (hbmOf u die).poison q.key = false) ∧
         (q.write = true → q.mask ≠ -1 →
           (∀ x, hbmSee h q.id q.key = (false, x) → err ≠ .uncorrectable → mget false h.poison q.key = false →
             mget 0 (hbmOf u die).lines q.key = mergeLine (mget 0 h.lines q.key) q.data q.mask) ∧
           ((hbmSee h q.id q.key).1 = true ∨ err = .uncorrectable →
             (hbmOf u die).lines = h.lines ∧ (hbmOf u die).answers = (q.id, 0x50, 0) :: h.answers))) ∧
     (mget false h.poison key = true → ∀ e, exec (.patrolScrub die pc bank row col e) s = .next s) ∧
     (mget false h.poison key = false →
       exec (.patrolScrub die pc bank row col .clean) s = .next s ∧
       (∃ u : State, exec (.patrolScrub die pc bank row col .corrected) s = .next u ∧ (hbmOf u die).lines = h.lines ∧ (hbmOf u die).poison = h.poison ∧
         counts u (hbmB die + 0xC)) ∧
       (∃ u : State, exec (.patrolScrub die pc bank row col .uncorrectable) s = .next u ∧ mget false (hbmOf u die).poison key = true ∧
         counts u (hbmB die + 0x10) ∧ flag u (hltB + 0x2200 + 4 * die.val) 1 = true ∧
         (pc.val, bank.val, row.val) ∈ (hbmOf u die).repairDue ++ (hbmOf u die).repair.toList))) ∧
  (∀ (s : State) (die : Die) (pc bank : Fin 64),
     let h := hbmOf s die
     let trains (c : Nat) : Prop := flag s (hbmStat die) 30 = true ∧ fld s (hbmStat die) 16 5 = c
     let timer := fld s (hbmCtrl die) 0 16
     let idle : Prop := (∀ q ∈ h.queue, q.pc ≠ pc.val) ∧ (∀ e ∈ h.openRow, e.1 / 64 ≠ pc.val)
     (∃ u : State, exec (.perBankRefresh die pc bank) s = .next u ∧ mfind (hbmOf u die).openRow (bankKey pc bank) = none ∧
       mget false (hbmOf u die).powerDown pc = false ∧
       (∀ k, k ≠ bankKey pc bank → mfind (hbmOf u die).openRow k = mfind h.openRow k) ∧ (hbmOf u die).lines = h.lines ∧ u.regs = s.regs) ∧
     (∃ u : State, exec (.refreshWindowStart die) s = .next u ∧ hbmOf u die = { h with rh := [] } ∧ u.regs = s.regs) ∧
     (∀ t : Int, ∃ u : State, exec (.stackTemperatureRead die t) s = .next u ∧ flag u (hbmStat die) 29 = decide (85 < t) ∧
       (∀ k, k ≠ hbmStat die → raw u k = raw s k) ∧ u.dies = s.dies) ∧
     (timer ≠ 0 → mget 0 h.pdSince pc + 10 * timer ≤ mltNs s → idle →
       ∃ u : State, exec (.powerDownEntry die pc) s = .next u ∧ hbmOf u die = { h with powerDown := mput h.powerDown pc true } ∧ u.regs = s.regs) ∧
     (timer = 0 ∨ mltNs s < mget 0 h.pdSince pc + 10 * timer ∨ ¬ idle → exec (.powerDownEntry die pc) s = .next s) ∧
     (h.repair ≠ none ∨ h.repairDue = [] → exec (.rowRepair die none) s = .next s) ∧
     (∀ (c b r : Nat) (rest : List (Nat × Nat × Nat)), h.repair = none → h.repairDue = (c, b, r) :: rest →
       (trains (c / 2) → exec (.rowRepair die none) s = .next s) ∧
       (¬ trains (c / 2) → mget 0 h.softUsed (spareKey c b) = 0 →
         ∃ u : State, exec (.rowRepair die none) s = .next u ∧ hbmOf u die = { h with repair := some (c, b, r), repairDue := rest } ∧
           flag u (hbmB die + 0x1C) 31 = true) ∧
       (¬ trains (c / 2) → mget 0 h.softUsed (spareKey c b) ≠ 0 →
         ∃ u : State, exec (.rowRepair die none) s = .next u ∧ hbmOf u die = { h with repairDue := rest } ∧
           fld u (hbmB die + 0x1C) 0 8 = min (fld s (hbmB die + 0x1C) 0 8 + 1) 255)) ∧
     (∀ bad : BitVec 16, h.repair = none → exec (.rowRepair die (some bad)) s = .next s) ∧
     (∀ (c b r : Nat) (bad : BitVec 16), h.repair = some (c, b, r) →
       ∃ u : State, exec (.rowRepair die (some bad)) s = .next u ∧ (hbmOf u die).repair = none ∧ mget 0 (hbmOf u die).softUsed (spareKey c b) = 1 ∧
         (∀ i, i < 16 → bad.getLsbD i = true → mget false (hbmOf u die).poison (hbmKey c b r i) = true) ∧ (hbmOf u die).lines = h.lines ∧
         u.hub.repairs = s.hub.repairs ++ [(die.val, c, b, r)] ∧ flag u (hbmB die + 0x1C) 31 = false) ∧
     (let may : Prop := flag s (hbmStat die) 30 = false ∧ 2 ≤ stageOf s ∧ h.trained < 32 ∧ ∀ r, h.repair = some r → r.1 / 2 ≠ h.trained
      (may → ∃ u : State, exec (.channelTraining die none) s = .next u ∧ flag u (hbmStat die) 30 = true ∧ fld u (hbmStat die) 16 5 = h.trained ∧ u.dies = s.dies) ∧
      (¬ may → exec (.channelTraining die none) s = .next s)) ∧
     (∀ ok : Bool,
       (flag s (hbmStat die) 30 = false → exec (.channelTraining die (some ok)) s = .next s) ∧
       (flag s (hbmStat die) 30 = true →
         ∃ u : State, exec (.channelTraining die (some ok)) s = .next u ∧ flag u (hbmStat die) 30 = false ∧
           (hbmOf u die).trained = fld s (hbmStat die) 16 5 + 1 ∧ (ok = true → fastCh (hbmOf u die) (2 * fld s (hbmStat die) 16 5) = true) ∧
           (ok = false → flag u (hbmStat die) 28 = true ∧ (hbmOf u die).fast = h.fast))))

/-! ## The Vidonlink -/

/-- R329 to R335, R346, R348, R350, R352, R353, R356: an up port takes a good frame in order into its receive buffers and asks again for one it cannot
decode, one that is damaged or one that is missing; a port that hunts counts the codewords it can correct; a port sends a frame again, a new frame, kept for
replay, or a null one; an ACK becomes due after 100 ns, unacknowledged frames are sent again after 2 µs of silence; a port that hunts comes up once both groups
hold 16 codewords, after a recovery with its kept frames or, with another peer, anew, and is lost 12 ms into a recovery; REMOVE makes it refuse.
Model's choices it rests on: notes 34, 35, 36, 42, 45 and 46. -/
def Obligations.LinkFramesComplete : Prop :=
  ∀ (s : State) (die : Die),
    let p := portOf s die
    let asks (u : State) : Prop := (portOf u die).discarding = true ∧ (portOf u die).rxq = p.rxq ∧
      (portOf u die).ackWant = (if p.discarding then p.ackWant else 2) ∧ (portOf u die).expect = p.expect
    (∀ (group : Fin 2) (lanes : List (Nat × BitVec 680)), (∀ e ∈ lanes, e.1 ≤ 8) → p.phase = .up →
      (∀ cw, rsDecode (gather p group lanes).1 = some cw →
        let f := parseFrame (symBits (cw.take 262))
        f.crcOk = true → isNull f = false → f.fseq = p.expect →
        ∃ u : State, exec (.frameReceive die group lanes) s = .next u ∧ (portOf u die).expect = (f.fseq + 1) % 1024 ∧
          (portOf u die).lanes = (gather p group lanes).2 ∧
          (∀ vl, vl < 7 → (∀ x, (mget [] p.rxq vl ++ (f.flits.filter (fun x => x.1 == vl)).map (·.2)).head? = some x → unlisted vl x = false) →
            mget [] (portOf u die).rxq vl = mget [] p.rxq vl ++ (f.flits.filter (fun x => x.1 == vl)).map (·.2)) ∧
          (portOf u die).txq = p.txq ∧ u.tiles = s.tiles) ∧
      (∀ cw, rsDecode (gather p group lanes).1 = some cw →
        let f := parseFrame (symBits (cw.take 262))
        (f.crcOk = false → ∃ u : State, exec (.frameReceive die group lanes) s = .next u ∧ asks u) ∧
        (f.crcOk = true → isNull f = false → f.fseq ≠ p.expect →
          ∃ u : State, exec (.frameReceive die group lanes) s = .next u ∧ (portOf u die).expect = p.expect ∧ (portOf u die).rxq = p.rxq ∧
            ((f.fseq + 1024 - p.expect) % 1024 < 512 → (portOf u die).discarding = true)) ∧
        (f.crcOk = true → isNull f = true →
          ∃ u : State, exec (.frameReceive die group lanes) s = .next u ∧ (portOf u die).expect = p.expect ∧ (portOf u die).rxq = p.rxq)) ∧
      (rsDecode (gather p group lanes).1 = none → ∃ u : State, exec (.frameReceive die group lanes) s = .next u ∧ asks u)) ∧
    (∀ (group : Fin 2) (lanes : List (Nat × BitVec 680)),
      ((∃ e ∈ lanes, 8 < e.1) → exec (.frameReceive die group lanes) s = .fault .illFormed) ∧
      ((∀ e ∈ lanes, e.1 ≤ 8) → p.phase = .training ∨ p.phase = .recovery → p.step = 5 →
        ∃ u : State, exec (.frameReceive die group lanes) s = .next u ∧ (portOf u die).rxq = p.rxq ∧ (portOf u die).expect = p.expect ∧
          mget 0 (portOf u die).cwGood group = (if (rsDecode (gather p group lanes).1).isSome then mget 0 p.cwGood group + 1 else 0))) ∧
    (portEn s die = false → exec (.frameSend die) s = .next s) ∧
    (∀ i k, portEn s die = true → p.phase = .up → p.wakeAt = none → p.retireAt = none → p.lpAt = none → p.resendAt = some i → p.kept[i]? = some k →
      k.fseq % 2 = p.turn →
      ∃ (u : State) (ls : List (Nat × BitVec 680)), exec (.frameSend die) s = .next u ∧ u.out = .codeword die p.turn ls :: s.out ∧
        (portOf u die).resendAt = (if i + 1 < p.kept.length then some (i + 1) else none) ∧ (portOf u die).kept.length = p.kept.length ∧
        (portOf u die).fseq = p.fseq ∧ (portOf u die).txq = p.txq ∧
        fld u (vlB die + 0x14) 20 12 = min (fld s (vlB die + 0x14) 20 12 + 1) 4095) ∧
    (portEn s die = true → p.phase = .up → p.wakeAt = none → p.resendAt = none → p.retireAt = none → p.lpAt = none →
      let r := fillFrame p (groupsCross s die).length
      let cr := owedCredits p
      (p.fseq % 2 = p.turn → p.kept.length < 511 → ¬ (r.1.all (fun x => x.1 == 7) = true ∧ cr.2 = 0) →
        ∃ (u : State) (ls : List (Nat × BitVec 680)), exec (.frameSend die) s = .next u ∧
          (portOf u die).kept = p.kept ++ [⟨p.fseq, r.1, cr.1, cr.2, (ackField p).1, (ackField p).2, 0⟩] ∧
          (portOf u die).fseq = (p.fseq + 1) % 1024 ∧ (portOf u die).txq = r.2.txq ∧ u.out = .codeword die p.turn ls :: s.out) ∧
      (p.fseq % 2 ≠ p.turn ∨ 511 ≤ p.kept.length ∨ (r.1.all (fun x => x.1 == 7) = true ∧ cr.2 = 0) →
        ∃ (u : State) (ls : List (Nat × BitVec 680)), exec (.frameSend die) s = .next u ∧ (portOf u die).kept = p.kept ∧
          (portOf u die).fseq = p.fseq ∧ (portOf u die).txq = p.txq ∧ u.out = .codeword die p.turn ls :: s.out)) ∧
    (p.phase = .up → p.ackAt + 100 ≤ mltNs s →
      ∃ u : State, exec (.ackIntervalExpiry die) s = .next u ∧ portOf u die = { p with ackWant := max p.ackWant 1 } ∧ u.regs = s.regs) ∧
    (p.phase ≠ .up ∨ mltNs s < p.heardAt + 2000 ∨ p.kept = [] → exec (.ackTimeout die) s = .next s) ∧
    (p.phase = .up → p.heardAt + 2000 ≤ mltNs s →
      ((∀ k ∈ p.kept, k.resends < 8) → p.kept ≠ [] → ∃ u : State, exec (.ackTimeout die) s = .next u ∧
        portOf u die = { p with resendAt := some 0, heardAt := mltNs s } ∧ u.regs = s.regs) ∧
      ((∃ k ∈ p.kept, 8 ≤ k.resends) → ∃ u : State, exec (.ackTimeout die) s = .next u ∧ (portOf u die).phase = .recovery ∧
        (portOf u die).kept = p.kept ∧ (portOf u die).recoverAt = some (mltNs s))) ∧
    (∀ t, p.recoverAt = some t → p.phase = .recovery → t + 12000000 ≤ mltNs s →
      ∃ u : State, exec (.portLost die) s = .next u ∧ (portOf u die).phase = .lost ∧ flag u hltB 6 = true ∧
        (∀ d m, d < 16 → m < 256 → fld u (vlR d (0x400 + 4 * m)) 0 4 = die.val → flag u (vlR d (0x400 + 4 * m)) 31 = false)) ∧
    ((∀ t, p.recoverAt = some t → p.phase ≠ .recovery ∨ mltNs s < t + 12000000) → exec (.portLost die) s = .next s) ∧
    (p.step ≠ 5 ∨ mget 0 p.cwGood 0 < 16 ∨ mget 0 p.cwGood 1 < 16 → exec (.linkUp die) s = .next s) ∧
    (p.step = 5 → 16 ≤ mget 0 p.cwGood 0 → 16 ≤ mget 0 p.cwGood 1 →
      (p.phase = .training → ∃ u : State, exec (.linkUp die) s = .next u ∧ (portOf u die).phase = .up ∧ (portOf u die).fseq = 0 ∧
        (portOf u die).expect = 0 ∧ (portOf u die).kept = [] ∧ (portOf u die).outst = [] ∧ (portOf u die).peerValid = true ∧ flag u hltB 6 = true) ∧
      (p.phase = .recovery → (p.peerValid = false ∨ (p.peerSeen.getD (0, 0, 0)).1 = p.peerMod) →
        ∃ u : State, exec (.linkUp die) s = .next u ∧ (portOf u die).phase = .up ∧ (portOf u die).kept = p.kept.map (fun k => { k with resends := 0 }) ∧
          (portOf u die).fseq = p.fseq ∧ (p.kept ≠ [] → (portOf u die).resendAt = some 0) ∧ flag u hltB 6 = true) ∧
      (p.phase = .recovery → p.peerValid = true → (p.peerSeen.getD (0, 0, 0)).1 ≠ p.peerMod →
        ∃ u : State, exec (.linkUp die) s = .next u ∧ (portOf u die).phase = .up ∧ (portOf u die).fseq = 0 ∧ (portOf u die).expect = 0 ∧
          (portOf u die).kept = [] ∧ (portOf u die).peerMod = (p.peerSeen.getD (0, 0, 0)).1 ∧ (portOf u die).prevPeer = some p.peerMod ∧ flag u hltB 6 = true)) ∧
    (∀ b, lcHead s die 8 = some b → ∃ u : State, exec (.remove die) s = .next u ∧ (portOf u die).refuse = true ∧
      (portOf u die).retireAt = some (p.retireAt.getD (mltNs s)) ∧ u.regs = s.regs)

/-- R344 to R347, R351, R352, R356, R357: eight lanes with signal start the training of a port that is down or lost; until then it sends bursts;
a block that is whole locks its lane and names the peer; with fewer than eight lanes after 1 ms the training restarts, and after three attempts the port stays
down; a bad lane asks for the spare where that is clean and free, its peer mirrors it and names the period, and at the period both move; recovery tries a swap, a fast retrain, a full one; a port without signal recovers, one in training goes down.

R337, R354, R355: an idle port asks for low power and its peer agrees, or refuses while it holds traffic; a port in low power wakes for a
flit or by its peer's tone, and recovers if the peer does not; IDUPD names the peer anew.
Model's choices it rests on: notes 33, 43, 44 and 61. -/
def Obligations.LinkStatesComplete : Prop :=
  (∀ (s : State) (die : Die) (lane : Fin 9),
     let p := portOf s die
     let lc (u : State) (b : List Byte) : Prop := mget [] (portOf u die).txq (txKey 6 0) = mget [] p.txq (txKey 6 0) ++ [[lcFlit b]]
     (portEn s die = true → p.phase = .down ∨ p.phase = .lost →
       (∃ u : State, exec (.trainingBurst die) s = .next u ∧ (portOf u die).phase = .down ∧ u.out.length = s.out.length + 9 ∧ u.regs = s.regs) ∧
       (∀ n : Fin 10, 8 ≤ n.val → ∃ u : State, exec (.signalDetect die n) s = .next u ∧ (portOf u die).phase = .training ∧ (portOf u die).step = 1 ∧
         (portOf u die).fast = false ∧ (∀ i, i < 9 → (mget {} (portOf u die).lanes i).locked = false) ∧ u.regs = s.regs)) ∧
     (∀ (ctl : BitVec 64) (margin : BitVec 8), crc8 (bitsDown 56 (ctl.toNat / 256)) = ctl.toNat % 256 → (p.phase = .training ∨ p.phase = .recovery) →
       1 ≤ p.step → p.step ≤ 4 →
       let heard := ((List.range 9).filter (fun n => n == lane.val || (mget {} p.lanes n).locked)).length
       let late : Prop := p.step = 1 ∧ p.trainRef + 1000000 ≤ mltNs s ∧ heard < 8
       ∃ u : State, ∃ w : BitVec 64, exec (.trainingBlock die lane ctl margin) s = .next u ∧
         (portOf u die).peerSeen = some (bitsOf ctl.toNat 16 8, bitsOf ctl.toNat 12 4, bitsOf ctl.toNat 24 8) ∧
         u.out = .training die lane w :: s.out ∧ (p.step ≤ 3 → ¬ late → (mget {} (portOf u die).lanes lane).locked = true) ∧
         (late → p.attempts < 2 → (portOf u die).step = 1 ∧ (portOf u die).attempts = p.attempts + 1 ∧ (portOf u die).phase = p.phase ∧
           ∀ i, i < 9 → (mget {} (portOf u die).lanes i).locked = false) ∧
         (late → 2 ≤ p.attempts → (portOf u die).step = 0 ∧ (p.phase = .training → (portOf u die).phase = .down))) ∧
     (∀ (ctl : BitVec 64) (margin : BitVec 8), crc8 (bitsDown 56 (ctl.toNat / 256)) ≠ ctl.toNat % 256 ∨ (p.phase ≠ .training ∧ p.phase ≠ .recovery) ∨
       p.step = 0 ∨ 4 < p.step → exec (.trainingBlock die lane ctl margin) s = .next s) ∧
     (portEn s die = false ∨ (p.phase ≠ .down ∧ p.phase ≠ .lost) →
       exec (.trainingBurst die) s = .next s ∧ ∀ n, exec (.signalDetect die n) s = .next s) ∧
     (p.phase = .up → (mget {} p.lanes lane).logical < 8 → ∀ clean, p.spareUsed = true ∨ p.swap ≠ none ∨ clean = false →
       ∃ u : State, exec (.laneSpareTrigger die lane clean) s = .next u ∧ (portOf u die).phase = .recovery ∧ (portOf u die).recoverAt = some (mltNs s) ∧
         (portOf u die).recoverStep = 0 ∧ u.regs = s.regs) ∧
     (p.phase ≠ .up ∨ 8 ≤ (mget {} p.lanes lane).logical → ∀ clean, exec (.laneSpareTrigger die lane clean) s = .next s) ∧
     (p.phase = .up → (mget {} p.lanes lane).logical < 8 → p.spareUsed = false → p.swap = none →
       ∃ u : State, exec (.laneSpareTrigger die lane true) s = .next u ∧ (portOf u die).swap = some ⟨(mget {} p.lanes lane).logical, true, none⟩ ∧
         lc u [1, BitVec.ofNat 8 (mget {} p.lanes lane).logical] ∧ u.regs = s.regs) ∧
     (∀ b, lcHead s die 1 = some b → ∃ u : State, exec (.swapreq die) s = .next u ∧
       (portOf u die).swap = some ⟨byteAt b 1 % 8, false, some ((p.period + 16) % 2 ^ 32)⟩ ∧
       lc u ([2, BitVec.ofNat 8 (byteAt b 1), 0, 0] ++ leBytes 4 ((p.period + 16) % 2 ^ 32)) ∧ u.regs = s.regs) ∧
     (∀ b w, lcHead s die 2 = some b → p.swap = some w → w.receiver = true → w.lane = byteAt b 1 →
       ∃ u : State, exec (.swapack die) s = .next u ∧ (portOf u die).swap = some { w with period := some (fieldLe b 4 4) } ∧ u.regs = s.regs) ∧
     (∀ n t, p.swap = some ⟨n, true, some t⟩ → (p.period + 2 ^ 32 - t) % 2 ^ 32 < 2 ^ 31 → n < 8 → (mget {} p.lanes 8).logical = 8 →
       ∃ u : State, exec (.swapSwitch die) s = .next u ∧ (portOf u die).swap = none ∧ (portOf u die).spareUsed = true ∧ (portOf u die).lsMap = n ∧
         (mget {} (portOf u die).lanes 8).logical = n ∧
         (∀ i, i < 8 → (mget {} p.lanes i).logical = n → (mget {} (portOf u die).lanes i).out = true ∧ (mget {} (portOf u die).lanes i).logical = 15) ∧
         u.regs = s.regs) ∧
     (∀ blame : Option (Fin 9), p.phase = .recovery →
       ((p.recoverStep = 0 ∧ blame = none) ∨ p.recoverStep = 1 → ∃ u : State, exec (.recovery die blame false) s = .next u ∧
         (portOf u die).phase = .recovery ∧ (portOf u die).step = 1 ∧ (portOf u die).fast = true ∧ (portOf u die).recoverStep = 2) ∧
       (p.recoverStep = 2 → ∃ u : State, exec (.recovery die blame false) s = .next u ∧
         (portOf u die).phase = .recovery ∧ (portOf u die).step = 1 ∧ (portOf u die).fast = false ∧ (portOf u die).recoverStep = 3)) ∧
     (p.phase = .recovery → p.recoverStep = 0 → (mget {} p.lanes lane).logical < 8 → p.spareUsed = false →
       ∃ u : State, exec (.recovery die (some lane) true) s = .next u ∧ (portOf u die).recoverStep = 1 ∧
         (portOf u die).swap = some ⟨(mget {} p.lanes lane).logical, true, none⟩ ∧ lc u [1, BitVec.ofNat 8 (mget {} p.lanes lane).logical]) ∧
     (∀ cable : Bool,
       ((p.phase = .up ∨ p.phase = .lp1 ∨ p.phase = .lp2) → ∃ u : State, exec (.surpriseRemoval die cable) s = .next u ∧ (portOf u die).phase = .recovery ∧
         (portOf u die).recoverAt = some (mltNs s) ∧ (portOf u die).swap = none ∧ (portOf u die).plumb = none ∧ (portOf u die).kept = p.kept) ∧
       (p.phase = .training → ∃ u : State, exec (.surpriseRemoval die cable) s = .next u ∧ (portOf u die).phase = .down ∧ (portOf u die).step = 0))) ∧
  (∀ (s : State) (die : Die) (b : List Byte),
     let p := portOf s die
     let lc (u : State) (b : List Byte) : Prop := mget [] (portOf u die).txq (txKey 6 0) = mget [] p.txq (txKey 6 0) ++ [[lcFlit b]]
     let held : Bool := !(groupsCross s die).isEmpty || (p.txq.any (fun e => e.1 / 65536 != 6)) || p.outst.any (fun e => !e.2.isEmpty)
     (flag s (vlR die 0x18) 30 = false ∨ mltNs s < p.quietAt + 100 * fld s (vlR die 0x18) 0 16 ∨ mayRest s die = false → exec (.lp1IdleExpiry die) s = .next s) ∧
     (flag s (vlR die 0x18) 30 = true → p.quietAt + 100 * fld s (vlR die 0x18) 0 16 ≤ mltNs s → mayRest s die = true → ∃ u : State, exec (.lp1IdleExpiry die) s = .next u ∧ lc u [3, 1] ∧
       (portOf u die).lpAsked = some 1 ∧ u.regs = s.regs) ∧
     (lcHead s die 3 = some b → p.phase = .up →
       (held = true → ∃ u : State, exec (.lpreq die) s = .next u ∧ lc u [5, BitVec.ofNat 8 (byteAt b 1)] ∧ (portOf u die).lpAt = p.lpAt) ∧
       (held = false →
         let st := match p.lpAsked with | some x => if x = 1 ∨ byteAt b 1 = 1 then 1 else 2 | none => byteAt b 1
         ∃ u : State, exec (.lpreq die) s = .next u ∧ lc u [4, BitVec.ofNat 8 st] ∧ (portOf u die).lpAt = some (st, (p.period + 1) % 2 ^ 32))) ∧
     (lcHead s die 4 = some b → p.lpAsked ≠ none → ∃ u : State, exec (.lpack die) s = .next u ∧
       (portOf u die).lpAt = some (byteAt b 1, (p.period + 1) % 2 ^ 32) ∧ (portOf u die).lpAsked = none ∧ u.regs = s.regs) ∧
     (lcHead s die 5 = some b → ∃ u : State, exec (.lpnak die) s = .next u ∧ (portOf u die).lpAsked = none ∧ (portOf u die).phase = p.phase ∧ u.regs = s.regs) ∧
     (p.txq = [] ∧ groupsCross s die = [] ∨ (p.phase ≠ .lp1 ∧ p.phase ≠ .lp2) → exec (.portWake die) s = .next s) ∧
     (p.phase ≠ .lp2 → exec (.wakeTone die) s = .next s) ∧
     (p.txq ≠ [] ∨ groupsCross s die ≠ [] →
       (p.phase = .lp1 → ∃ u : State, exec (.portWake die) s = .next u ∧ (portOf u die).phase = .up ∧
         (portOf u die).wakeAt = some (mltNs s + 2000000, mltNs s + 1000) ∧ u.out = s.out) ∧
       (p.phase = .lp2 → ∃ u : State, exec (.portWake die) s = .next u ∧ (portOf u die).phase = .up ∧ u.out = .wakeTone die :: s.out)) ∧
     (p.phase = .lp2 → ∃ u : State, exec (.wakeTone die) s = .next u ∧ (portOf u die).phase = .up ∧ u.out = s.out) ∧
     (∀ t e, p.wakeAt = some (t, e) → t ≤ mltNs s → ∃ u : State, exec (.wakeTimeout die) s = .next u ∧ (portOf u die).phase = .recovery ∧
       (portOf u die).wakeAt = none) ∧
     (lcHead s die 9 = some b → ∃ u : State, exec (.idupd die) s = .next u ∧ (portOf u die).peerMod = byteAt b 1 ∧ u.regs = s.regs))

/-- R337, R346, R348, R355, R356, R360, R364: writes of VL_ registers take effect: RETIRE announces the removal, RETRAIN trains anew, clearing EN
disables the port with module event 6, a new module ID is announced to the peer, a bit slip moves its group during manual alignment, LP2REQ asks for
LP2, and GO starts a measurement.

R332, R358 to R361: a sample whose time has come sends a time stamp; the peer returns its nine receive stamps as offsets and keeps them as the delays of
the other direction; the returned stamps complete the sample of every lane; a finished measurement is logged with CONT set, every LOGH hours, and the
first is the baseline.
Model's choices it rests on: notes 47, 112, 114, 115 and 116. -/
def Obligations.LinkCommandsComplete : Prop :=
  (∀ (s : State) (req : Fin 3) (die : Die),
     let p := portOf s die
     let lc (u : State) (b : List Byte) : Prop := mget [] (portOf u die).txq (txKey 6 0) = mget [] p.txq (txKey 6 0) ++ [[lcFlit b]]
     (Reaches s req (vlR die 4) (vlR die 4) → portEn s die = true →
       (p.phase = .up → ∃ u : State, exec (.retire req die) s = .next u ∧ lc u [8] ∧ (portOf u die).refuse = true ∧ (portOf u die).retireAt = some (mltNs s)) ∧
       (∃ u : State, exec (.retrain req die) s = .next u ∧ (portOf u die).phase = .training ∧ (portOf u die).step = 1 ∧ (portOf u die).fast = false) ∧
       (∃ u : State, exec (.portDisable req die) s = .next u ∧ (portOf u die).phase = .disabled ∧ portEn u die = false ∧ flag u hltB 6 = true) ∧
       (∀ id : Byte, ∃ u : State, exec (.modidWrite req die id) s = .next u ∧ modId u die = id.toNat ∧ portEn u die = true ∧
         (id.toNat ≠ modId s die → p.phase = .up → lc u [9, id]) ∧ (portOf u die).phase = p.phase)) ∧
     (Reaches s req (vlR die 0x10) (vlR die 0x10) → ∀ (lane : Fin 9) (ui : Fin 512),
       let g := (mget {} p.lanes lane).logical / 4
       ∃ u : State, exec (.bitslip req die lane ui) s = .next u ∧
         (p.step = 5 → p.phase = .training → flag s (vlR die 4) 30 = true →
           mget 0 (portOf u die).cwShift g = (mget 0 p.cwShift g + ui.val) % 340 ∧ mget 0 (portOf u die).cwGood g = 0) ∧
         (p.step ≠ 5 ∨ p.phase ≠ .training ∨ flag s (vlR die 4) 30 = false → flag u (vlR die 0) 26 = true ∧ portOf u die = p)) ∧
     (Reaches s req (vlR die 0x18) (vlR die 0x18) → mayRest s die = true →
       ∃ u : State, exec (.lp2req req die) s = .next u ∧ lc u [3, 2] ∧ (portOf u die).lpAsked = some 2) ∧
     (Reaches s req (vlR die 0x1C) (vlR die 0x1C) → p.phase = .up →
       ∃ u : State, ∃ q : PlumbRun, exec (.plumbGo req die) s = .next u ∧ (portOf u die).plumb = some q ∧ q.counts = [] ∧ flag u (vlR die 0x20) 31 = true)) ∧
  (∀ (s : State) (die : Die) (q : PlumbRun),
     let p := portOf s die
     (p.plumb = some q → p.phase ≠ .up ∨ mltNs s < q.nextAt → exec (.plumbSample die) s = .next s) ∧
     (p.plumb = none → exec (.plumbSample die) s = .next s) ∧
     (p.plumb = some q → p.phase = .up → q.nextAt ≤ mltNs s → ∃ u : State, exec (.plumbSample die) s = .next u ∧
       (portOf u die).plumb = some { q with waiting := true, sentPeriod := p.period, baPending := [], nextAt := mltNs s + 10000 * 2 ^ fld s (vlR die 0x1C) 20 4 } ∧
       mget [] (portOf u die).txq (txKey 6 0) =
         mget [] p.txq (txKey 6 0) ++ [[lcFlit ([6, 0, 0, 0] ++ leBytes 4 p.period ++ leBytes 8 (devFrac s % 2 ^ 64))]] ∧ u.regs = s.regs) ∧
     (∀ (b : List Byte) (stamps : List Int), lcHead s die 6 = some b → stamps.length = 9 →
       let off := stamps.map (fun x => x - ((fieldLe b 8 8 : Nat) : Int))
       ∃ u : State, exec (.plumbTs die stamps) s = .next u ∧
         (p.plumb = some q → (portOf u die).plumb = some { q with baPending := off } ∧
           mget [] (portOf u die).txq (txKey 6 0) =
             mget [] p.txq (txKey 6 0) ++ [[lcFlit ([7, 0, 0, 0] ++ (b.drop 4).take 4 ++ off.flatMap (fun x => leBytes 4 (encodeInt 32 x)))]]) ∧
         u.regs = s.regs) ∧
     (∀ b : List Byte, lcHead s die 7 = some b → p.plumb = some q → q.waiting = true → fieldLe b 4 4 = q.sentPeriod → q.baPending.length = 9 →
       (∀ i, i < 9 → mget 0 q.counts i < 1023) →
       ∃ u : State, ∃ x : PlumbRun, exec (.plumbRpt die) s = .next u ∧ (portOf u die).plumb = some x ∧ x.waiting = false ∧
         (∀ i, i < 9 → mget 0 x.counts i = mget 0 q.counts i + 1 ∧ mget 0 x.ab i = mget 0 q.ab i + signedOf 32 (fieldLe b (8 + 4 * i) 4) ∧
           mget 0 x.ba i = mget 0 q.ba i + q.baPending.getD i 0) ∧ u.regs = s.regs) ∧
     (let due : Prop := flag s (vlR die 0x1C) 30 = true ∧ (p.plumbBase ≠ none → p.loggedAt + 3600000000000 * fld s (vlR die 0x1C) 16 4 ≤ mltNs s)
      (p.plumbRes = none ∨ ¬ due → exec (.plumbLog die) s = .next s) ∧
      ∀ r : PlumbRes, p.plumbRes = some r → due →
       ∃ u : State, exec (.plumbLog die) s = .next u ∧ (portOf u die).plumbBase = some (p.plumbBase.getD r) ∧ (portOf u die).loggedAt = mltNs s ∧
         (portOf u die).plumbNext = (p.plumbNext + 1) % 512 ∧
         (drifted (fld s (vlR die 0x1C) 0 16) (p.plumbBase.getD r) r ≠ [] → flag u (vlR die 0x20) 29 = true)))

/-! ## Clepsydra -/

/-- R368, R374 to R376: the oldest counter change whose MLT has come applies: a FREQ within ±100 ppm, or a slew of ±500 ppm that ends
2,000 × abs(θ) later; a pending epoch whose APPLY has come begins: device time becomes MLT + EOFF and MLT stays; an adoption moves both
forward. A change whose time has not come leaves everything as it is.
Model's choices it rests on: notes 37 and 122. -/
def Obligations.TimeChangesComplete : Prop :=
  ∀ s : State,
    (s.clp.changes = [] → exec .counterChangeApply s = .next s) ∧ (s.clp.pending = [] → exec .epochApply s = .next s) ∧
    (flag s clpB 27 = false → exec .slewEnd s = .next s) ∧ (s.clp.adopt = none ∨ (∃ th e, s.clp.adopt = some (th, e) ∧ th ≤ 0) → exec .adoption s = .next s) ∧
    (∀ (at' : Nat) (c : CounterChange) (r : List (Nat × CounterChange)), s.clp.changes = (at', c) :: r →
      (mltNs s < at' → exec .counterChangeApply s = .next s) ∧
      (at' ≤ mltNs s → ∃ u : State, exec .counterChangeApply s = .next u ∧ u.clp.changes = r ∧ u.clp.mlt = s.clp.mlt ∧ u.clp.dev = s.clp.dev ∧
        (∀ f, c = .freq f → u.clp.freq = max (-109951162) (min 109951162 f) ∧ u.clp.slew = s.clp.slew ∧ u.regs = s.regs) ∧
        (∀ th, c = .slew th → u.clp.slew = (if th < 0 then -549755813 else 549755813) ∧ u.clp.freq = s.clp.freq ∧
          u.clp.slewEnds = mltNs s + 2000 * th.natAbs / 65536 ∧ flag u clpB 27 = true) ∧
        u.tiles = s.tiles ∧ u.ops = s.ops)) ∧
    (flag s clpB 27 = true →
      (mltNs s < s.clp.slewEnds → exec .slewEnd s = .next s) ∧
      (s.clp.slewEnds ≤ mltNs s → ∃ u : State, exec .slewEnd s = .next u ∧ u.clp = { s.clp with slew := 0, slewEnds := 0 } ∧
        flag u clpB 27 = false ∧ (∀ k, k ≠ clpB → raw u k = raw s k) ∧ u.tiles = s.tiles)) ∧
    (∀ (p : PendEpoch) (r : List PendEpoch), s.clp.pending = p :: r →
      (mltNs s < p.apply → exec .epochApply s = .next s) ∧
      (p.apply ≤ mltNs s → ∃ u : State, exec .epochApply s = .next u ∧ u.clp.pending = r ∧ epochNow u = ⟨p.num, p.eoff⟩ ∧ u.clp.mlt = s.clp.mlt ∧
        u.clp.dev = ((s.clp.mlt : Int) + p.eoff * 2 ^ 24).toNat ∧ fld u clpB 0 16 = p.num.toNat ∧ flag u clpB 26 = !r.isEmpty ∧
        u.tiles = s.tiles ∧ u.ops = s.ops)) ∧
    (∀ (th : Int) (e : Epoch), s.clp.adopt = some (th, e) → 0 < th →
      ∃ u : State, exec .adoption s = .next u ∧ u.clp.mlt = ((s.clp.mlt : Int) + th * 2 ^ 24).toNat % 2 ^ 104 ∧
        u.clp.dev = ((s.clp.mlt : Int) + th * 2 ^ 24 + e.eoff * 2 ^ 24).toNat ∧ epochNow u = e ∧ u.clp.adopt = none ∧
        fld u clpB 0 16 = e.num.toNat ∧ flag u clpB 29 = true ∧ flag u clpB 28 = false ∧ flag u clpB 25 = false ∧
        fld u (clpB + 0x2C) 0 32 = min (fld s (clpB + 0x2C) 0 32 + launchesPassed s (mltNs s) (mltNs u)) (2 ^ 32 - 1) ∧
        u.tiles = s.tiles ∧ u.ops = s.ops)

/-- R249, R381: a write of MOR_CLKDIV takes every divisor, or none with DIVERR where one is out of range or changes a clock in use. GO of
CLP_SET_GO stages the write for the later of AT and 2 µs from now, or sets SETERR; when its MLT has come the difference it asks for is handled
as a root's θ: below 1 µs a FREQ of the servo, below 1 ms a slew, from there on a new epoch; at a slave it is only shown.
Model's choices it rests on: notes 32 and 38. -/
def Obligations.ClockWritesComplete : Prop :=
  ∀ (s : State) (req : Fin 3),
    (∀ (die : Die) (val : W32), Reaches s req (morB die + 4) (morB die + 4) →
      let k := morB die + 4
      let n (c : Nat) : Nat := bitsOf val.toNat (8 * c) 8
      let bad (c : Nat) : Prop := n c < 8 ∨ 64 < n c ∨ (n c ≠ fld s k (8 * c) 8 ∧ clockUsed s die c = true)
      ∃ u : State, exec (.morClkdivWrite req die val) s = .next u ∧
        ((∀ c, c < 3 → ¬ bad c) → (∀ c, c < 3 → fld u k (8 * c) 8 = n c) ∧ raw u (morB die) = raw s (morB die)) ∧
        ((∃ c, c < 3 ∧ bad c) → flag u (morB die) 29 = true ∧ raw u k = raw s k) ∧ u.dies = s.dies ∧ u.tiles = s.tiles) ∧
    (∀ mode : Fin 4, Reaches s req (clpB + 0x28) (clpB + 0x28) →
      let at' := fld s (clpB + 0x20) 0 32 + fld s (clpB + 0x24) 0 32 * 2 ^ 32
      let v := stagedValue s (mode.val == 1)
      let refused : Prop := (srcSel s = 2 ∧ isSlave s = true) ∨ s.clp.set ≠ none ∨ 1 < mode.val
      ∃ u : State, exec (.clpSetGo req mode) s = .next u ∧ u.tiles = s.tiles ∧ u.ops = s.ops ∧
        (refused → u.clp = s.clp ∧ flag u clpB 24 = true) ∧
        (¬ refused → flag u (clpB + 0x28) 30 = true ∧ u.clp =
          { s.clp with set := some ⟨mode.val == 1, v - (if mode.val = 0 then ((at' * 65536 : Nat) : Int) else 0), max at' (mltNs s + 2000)⟩ })) ∧
    (s.clp.set = none → exec .timeWriteApply s = .next s) ∧
    (∀ w : SetWrite, s.clp.set = some w →
      let th : Int := if w.relative then w.value else w.value + mltFrac s - devFrac s
      let ending : List (Nat × CounterChange) := if flag s clpB 27 then [(mltNs s + 2000, .slewEnd)] else []
      (mltNs s < w.at_ → exec .timeWriteApply s = .next s) ∧
      (w.at_ ≤ mltNs s → isSlave s = true → ∃ u : State, exec .timeWriteApply s = .next u ∧ u.clp = { s.clp with set := none } ∧
        flag u (clpB + 0x28) 30 = false ∧ raw u (clpB + 0xC) = BitVec.ofInt 32 (max (-2147483648) (min 2147483647 (th / 4096)))) ∧
      (w.at_ ≤ mltNs s → isSlave s = false → ∃ u : State, exec .timeWriteApply s = .next u ∧ u.clp.set = none ∧ flag u (clpB + 0x28) 30 = false ∧
        u.clp.hostOffset = s.clp.hostOffset + (if srcSel s = 1 then th else 0) ∧ u.clp.mlt = s.clp.mlt ∧ u.clp.dev = s.clp.dev ∧
        (th.natAbs < 65536000 → u.clp.changes = s.clp.changes ++ ending ++ [(mltNs s + 2000, .freq (Config.servo th s.clp.freq))] ∧
          u.clp.pending = s.clp.pending) ∧
        (65536000 ≤ th.natAbs → th.natAbs < 65536000000 → u.clp.changes = s.clp.changes ++ [(mltNs s + 2000, .slew th)] ∧
          u.clp.pending = s.clp.pending) ∧
        (65536000000 ≤ th.natAbs → u.clp.changes = s.clp.changes ++ ending ∧ flag u clpB 26 = true ∧
          (s.clp.pending = [] → u.clp.pending =
            [⟨(epochNow s).num + 1, (epochNow s).eoff + th, mltNs s + (if anyPtp s then 256000000 else 2000)⟩]))))

/-- R369 to R372, R375: what a PTM dialogue and the PTP messages of a PTP port do: an offset below 1 µs disciplines the clock; three PTM
dialogues without answer in a row lose the source; a Sync waits for its Follow_Up, which gives θ and the root's epoch, or the announced one where its time has passed; a peer-delay exchange
gives the delay; an Announce enters the election, and when the last master is heard no more the source is lost.
Model's choices it rests on: notes 31, 32, 39, 113 and 161. -/
def Obligations.TimeMessagesComplete : Prop :=
  ∀ s : State,
    (∀ answer : Option (Nat × Nat), srcSel s = 1 → isSlave s = false →
      ∃ u : State, exec (.ptmDialogue answer) s = .next u ∧ u.clp.mlt = s.clp.mlt ∧ u.clp.dev = s.clp.dev ∧ u.clp.freq = s.clp.freq ∧
        (answer = none → u.clp.misses = s.clp.misses + 1 ∧
          (s.clp.misses = 2 → flag u clpB 29 = false ∧ flag u clpB 28 = true ∧ flag u hltB 7 = true ∧ (flag s clpB 27 = true → u.clp.slew = 0)) ∧
          (s.clp.misses ≠ 2 → u.regs = s.regs ∧ u.clp.slew = s.clp.slew)) ∧
        (∀ m delay, answer = some (m, delay) →
          let th : Int := ((m + delay) * 65536 : Nat) - ((devFrac s : Int) - s.clp.hostOffset)
          u.clp.misses = 0 ∧ raw u (clpB + 0xC) = BitVec.ofInt 32 (max (-2147483648) (min 2147483647 (th / 4096))) ∧ flag u clpB 28 = false ∧
          (th.natAbs < 65536000 → flag u clpB 29 = true ∧
            u.clp.changes = s.clp.changes ++ (if flag s clpB 27 then [(mltNs s + 2000, .slewEnd)] else []) ++ [(mltNs s + 2000, .freq (Config.servo th s.clp.freq))]) ∧
          (65536000 ≤ th.natAbs → flag u clpB 29 = false))) ∧
    (∀ answer : Option (Nat × Nat), srcSel s ≠ 1 ∨ isSlave s = true →
      ∃ u : State, exec (.ptmDialogue answer) s = .next u ∧ u.clp.changes = s.clp.changes ∧ u.clp.epochs = s.clp.epochs ∧
        (answer = none → u.clp.misses = s.clp.misses + 1 ∧ u.regs = s.regs) ∧
        (∀ m delay, answer = some (m, delay) → u.clp.misses = 0 ∧ (∀ k, k ≠ clpB + 0xC → raw u k = raw s k))) ∧
    (∀ die : Die, ptpPort s die = false →
      (∀ sent oneStep d seq, exec (.sync die sent oneStep d seq) s = .next s) ∧
      (∀ sent d seq origin tlv, tlv.length = 42 → exec (.followUp die sent d seq origin tlv) s = .next s) ∧
      (∀ t1 t2 t3 t4, exec (.pdelayReq die t1 t2 t3 t4) s = .next s) ∧
      (∀ sent d prio1 cls acc var prio2 ident steps, exec (.announce die sent d prio1 cls acc var prio2 ident steps) s = .next s)) ∧
    (∀ (die : Die) (d seq origin : Nat) (tlv : List Byte), tlv.length ≠ 42 → exec (.followUp die false d seq origin tlv) s = .fault .illFormed) ∧
    (∀ (die : Die) (seq : Nat), ptpPort s die = true →
      let p := mget {} s.clp.ptp die
      let dom := fld s (clpB + 8) 0 7
      (∀ (oneStep : Bool) (d : Nat), ∃ u : State, exec (.sync die true oneStep d seq) s = .next u ∧
        u.out = .ptp die 0 dom p.txSeq (devFrac s) [] :: s.out ∧ (mget {} u.clp.ptp die).txSeq = (p.txSeq + 1) % 65536 ∧ u.regs = s.regs) ∧
      (∃ u : State, exec (.sync die false false dom seq) s = .next u ∧ mget {} u.clp.ptp die = { p with syncSeq := some (seq, (mltFrac s : Int)) } ∧
        u.regs = s.regs ∧ u.out = s.out) ∧
      (∀ d, d ≠ dom → exec (.sync die false false d seq) s = .next s) ∧ exec (.sync die false true dom seq) s = .next s ∧
      (∀ (d origin : Nat) (tlv : List Byte), exec (.followUp die true d seq origin tlv) s =
        .next { s with out := .ptp die 1 dom ((p.txSeq + 65535) % 65536) (devFrac s) (epochTlv s) :: s.out }) ∧
      (∀ (arrived : Int) (origin : Nat) (tlv : List Byte), p.syncSeq = some (seq, arrived) → s.clp.rootPort = some die.val → tlv.length = 42 →
        let e : Epoch := ⟨BitVec.ofNat 16 (beNat (tlv.take 2)), beInt tlv 4 10⟩
        let th : Int := (origin : Int) - e.eoff + p.delay - arrived
        let begun : Epoch := if byteAt tlv 3 % 2 = 1 ∧ beNat ((tlv.drop 24).take 8) ≤ mltNs s then ⟨e.num + 1, beInt tlv 14 10⟩ else e
        ∃ u : State, exec (.followUp die false dom seq origin tlv) s = .next u ∧ (mget {} u.clp.ptp die).syncSeq = none ∧
          u.clp.rootIdent = beNat ((tlv.drop 32).take 8) ∧ u.clp.mlt = s.clp.mlt ∧
          (th.natAbs < 65536000 → epochNow u = begun ∧ flag u clpB 29 = true ∧ u.clp.everLocked = true ∧
            u.clp.changes = s.clp.changes ++ (if flag s clpB 27 then [(mltNs s + 2000, .slewEnd)] else []) ++ [(mltNs s + 2000, .freq (Config.servo th s.clp.freq))]) ∧
          (65536000 ≤ th.natAbs → th.natAbs < 65536000000 → epochNow u = begun ∧ flag u clpB 29 = false ∧
            u.clp.changes = s.clp.changes ++ [(mltNs s + 2000, .slew th)]) ∧
          (65536000000 ≤ th → (s.clp.everLocked = false ∨ flag s clpB 25 = true) → u.clp.adopt = some (th, e) ∧ epochNow u = epochNow s) ∧
          (65536000000 ≤ th → s.clp.everLocked = true → flag s clpB 25 = false → u.clp.adopt = s.clp.adopt ∧ epochNow u = begun ∧ flag u clpB 29 = false) ∧
          (th ≤ -65536000000 → flag u clpB 25 = true ∧ flag u clpB 28 = true ∧ flag u clpB 29 = false ∧ flag u hltB 7 = true)) ∧
      (∀ t1 t2 t3 t4 : Int, ∃ u : State, exec (.pdelayReq die t1 t2 t3 t4) s = .next u ∧ u.regs = s.regs ∧ mget {} u.clp.ptp die =
        { p with delay := ((t4 - t1) - (t3 - t2) - (raw s (vlB die + 0x24)).toInt * 16384 / 1000) / 2 }) ∧
      (∀ prio1 cls acc var prio2 ident steps : Nat,
        let m : Master := ⟨prio1, cls, acc, var, prio2, ident, steps, mltNs s⟩
        (∃ u : State, exec (.announce die true dom prio1 cls acc var prio2 ident steps) s = .next u ∧
          u.out = .ptp die 2 dom s.clp.announceSeq 0 (announceData s) :: s.out ∧ u.clp.announceSeq = (s.clp.announceSeq + 1) % 65536) ∧
        (∀ d, d ≠ dom → exec (.announce die false d prio1 cls acc var prio2 ident steps) s = .next s) ∧
        (∃ u : State, exec (.announce die false dom prio1 cls acc var prio2 ident steps) s = .next u ∧ mfind u.clp.masters die = some m ∧
          (s.clp.masters = [] → u.clp.rootPort = if masterBetter m (ownMaster s) = true then some die.val else none) ∧ u.regs = s.regs))) ∧
    (∀ die : Die, ∃ u : State, exec (.announceReceiptTimeout die) s = .next u ∧ mfind u.clp.masters die = none ∧
      (isSlave s = false → (∀ e ∈ s.clp.masters, e.1 = die.val ∨ ptpPort s e.1 = false) → u.clp.rootPort = none ∧ u.regs = s.regs) ∧
      (isSlave s = true → (∀ e ∈ s.clp.masters, e.1 = die.val ∨ ptpPort s e.1 = false) → u.clp.rootPort = none ∧ flag u clpB 28 = true ∧
        flag u clpB 29 = false ∧ flag u hltB 7 = true))

/-! ## Keystone -/

/-- R453, R455, R459: a ready CRITICAL operation, or the descriptor of the mailbox at GO, enters Keystone's empty queue and is checked: one
that passes steps 1 to 6 stays at its head, its CTR stored as LASTCTR of its slot and as the latest counter record of it; one that fails a step leaves with
the code of that step, counted as refused from step 2 on, its CTR stored where only the right is missing. Behind another command it waits in the queue of 16;
with the queue full it waits outside.
Model's choices it rests on: notes 96, 106 and 160. -/
def Obligations.CriticalCommandsChecked : Prop :=
  (∀ (s : State) (ctx : Fin 4096) (express : Bool) (opseq : W32) (k : Nat) (o : Op) (q : KsCmd) (r : List KsCmd),
     Names s ctx express opseq k o → opcOf o = 0x10 → s.ks.queue = q :: r → q.accepted = true →
     (o.phase ≠ .ready ∨ 16 ≤ (q :: r).length → exec (.critical ctx express opseq) s = .next s) ∧
     (o.phase = .ready → (∀ p, partOf s o.part = some p → stepFree s o.part p o = true) → (q :: r).length < 16 →
       ∃ u : State, ∃ x : Op, exec (.critical ctx express opseq) s = .next u ∧ u.ks.queue = q :: r ++ [{ op := some k, desc := o.desc }] ∧
         opOf u k = some x ∧ x.phase = .running ∧ u.regs = s.regs ∧ UnitsKept s u)) ∧
  ∀ s : State, s.ks.queue = [] →
    (∀ (ctx : Fin 4096) (express : Bool) (opseq : W32) (k : Nat) (o : Op), Names s ctx express opseq k o → opcOf o = 0x10 → o.phase = .ready →
      (∀ p, partOf s o.part = some p → stepFree s o.part p o = true) →
      let d : KsCmd := { op := some k, desc := o.desc }
      let c : KsCmd := { d with params := hostRead s (fieldLe d.desc 8 8) (if ksPlen d ≤ 4096 then ksPlen d else 0) }
      ∃ u : State, ∃ x : Op, exec (.critical ctx express opseq) s = .next u ∧ opOf u k = some x ∧ u.tiles = s.tiles ∧ u.dies = s.dies ∧
        (ksFault s c = none → u.ks.queue = [{ c with accepted := true }] ∧ x.phase = .running ∧ (ksCode c ≠ 0x13 → ksCode c ≠ 0x60 →
          slotOf u.ks (ksSlot c) = { slotOf s.ks (ksSlot c) with lastCtr := ksCtr c } ∧ ctrIn u.ks.store (ksSlot c) = some (ksCtr c))) ∧
        (∀ step code, ksFault s c = some (step, code) → u.ks.queue = [] ∧ x.phase = .recordDue ∧ x.code = code ∧
          (step ≠ 5 → u.ks.slots = s.ks.slots ∧ u.ks.store = s.ks.store) ∧
          (step = 5 → slotOf u.ks (ksSlot c) = { slotOf s.ks (ksSlot c) with lastCtr := ksCtr c } ∧ ctrIn u.ks.store (ksSlot c) = some (ksCtr c)) ∧
          fld u (ksB + 0x320) 0 32 = (if step = 1 then fld s (ksB + 0x320) 0 32 else min (fld s (ksB + 0x320) 0 32 + 1) (2 ^ 32 - 1)))) ∧
    (∀ req : Fin 3, Reaches s req (ksB + 0x140) (ksB + 0x140) → s.ks.mailBusy = false →
      let d : KsCmd := { op := none, desc := (upTo 16).flatMap (fun i => leBytes 4 (raw s (ksB + 0x100 + 4 * i)).toNat) }
      let c : KsCmd := { d with params := hostRead s (fieldLe d.desc 8 8) (if ksPlen d ≤ 4096 then ksPlen d else 0) }
      ∃ u : State, exec (.ksCmdGo req) s = .next u ∧ u.ops = s.ops ∧ UnitsKept s u ∧
        (ksFault s c = none → u.ks.queue = [{ c with accepted := true }] ∧ u.ks.mailBusy = true) ∧
        (∀ step code, ksFault s c = some (step, code) → u.ks.queue = [] ∧ u.ks.mailBusy = false ∧ flag u (ksB + 0x140) 29 = true ∧
          fld u (ksB + 0x140) 0 8 = code.toNat))

/-- R444 to R448, R451, R454, R511: step 7 of the commands that change keys and fuses: a minimum SVN rises to a value up to 32; a key is
unwrapped into a slot that R444 leaves open, or its tag fails; a slot other than 0 is revoked; the owner's key takes slot 0 and OWNED is blown;
an image key is stored, in the fuses once; KEYSRC is set; a root other than the last is revoked; debug opens with a suspect event of every die,
or closes. Each reports OK, or the code of its refusal with nothing changed.

R457, R458: ATTEST writes the report, its signature and the certificate to host memory at the address its block gives, and nothing
else there; a report it cannot form ends it with its code.

Of every command of Keystone: one whose parameter block is shorter than the bytes it reads is refused and nothing changes, and step 7 has
no effect while the head of the queue is no accepted command of its CCODE.
Model's choices it rests on: notes 28, 70, 95 and 97. -/
def Obligations.KeystoneCommandsComplete : Prop :=
  (∀ (s : State) (c : KsCmd),
     let b (i : Nat) : Nat := ksByte c i
     let kept (u : State) : Prop := fusesOf u.ks = fusesOf s.ks ∧ u.ks.vbatKey = s.ks.vbatKey
     (KsAtHead s 0x02 c → ∃ u : State, exec .svnCommit s = .next u ∧ UnitsKept s u ∧
       let t := b 0
       let v := fieldLe c.params 4 4
       ((1 ≤ t ∧ t ≤ 6 ∧ mget 0 s.ks.svn t < v ∧ v ≤ 32) → KsReports s u c 0 ∧ mget 0 u.ks.svn t = v ∧ ∀ i, i ≠ t → mget 0 u.ks.svn i = mget 0 s.ks.svn i) ∧
       (¬ (1 ≤ t ∧ t ≤ 6 ∧ mget 0 s.ks.svn t < v ∧ v ≤ 32) → KsReports s u c 0x22 ∧ kept u)) ∧
     (KsAtHead s 0x10 c → wrapOk c false = false → ∃ u : State, exec .keyInstall s = .next u ∧ UnitsKept s u ∧ KsReports s u c 0x22 ∧ kept u) ∧
     (KsAtHead s 0x18 c → wrapOk c true = false → ∃ u : State, exec .imgkeyVbat s = .next u ∧ UnitsKept s u ∧ KsReports s u c 0x22 ∧ kept u) ∧
     (KsAtHead s 0x19 c → wrapOk c true = false → ∃ u : State, exec .imgkeyFuse s = .next u ∧ UnitsKept s u ∧ KsReports s u c 0x22 ∧ kept u) ∧
     (KsAtHead s 0x50 c → 1 < b 0 → ∃ u : State, exec .debugEnable s = .next u ∧ UnitsKept s u ∧ KsReports s u c 0x22 ∧ kept u ∧ u.ks.debug = s.ks.debug) ∧
     (KsAtHead s 0x10 c → wrapOk c false = true → ∃ u : State, exec .keyInstall s = .next u ∧ UnitsKept s u ∧
       let t := b 0
       let x := slotOf s.ks t
       let opened : Prop := x.state ≠ 1 ∨ (t = 0 ∧ (ksSlot c = 0 ∨ x.lastCtr = 2 ^ 64 - 1))
       (∀ key, opened → unwrap s c = some key → KsReports s u c 0 ∧
         slotOf u.ks t = { x with state := 1, key := key, rights := if t = 0 then 0x7F else b 1 } ∧ ∀ i, i ≠ t → slotOf u.ks i = slotOf s.ks i) ∧
       (opened → unwrap s c = none → KsReports s u c 0x20 ∧ kept u) ∧ (¬ opened → KsReports s u c (Config.refusalCode 0x10) ∧ kept u)) ∧
     (KsAtHead s 0x11 c → ∃ u : State, exec .keyRevoke s = .next u ∧ UnitsKept s u ∧
       (b 0 ≠ 0 → b 0 ≤ 7 → (slotOf s.ks (b 0)).state ≠ 0 → KsReports s u c 0 ∧ slotOf u.ks (b 0) = { slotOf s.ks (b 0) with state := 2 } ∧
         ∀ i, i ≠ b 0 → slotOf u.ks i = slotOf s.ks i) ∧
       (b 0 ≠ 0 → b 0 ≤ 7 → (slotOf s.ks (b 0)).state = 0 → KsReports s u c (Config.refusalCode 0x11) ∧ kept u) ∧
       (b 0 = 0 ∨ 7 < b 0 → KsReports s u c 0x22 ∧ kept u)) ∧
     (KsAtHead s 0x13 c → ∃ u : State, exec .ownerProvision s = .next u ∧ UnitsKept s u ∧ KsReports s u c 0 ∧ u.ks.owned = true ∧
       slotOf u.ks 0 = { slotOf s.ks 0 with state := 1, key := c.params.take 32, rights := 0x7F } ∧ ∀ i, i ≠ 0 → slotOf u.ks i = slotOf s.ks i) ∧
     (KsAtHead s 0x18 c → wrapOk c true = true → ∃ u : State, exec .imgkeyVbat s = .next u ∧ UnitsKept s u ∧ fusesOf u.ks = fusesOf s.ks ∧
       (∀ key, unwrap s c = some key → KsReports s u c 0 ∧ u.ks.vbatKey = some key ∧ (s.ks.keysrcNow = true → flag u cfgB 28 = false)) ∧
       (unwrap s c = none → KsReports s u c 0x20 ∧ kept u)) ∧
     (KsAtHead s 0x19 c → wrapOk c true = true → ∃ u : State, exec .imgkeyFuse s = .next u ∧ UnitsKept s u ∧
       (∀ key, s.ks.fuseKey = none → unwrap s c = some key → KsReports s u c 0 ∧ u.ks.fuseKey = some key ∧ u.ks.slots = s.ks.slots) ∧
       (s.ks.fuseKey = none → unwrap s c = none → KsReports s u c 0x20 ∧ kept u) ∧ (s.ks.fuseKey ≠ none → KsReports s u c 0x22 ∧ kept u)) ∧
     (KsAtHead s 0x1A c → ∃ u : State, exec .keysrcFuse s = .next u ∧ UnitsKept s u ∧ KsReports s u c 0 ∧ u.ks.keysrc = true ∧
       u.ks.keysrcNow = s.ks.keysrcNow ∧ u.ks.slots = s.ks.slots) ∧
     (KsAtHead s 0x1B c → ∃ u : State, exec .rootRevoke s = .next u ∧ UnitsKept s u ∧
       let all := s.ks.rootRevoked ||| 2 ^ (b 0 % 4)
       (b 0 ≤ 3 → all ≠ 15 → KsReports s u c 0 ∧ u.ks.rootRevoked = all ∧ u.ks.slots = s.ks.slots) ∧
       (3 < b 0 ∨ all = 15 → KsReports s u c 0x22 ∧ kept u)) ∧
     (KsAtHead s 0x50 c → b 0 ≤ 1 → ∃ u : State, exec .debugEnable s = .next u ∧ u.ks.queue = [] ∧ u.ks.debug = (b 0 == 1) ∧ kept u ∧
       u.tiles = s.tiles ∧ (b 0 = 0 → KsReports s u c 0) ∧
       (b 0 = 1 → (∀ d, d < 16 → flag u (hltB + 0x2200 + 4 * d) 8 = true) ∧
         ∀ k o, c.op = some k → opOf s k = some o → ∃ x : Op, opOf u k = some x ∧ x.phase = .recordDue ∧ x.code = 0))) ∧
  (∀ (s : State) (c : KsCmd), KsAtHead s 0x60 c →
     let a := fieldLe c.params 40 8
     (∀ d, atDigest s c = .ok d →
       let r := atReport s c d
       ∃ u : State, exec .attest s = .next u ∧ KsReports s u c 0 ∧ hostRead u a r.length = r ∧
         (∀ i, i < a ∨ a + r.length + 1120 ≤ i → mget 0 u.host i = mget 0 s.host i) ∧ fusesOf u.ks = fusesOf s.ks ∧ u.dies = s.dies ∧ u.tiles = s.tiles) ∧
     (∀ e, atDigest s c = .error e → ∃ u : State, exec .attest s = .next u ∧ KsReports s u c e ∧ UnitsKept s u ∧ fusesOf u.ks = fusesOf s.ks)) ∧
  (∀ (s : State) (fails : List PT) (e : Instr × Nat),
     e ∈ [(.svnCommit, 0x02), (.keyInstall, 0x10), (.keyRevoke, 0x11), (.ownerProvision, 0x13), (.imgkeyVbat, 0x18), (.imgkeyFuse, 0x19),
          (.keysrcFuse, 0x1A), (.rootRevoke, 0x1B), (.partCreate, 0x20), (.partChange, 0x21), (.partDelete, 0x22), (.gradeSet, 0x30),
          (.lockstepSet, 0x31), (.tapForce, 0x40), (.dieFence, 0x41), (.dieUnfence fails, 0x42), (.debugEnable, 0x50), (.attest, 0x60)] →
     ((∀ c rest, s.ks.queue = c :: rest → c.accepted = false ∨ ksCode c ≠ e.2) → exec e.1 s = .next s) ∧
     (∀ c, s.ks.queue = [c] → c.accepted = true → ksCode c = e.2 → c.params.length < ksNeed e.2 →
       ∃ u : State, exec e.1 s = .next u ∧ KsReports s u c 0x22 ∧ UnitsKept s u ∧ fusesOf u.ks = fusesOf s.ks ∧ u.ks.vbatKey = s.ks.vbatKey))

/-! ## Partitions -/

/-- R36, R452, R511: a partition is created without tiles and banks, its bank sets to be cleared and its tiles to join, with nothing in its Basin window; a
change is recorded, its tiles waiting to leave and to join and the banks it adds to be cleared, with REPLAY and the staging count as created; a deletion unbinds
its contexts and is complete at once where nothing has to be drained, else with the last of its dies safe. A block that R452 refuses ends the command with its
code, and so does a deletion of no partition.
Model's choices it rests on: notes 98 and 99. -/
def Obligations.PartitionCommandsComplete : Prop :=
  ∀ (s : State) (c : KsCmd),
    let pn := ksByte c 0
    let x := parseBlock c.params
    (KsAtHead s 0x20 c → ∃ u : State, exec .partCreate s = .next u ∧ u.tiles = s.tiles ∧ u.host = s.host ∧
      (blockFault s c.params true = none → u.ks.queue = [] ∧ u.ks.running = s.ks.running ++ [c] ∧ (∀ m, m ≠ pn → partOf u m = partOf s m) ∧
        (∀ d k, k / 2 ^ 30 = pn → mget 0 (dieOf u d).basin k = 0) ∧
        ∃ q : Partition, partOf u pn = some q ∧ q.blk = x ∧ q.tiles = [] ∧ q.joining = blkTiles x ∧ q.clearing = blkDies x ∧ q.cur.span = 0 ∧
          q.shards = x.span ∧ q.replay = (match x.replay with | 1 => false | 2 => true | _ => flag s (hltB + 0x2000) 29)) ∧
      (∀ e, blockFault s c.params true = some e → KsReports s u c e ∧ u.parts = s.parts)) ∧
    (KsAtHead s 0x21 c →
      (∀ e, blockFault s c.params false = some e → ∃ u : State, exec .partChange s = .next u ∧ KsReports s u c e ∧ u.parts = s.parts) ∧
      (∀ p, blockFault s c.params false = none → partOf s pn = some p →
        let y := { x with replay := p.blk.replay, staging := p.blk.staging }
        ∃ (u : State) (q : Partition), exec .partChange s = .next u ∧ u.ks.queue = [] ∧ partOf u pn = some q ∧ q.blk = y ∧ q.tiles = p.tiles ∧
          q.joining = (blkTiles y).filter (fun t => !p.tiles.contains t) ∧ q.releasing = p.tiles.filter (fun t => !(blkTiles y).contains t) ∧
          q.clearing = (blkDies y).filter (fun d => (y.banks &&& (if p.bankDies.testBit d && (spanDies p).contains d then p.cur.banks else 0)) != y.banks) ∧
          q.cur.span = p.cur.span ∧ q.cur.training = p.cur.training ∧ q.cur.banks = p.cur.banks)) ∧
    (KsAtHead s 0x22 c →
      (64 ≤ pn → ∃ u : State, exec .partDelete s = .next u ∧ KsReports s u c 0x22 ∧ u.parts = s.parts) ∧
      (pn < 64 → (∀ p, partOf s pn = some p → p.deleting = true) → ∃ u : State, exec .partDelete s = .next u ∧ KsReports s u c 0x10 ∧ u.parts = s.parts) ∧
      (∀ p, partOf s pn = some p → p.deleting = false → pn < 64 →
        let ds := (spanDies p).filter (fun d => dieUp s d && !(partPorts s pn p d).isEmpty)
        ∃ u : State, exec .partDelete s = .next u ∧ u.ks.queue = [] ∧ (∀ n, n < 4096 → boundPart u n ≠ some pn) ∧
          (∀ k o, opOf s k = some o → o.part = pn → o.phase = .fetched ∨ o.phase = .admitted ∨ o.phase = .ready →
            ∃ y : Op, opOf u k = some y ∧ y.phase = .recordDue ∧ y.code = 0x10) ∧
          (ds = [] → partOf u pn = none) ∧ (ds ≠ [] → ∃ q : Partition, partOf u pn = some q ∧ q.deleting = true ∧ q.delDies = ds))) ∧
    (∀ (part : Fin 64) (die : Die) (p : Partition), partOf s part = some p → p.deleting = true → p.delDies = [die.val] →
      (∀ m q, partOf s m = some q → m ≠ part.val → q.deleting = false) →
      portsDone (sluiceSafe s die) die (partPorts (sluiceSafe s die) part p die) = true →
      ∃ u : State, exec (.sluiceSafe die) s = .next u ∧ partOf u part = none)

/-- R36, R308, R310, R417: once cleared, the banks a partition was promised on a die hold nothing and the die is no longer waited for; a weight range
has been copied; at a step boundary, formed by the operations with STEPEND once every older one is complete or, with none pending, wanted by the module
manager, tiles leave, those that can join do, the class, the shares and the windows of the new block apply, its banks once all are clear, and the HBM slots are
divided anew.
Model's choices it rests on: notes 71, 99 and 100. -/
def Obligations.PartitionStepsComplete : Prop :=
  ∀ (s : State) (part : Fin 64) (die : Die) (p : Partition), partOf s part = some p →
    (p.clearing.contains die.val = false → exec (.bankSetClearComplete part die) s = .next s) ∧
    (p.clearing.contains die.val = true →
      let mask := if p.bankDies.testBit die && (spanDies p).contains die.val then p.blk.banks &&& ((2 ^ 64 - 1) ^^^ p.cur.banks) else p.blk.banks
      ∃ u : State, ∃ q : Partition, exec (.bankSetClearComplete part die) s = .next u ∧ partOf u part = some q ∧
        q.clearing = p.clearing.filter (· != die.val) ∧ q.tiles = p.tiles ∧
        (p.cur.chain = false → spanDies p ≠ [] → die.val ∉ spanDies p → q.copyTo = p.copyTo ++ [die.val]) ∧
        (∀ key, mask.testBit (key / 2 ^ 24) = true → mget 0 (dieOf u die).hbm.lines key = 0 ∧ mget false (dieOf u die).hbm.poison key = false) ∧
        (∀ key, mask.testBit (key / 2 ^ 24) = false → mget 0 (dieOf u die).hbm.lines key = mget 0 (dieOf s die).hbm.lines key) ∧
        (∀ d, d ≠ die.val → (dieOf u d).hbm = (dieOf s d).hbm)) ∧
    (spanDies p = [] ∨ p.copyTo.contains die.val = false → exec (.weightCopyComplete part die) s = .next s) ∧
    (∀ src, (spanDies p).head? = some src → p.copyTo.contains die.val = true →
      ∃ u : State, ∃ q : Partition, exec (.weightCopyComplete part die) s = .next u ∧ partOf u part = some q ∧
        q.copyTo = p.copyTo.filter (· != die.val) ∧ (dieOf u die).hbm = (dieOf (copyRange s p src die) die).hbm ∧
        (∀ d, d ≠ die.val → (dieOf u d).hbm = (dieOf s d).hbm)) ∧
    (let moves (counted : Nat) (due : List Nat) : Prop := ∃ u : State, ∃ q : Partition, exec (.stepBoundary part) s = .next u ∧ partOf u part = some q ∧
       q.stepDue = due ∧ q.steps = p.steps + counted ∧ q.releasing = [] ∧
       (∀ t ∈ p.tiles, t ∉ p.releasing → t ∈ q.tiles) ∧ (∀ t ∈ q.tiles, (t ∈ p.tiles ∧ t ∉ p.releasing) ∨ t ∈ p.joining) ∧
       (∀ t ∈ p.joining, t ∈ q.tiles ∨ t ∈ q.joining) ∧ (p.joining = [] → q.tiles = p.tiles.filter (fun t => !p.releasing.contains t)) ∧
       q.cur.training = p.blk.training ∧ q.cur.credit = p.blk.credit ∧ q.cur.basin = p.blk.basin ∧ q.cur.wFirst = p.blk.wFirst ∧
       q.cur.wCount = p.blk.wCount ∧ q.cur.banks = (if p.clearing = [] then p.blk.banks else p.cur.banks) ∧
       ∀ d : Die, fld u (hbmB d + 8) 8 8 = servingSlots (classBanks u d false) (classBanks u d true)
     (∀ n ∈ p.stepDue, (∀ m ∈ p.stepDue, n ≤ m) →
       (s.ops.any (fun e => holdsBoundary part n e.2) = true → exec (.stepBoundary part) s = .next s) ∧
       (s.ops.any (fun e => holdsBoundary part n e.2) = false → moves 1 (p.stepDue.filter (· != n)))) ∧
     (p.stepDue = [] →
       let waits := s.ops.any (fun e => e.2.part == part.val && (stepEnd e.2 || holdsBoundary part e.2.order e.2))
       (p.boundaryWanted = false ∨ waits = true → exec (.stepBoundary part) s = .next s) ∧
       (p.boundaryWanted = true → waits = false → moves 0 [])))

/-- R4, R5, R235, R511: a grade change waits for the boundary of every partition, behind the changes that pend, and with no partition is made at once: to grade
B, HUB_REV shows 112 logical tiles; to grade A, 128, with LT112 to LT127 mapped onto spares, or it ends with E_TARGET_OFF where a die has not sixteen. Grade A of
a module made as grade B, and grade B while a block names LT112 or above, are refused. The grade in operation, with no change pending, is OK at once (the model's choice, note 143).
A lock-step pair of partitions on different dies with equal tile counts, mode and weight images is set, or a set one is ended; another is refused.
Model's choices it rests on: notes 28, 95, 99, 143 and 159. -/
def Obligations.ModesComplete : Prop :=
  ∀ (s : State) (c : KsCmd),
    (KsAtHead s 0x30 c →
      let g := ksByte c 0
      let names := s.parts.any (fun e => decide (112 < e.2.blk.firstLt + e.2.blk.ltCount))
      let code : BitVec 8 := if 1 < g then 0x22 else if g = 0 ∧ flag s 4 9 = true then 0x20 else 0x10
      let few := allDies.any (fun d => dieUp s d && decide ((freeSpares s d).length < 16))
      ((1 < g ∨ (g = 0 ∧ flag s 4 9 = true) ∨ (g = 1 ∧ names = true)) →
        ∃ u : State, exec .gradeSet s = .next u ∧ KsReports s u c code ∧ UnitsKept s u ∧ gradeB u = gradeB s) ∧
      (g ≤ 1 → (g = 0 → flag s 4 9 = false) → (g = 1 → names = false) →
        ((g == 1) = gradeB s → s.ks.grades = [] → ∃ u : State, exec .gradeSet s = .next u ∧ KsReports s u c 0 ∧ UnitsKept s u ∧ gradeB u = gradeB s) ∧
        (s.parts ≠ [] → ((g == 1) ≠ gradeB s ∨ s.ks.grades ≠ []) → (∀ x ∈ s.ks.grades, x.wait ≠ []) →
          ∃ u : State, exec .gradeSet s = .next u ∧ u.tiles = s.tiles ∧ u.host = s.host ∧ u.ks.queue = [] ∧ u.ks.running = s.ks.running ++ [c] ∧
            u.ks.grades = s.ks.grades ++ [{ toB := g == 1, cmd := ksId c, wait := s.parts.map (·.1) }] ∧ u.regs = s.regs ∧
            ∀ e ∈ u.parts, e.2.boundaryWanted = true) ∧
        (s.parts = [] → s.ks.grades = [] → s.ks.running = [] → (g == 1) ≠ gradeB s →
          ∃ u : State, exec .gradeSet s = .next u ∧ u.tiles = s.tiles ∧ u.host = s.host ∧ u.ks.grades = [] ∧
            (g = 1 → KsReports s u c 0 ∧ gradeB u = true ∧ fld u 4 0 8 = 0x70 ∧ ∀ d lt, d < 16 → 112 ≤ lt → lt < 128 → ptOf u d lt = none) ∧
            (g = 0 → few = false → KsReports s u c 0 ∧ gradeB u = false ∧ fld u 4 0 8 = 0x80 ∧
              ∀ d lt, d < 16 → dieUp s d = true → 112 ≤ lt → lt < 128 → ptOf u d lt ≠ none) ∧
            (g = 0 → few = true → KsReports s u c 0x10 ∧ gradeB u = true ∧ u.dies = s.dies)))) ∧
    (KsAtHead s 0x31 c →
      let a := ksByte c 0
      let b := ksByte c 1
      let m := ksByte c 2
      let live (n : Nat) (p : Partition) : Prop := partOf s n = some p ∧ p.deleting = false
      let refuses (e : BitVec 8) : Prop := ∃ u : State, exec .lockstepSet s = .next u ∧ KsReports s u c e ∧ UnitsKept s u ∧ u.pairs = s.pairs
      let same (p q : Partition) : Prop := a ≠ b ∧ p.tiles.length = q.tiles.length ∧ p.cur.chain = q.cur.chain ∧ sameWeights s a b p q = true ∧
        ∀ d ∈ spanDies p, d ∉ spanDies q
      (64 ≤ a ∨ 64 ≤ b ∨ 1 < ksByte c 3 → refuses 0x22) ∧
      (a < 64 → b < 64 → ksByte c 3 = 1 →
        ((∀ p, ¬ live a p) → refuses 0x10) ∧
        (∀ p, live a p →
          (m = 0xFF → (∀ q, ¬ live b q) → refuses 0x10) ∧
          (inPair s a = true → (m = 0xFF → ∃ q, live b q) → refuses (Config.refusalCode 0x31)) ∧
          (∀ q, m = 0xFF → live b q → ¬ same p q ∨ inPair s b = true → refuses (Config.refusalCode 0x31)) ∧
          (inPair s a = false → (m = 0xFF → inPair s b = false ∧ ∃ q, live b q ∧ same p q) →
            ∃ u : State, exec .lockstepSet s = .next u ∧ KsReports s u c 0 ∧ UnitsKept s u ∧ u.pairs = s.pairs ++ [{ primary := a, mirror := b, module := m }]))) ∧
      (a < 64 → b < 64 → ksByte c 3 = 0 →
        ((∀ q ∈ s.pairs, ¬ (q.primary = a ∧ q.mirror = b ∧ q.module = m)) → refuses (Config.refusalCode 0x31)) ∧
        ((∃ q ∈ s.pairs, q.primary = a ∧ q.mirror = b ∧ q.module = m) →
          ∃ u : State, exec .lockstepSet s = .next u ∧ KsReports s u c 0 ∧ UnitsKept s u ∧
            (∀ q ∈ u.pairs, q ∈ s.pairs ∧ ¬ (q.primary = a ∧ q.mirror = b ∧ q.module = m)) ∧
            ∀ q ∈ s.pairs, ¬ (q.primary = a ∧ q.mirror = b ∧ q.module = m) → q ∈ u.pairs)))

/-! ## Health -/

/-- R460 to R464: a test of a spare, due or forced, begins where the tile stands; the role of a mapped tile moves to the lowest free spare
first, and without one the tile is not tested, and counted; a die runs one test at a time, and a retired tile none; GRACE ms after a test of
a mapped tile fell due SAVE is delivered to it; a tile whose signature is the fused one is a spare again, any other is retired with a suspect
event of its die. TAP_FORCE ends with the code of its refusal where it names no tile that can be tested.
Model's choices it rests on: notes 95 and 102. -/
def Obligations.TapTestsComplete : Prop :=
  ∀ (s : State) (die : Die) (pt : PT),
    let k := tileKey die pt
    let idle : Prop := mfind s.hub.taps die = none ∧ s.hub.tapQueue = [] ∧ k ∉ s.hub.retired ∧ dieUp s die = true ∧ ltOf s die pt = none
    let begun (u : State) (due : Nat) (cmd : Option Nat) : Prop :=
      mfind u.hub.taps die = some { pt := pt, due := due, step := 5, cmd := cmd } ∧ (tileOf u die pt).seq.status = .test ∧
        (tileOf u die pt).mem = (tileOf s die pt).mem ∧ fld u (hltB + 0x100 + 4 * die) 8 8 = pt.val ∧
        (∀ d p, tileKey d p ≠ k → tileOf u d p = tileOf s d p) ∧ u.dies = s.dies ∧ u.host = s.host
    let mapped : Prop := mfind s.hub.taps die = none ∧ s.hub.tapQueue = [] ∧ k ∉ s.hub.retired ∧ dieUp s die = true
    let same (e : Nat × TapJob) : Bool := e.1 == die.val && e.2.pt == pt.val
    (∀ j : TapJob, mfind s.hub.taps die = some j →
      ((j.pt = pt.val ∨ s.hub.tapQueue.any same = true) → exec (.tapTestDue die pt) s = .next s) ∧
      (j.pt ≠ pt.val → s.hub.tapQueue.any same = false →
        exec (.tapTestDue die pt) s = .next { s with hub := { s.hub with tapQueue := s.hub.tapQueue ++ [(die.val, { pt := pt, due := mltNs s })] } })) ∧
    (mfind s.hub.taps die = none → s.hub.tapQueue = [] → k ∈ s.hub.retired ∨ dieUp s die = false → exec (.tapTestDue die pt) s = .next s) ∧
    (∀ lt : Nat, mapped → ltOf s die pt = some lt → freeSpares s die = [] →
      exec (.tapTestDue die pt) s = .next (bump s (hltB + 0x100 + 4 * die) 0 8 1)) ∧
    (∀ (lt sp : Nat) (rest : List Nat), mapped → ltOf s die pt = some lt → freeSpares s die = sp :: rest →
      (tileOf s die pt).part ≠ none → (tileOf s die pt).ended = false → ∃ u : State, exec (.tapTestDue die pt) s = .next u ∧
        mfind u.hub.taps die = some { pt := pt, due := mltNs s, lt := some lt, spare := some sp, step := 1 } ∧
        u.tiles = s.tiles ∧ u.dies = s.dies ∧ u.ops = s.ops ∧ u.regs = s.regs) ∧
    (∃ u : State, exec (.tapTestDue die pt) s = .next u) ∧
    (∀ c : KsCmd, KsAtHead s 0x40 c →
      (15 < ksByte c 0 → ∃ u : State, exec .tapForce s = .next u ∧ KsReports s u c 0x22 ∧ u.tiles = s.tiles ∧ u.dies = s.dies ∧ u.hub.taps = s.hub.taps) ∧
      (ksByte c 0 ≤ 15 → 135 < ksByte c 2 ∨ tileKey (ksByte c 0) (ksByte c 2) ∈ s.hub.retired ∨ dieUp s (ksByte c 0) = false →
        ∃ u : State, exec .tapForce s = .next u ∧ KsReports s u c 0x10 ∧ u.tiles = s.tiles ∧ u.dies = s.dies ∧ u.hub.taps = s.hub.taps)) ∧
    (∀ c : KsCmd, KsAtHead s 0x40 c → ksByte c 0 = die.val → ksByte c 2 = pt.val → k ∉ s.hub.retired → dieUp s die = true →
      let due := if (ksByte c 1).testBit 0 then mltNs s - fld s (hltB + 4) 0 16 * 1000000 else mltNs s
      let job : TapJob := { pt := pt, due := due, cmd := some (ksId c) }
      (∀ j, mfind s.hub.taps die = some j → ∃ u : State, exec .tapForce s = .next u ∧ u.ks.queue = [] ∧ u.ks.running = s.ks.running ++ [c] ∧
        u.hub = { s.hub with tapQueue := s.hub.tapQueue ++ [(die.val, job)] } ∧ u.tiles = s.tiles ∧ u.dies = s.dies ∧ u.ops = s.ops) ∧
      (∀ (lt sp : Nat) (rest : List Nat), mfind s.hub.taps die = none → ltOf s die pt = some lt → freeSpares s die = sp :: rest →
        (tileOf s die pt).part ≠ none → (tileOf s die pt).ended = false → ∃ u : State, exec .tapForce s = .next u ∧
          u.ks.queue = [] ∧ u.ks.running = s.ks.running ++ [c] ∧ u.tiles = s.tiles ∧ u.dies = s.dies ∧
          mfind u.hub.taps die = some { job with lt := some lt, spare := some sp })) ∧
    (idle → ∃ u : State, exec (.tapTestDue die pt) s = .next u ∧ begun u (mltNs s) none ∧ u.ks = s.ks) ∧
    (∀ c : KsCmd, KsAtHead s 0x40 c → ksByte c 0 = die.val → ksByte c 2 = pt.val → idle →
      ∃ u : State, exec .tapForce s = .next u ∧ u.ks.queue = [] ∧ u.ks.running = s.ks.running ++ [c] ∧
        begun u (if (ksByte c 1).testBit 0 then mltNs s - fld s (hltB + 4) 0 16 * 1000000 else mltNs s) (some (ksId c))) ∧
    (∀ (j : TapJob) (area : W32), mfind s.hub.taps die = some j → j.pt = pt.val → j.step = 1 →
      (mltNs s < j.due + fld s (hltB + 4) 0 16 * 1000000 → exec (.tapGraceExpiry die area) s = .next s) ∧
      (j.due + fld s (hltB + 4) 0 16 * 1000000 ≤ mltNs s →
        ∃ u : State, exec (.tapGraceExpiry die area) s = .next u ∧ mfind u.hub.taps die = some { j with step := 2 } ∧
          (let t := tileOf s die pt
           let busy : Prop := t.seq.status = .saving ∨ t.seq.status = .restoring
           (t.saved = true → tileOf u die pt = { t with saved := false, saveArea := area.toNat, seq := { t.seq with status := .saving } }) ∧
           (t.saved = false → ¬ busy →
             tileOf u die pt = acceptReqs { t with saveArea := area.toNat, seq := { t.seq with reqs := { t.seq.reqs with save := true } } }) ∧
           (t.saved = false → busy → tileOf u die pt = { t with seq := { t.seq with reqs := { t.seq.reqs with saveAgain := some area.toNat } } })) ∧
          (∀ d p, tileKey d p ≠ k → tileOf u d p = tileOf s d p) ∧ u.regs = s.regs)) ∧
    ((∀ j : TapJob, mfind s.hub.taps die = some j → j.step ≠ 1) → ∀ area : W32, exec (.tapGraceExpiry die area) s = .next s) ∧
    ((∀ j : TapJob, mfind s.hub.taps die = some j → j.step ≠ 5) → ∀ signature : W64, exec (.tapTestResult die signature) s = .next s) ∧
    (∀ signature : W64, ∃ u : State, exec (.tapTestResult die signature) s = .next u) ∧
    (∀ (j : TapJob) (signature : W64), mfind s.hub.taps die = some j → j.pt = pt.val → j.step = 5 → s.hub.tapQueue = [] →
      ∃ u : State, exec (.tapTestResult die signature) s = .next u ∧ mfind u.hub.taps die = none ∧ (tileOf u die pt).seq.status = .idle ∧
        (signature = Config.tapSignature die pt → k ∈ u.hub.passed ∧ u.hub.retired = s.hub.retired) ∧
        (signature ≠ Config.tapSignature die pt → k ∉ u.hub.passed ∧ u.hub.retired = s.hub.retired ++ [k] ∧
          flag u (hltB + 0x2200 + 4 * die) 3 = true ∧ flag u hltB 2 = true) ∧
        (∀ (n : Nat) (c : KsCmd) (o : Op), j.cmd = some (n + 1) → s.ks.running = [c] → c.op = some n → opOf s n = some o →
          ∃ x : Op, opOf u n = some x ∧ x.phase = .recordDue ∧ x.code = 0))

/-- R387, R465, R466, R491: a die that is commanded out, that raised more than four suspect events in 60 s, that must move a logical tile and has no
spare, whose root PLL stopped, or that was at its limit of 110 °C for 1 s, is fenced: it answers nothing, and no partition has a tile on it; where a
tile of it is being saved, the fence waits for the save. Where the hub is at its limit, power good is withdrawn and nothing is fenced. A
stopped domain is recorded with a suspect event; a crossing that times out is recorded too, and a register access that waited on it is a bus
error. A fenced die that is powered down returns with the tiles that pass its test, or stays fenced where they are too few.
Model's choices it rests on: notes 72, 101, 102, 107, 119 and 127. -/
def Obligations.FencesComplete : Prop :=
  ∀ (s : State) (die : Die),
    let out (u : State) : Prop := (dieOf u die).fenced = true ∧ flag u hltB 1 = true ∧
      ∀ n q, partOf u n = some q → ∀ t ∈ q.tiles, t / 128 ≠ die.val
    let seen (u : State) (d dom : Nat) : Prop := flag u (clpB + 0x30) 31 = true ∧ fld u (clpB + 0x30) 15 5 = dom ∧
      flag u (clpB + 0x30) 20 = decide (d = 16) ∧ fld u (clpB + 0x30) 0 15 = min (fld s (clpB + 0x30) 0 15 + 1) (2 ^ 15 - 1)
    let due (u : State) (c : FenceCause) : Prop := mfind u.hub.fenceDue die = some c ∧ (dieOf u die).fenced = false ∧ u.parts = s.parts
    let cooked (d : Nat) : Prop := ∃ t, mfind s.pwr.hot d = some t ∧ t + 1000000000 ≤ mltNs s
    let many : Prop := 4 < ((mget [] s.hub.suspects die).filter (fun t => decide (mltNs s < t + 60000000000))).length
    let stuck (lt : Fin 128) : Prop := ptOf s die lt ≠ none ∧ freeSpares s die = []
    (∀ c : KsCmd, KsAtHead s 0x41 c →
      (15 < ksByte c 0 → ∃ u : State, exec .dieFence s = .next u ∧ KsReports s u c 0x22 ∧ UnitsKept s u) ∧
      (ksByte c 0 = die.val → dieUp s die = false → ∃ u : State, exec .dieFence s = .next u ∧ KsReports s u c 0 ∧ UnitsKept s u) ∧
      (ksByte c 0 = die.val → dieUp s die = true → savingOn s die = true → exec .dieFence s = .next s)) ∧
    (¬ many → exec (.fenceDecision die none) s = .next s) ∧
    (∀ lt : Fin 128, ¬ stuck lt ∨ dieUp s die = false → exec (.fenceDecision die (some lt)) s = .next s) ∧
    (∀ d : Fin 17, ¬ cooked d → exec (.shutdownLimit d) s = .next s) ∧
    (dieUp s die = true → savingOn s die = true →
      (many → ∃ u : State, exec (.fenceDecision die none) s = .next u ∧ due u .suspects ∧ u.tiles = s.tiles) ∧
      (∀ lt : Fin 128, stuck lt → ∃ u : State, exec (.fenceDecision die (some lt)) s = .next u ∧ due u .unmappable ∧ u.tiles = s.tiles) ∧
      (cooked die → ¬ cooked 16 → ∃ u : State, exec (.shutdownLimit ⟨die.val, by omega⟩) s = .next u ∧ due u .temperature ∧ u.tiles = s.tiles)) ∧
    (dieUp s die = true → savingOn s die = false →
      (∀ c : KsCmd, KsAtHead s 0x41 c → ksByte c 0 = die.val → ∃ u : State, exec .dieFence s = .next u ∧ out u ∧ u.ks.queue = []) ∧
      (many → ∃ u : State, exec (.fenceDecision die none) s = .next u ∧ out u) ∧
      (∀ lt : Fin 128, stuck lt → ∃ u : State, exec (.fenceDecision die (some lt)) s = .next u ∧ out u) ∧
      (cooked die → ¬ cooked 16 → ∃ u : State, exec (.shutdownLimit ⟨die.val, by omega⟩) s = .next u ∧ out u) ∧
      (∀ dom : Fin 18, ∃ u : State, exec (.clockDomainStopped ⟨die.val, by omega⟩ dom true) s = .next u ∧ out u)) ∧
    (∀ d : Fin 17, cooked d → cooked 16 → ∃ u : State, exec (.shutdownLimit d) s = .next u ∧ u.pwr.good = false ∧ u.ops = []) ∧
    (∀ (d : Fin 17) (dom : Fin 18) (root : Bool) (w : Option BusAccess),
      (∃ u : State, exec (.clockDomainStopped d dom root) s = .next u) ∧ (∃ u : State, exec (.crossingTimeout d dom w) s = .next u)) ∧
    (∀ dom : Fin 18, dieUp s die = true → dom.val ≠ 1 → dom.val ≠ 11 → domainPorts s die dom ≠ [] →
      ∃ u : State, exec (.clockDomainStopped ⟨die.val, by omega⟩ dom false) s = .next u ∧ seen u die dom ∧ (die.val, dom.val) ∈ u.hub.stopped ∧
        flag u (hltB + 0x2200 + 4 * die) 5 = true ∧ u.tiles = s.tiles ∧ (∀ p ∈ domainPorts s die dom, raisedAlready (dieOf s die).runnel (domainPorts s die dom) = false →
          (sluiceOf u die p).phase ≠ .opened)) ∧
    (dieUp s die = true → ∃ u : State, exec (.clockDomainStopped ⟨die.val, by omega⟩ 1 false) s = .next u ∧ (die.val, 1) ∈ u.hub.stopped ∧
      ∀ p : PT, (tileOf u die p).part ≠ none → (tileOf u die p).ended = true ∧ (tileOf u die p).seq.status = .idle) ∧
    (dieUp s die = true → (portOf s die).phase = .up ∨ (portOf s die).phase = .lp1 ∨ (portOf s die).phase = .lp2 →
      ∃ u : State, exec (.clockDomainStopped ⟨die.val, by omega⟩ 9 false) s = .next u ∧ (portOf u die).phase = .recovery) ∧
    (∀ (d : Fin 17), (∀ e ∈ s.tcs, e.2.waiting = []) → ∃ u : State, exec (.clockDomainStopped d 11 false) s = .next u ∧ seen u d 11 ∧
      (d.val, 11) ∈ u.hub.stopped ∧ u.tiles = s.tiles ∧ ∀ l, l < 2 → l = 0 ∨ twoLinks s = true → raw u (abiB l + 0x1024) = 0xFFFFFFFF) ∧
    (∀ (d : Fin 17) (dom : Fin 18), dom.val ≠ 11 → (d.val = 16 ∨ dieUp s d = false ∨ domainPorts s d dom = []) →
      (∃ u : State, exec (.clockDomainStopped d dom false) s = .next u ∧ seen u d dom ∧ (d.val, dom.val) ∈ u.hub.stopped ∧
        (d.val < 16 → flag u (hltB + 0x2200 + 4 * d) 5 = true) ∧ u.tiles = s.tiles ∧ u.dies = s.dies) ∧
      (∃ u : State, exec (.crossingTimeout d dom none) s = .next u ∧ seen u d dom ∧ u.ops = s.ops ∧ u.tiles = s.tiles ∧ u.dies = s.dies)) ∧
    (∀ (d : Fin 17) (dom : Fin 18) (a : BusAccess) (p : RegPlace), (a.req = 1 → twoLinks s = true) → a.size = 4 → a.off.val % 4 = 0 → a.be = 0xF →
      locate s a.req a.off = .ok p → p.die = d.val → p.dom = dom.val → flag s 8 30 = false →
      ∃ u : State, exec (.crossingTimeout d dom (some a)) s = .next u ∧ seen u d dom ∧ flag u 8 30 = true ∧
        raw u 0x10 = BitVec.ofNat 32 a.off ∧ fld u 0x14 24 5 = 4 ∧ u.out = .abort a.req a.write :: s.out ∧ u.tiles = s.tiles) ∧
    (∀ (c : KsCmd) (fails : List PT), KsAtHead s 0x42 c → ksByte c 0 = die.val → dieUp s die = false → (dieOf s die).powered = false →
      (∀ j, s.hub.fw = some j → j.roll = false ∨ j.step ≠ 4) → lTiles s ≤ (goodOnes s die fails).length →
      ∃ u : State, exec (.dieUnfence fails) s = .next u ∧ KsReports s u c 0 ∧ (dieOf u die).fenced = false ∧ (dieOf u die).powered = true ∧
        flag u hltB 1 = true ∧ (∀ lt, lt < lTiles s → (ptOf u die lt).map (·.1) = (goodOnes s die fails)[lt]?) ∧ u.parts = s.parts) ∧
    (∀ (c : KsCmd) (fails : List PT), KsAtHead s 0x42 c →
      (15 < ksByte c 0 → ∃ u : State, exec (.dieUnfence fails) s = .next u ∧ KsReports s u c 0x22 ∧ UnitsKept s u) ∧
      (ksByte c 0 = die.val → dieUp s die = true → ∃ u : State, exec (.dieUnfence fails) s = .next u ∧ KsReports s u c (Config.refusalCode 0x42) ∧ UnitsKept s u) ∧
      (ksByte c 0 = die.val → dieUp s die = false → (dieOf s die).powered = true ∨ (∃ j, s.hub.fw = some j ∧ j.roll = true ∧ j.step = 4) →
        exec (.dieUnfence fails) s = .next s) ∧
      (ksByte c 0 = die.val → dieUp s die = false → (dieOf s die).powered = false → (∀ j, s.hub.fw = some j → j.roll = false ∨ j.step ≠ 4) →
        (goodOnes s die fails).length < lTiles s → ∃ u : State, exec (.dieUnfence fails) s = .next u ∧ KsReports s u c 0x10 ∧ UnitsKept s u))

/-- R469, R470, R473, R476: an update's image is refused with the code of the check it fails, or written to the bank that is not ACTIVE; once
programmed, the directory makes that bank ACTIVE; an image that is to be activated takes effect at once where its handover is accepted, and at the
next power-up otherwise; what does not read back as programmed, or does not fit its bank, ends the update with E_ECC and leaves the bank that
is ACTIVE as it is. A roll takes the dies one after the other, and starts the next only once the one before is back. A calibration is written to the
slot not in force, at most once an hour, its VALID word last. The oldest fault record not delivered goes to the
host ring, or waits, counted once, while it is full.
Model's choices it rests on: notes 73, 104, 105 and 145. -/
def Obligations.FirmwareCompletes : Prop :=
  ∀ s : State,
    (∀ (c : KsCmd) (ok : Bool), KsAtHead s 0x01 c →
      let b := hostRead s (fieldLe c.params 8 8) (min (fieldLe c.params 4 4) (130048 * 1024))
      ∃ u : State, exec (.fwUpdate false ok) s = .next u ∧ u.tiles = s.tiles ∧ u.host = s.host ∧ u.ks.queue = [] ∧
        (∀ e, fwFault s c b = some e → KsReports s u c e ∧ u.hub.fw = s.hub.fw ∧ u.hub.bootFlash = s.hub.bootFlash) ∧
        (fwFault s c b = none → ok = true → bankFits s (ksByte c 0) b = true → u.ks.running = s.ks.running ++ [c] ∧ fld u (hltB + 0x300) 29 3 = 3 ∧
          u.hub.bootFlash = (writeBank s (ksByte c 0) b).hub.bootFlash ∧
          u.hub.fw = some { typ := ksByte c 0, activate := (ksByte c 1).testBit 0, roll := (ksByte c 1).testBit 1, step := 3, image := b, cmd := ksId c }) ∧
        (fwFault s c b = none → ok = false ∨ bankFits s (ksByte c 0) b = false →
          KsReports s u c 0x50 ∧ u.hub.bootFlash = s.hub.bootFlash ∧ u.hub.fw = s.hub.fw)) ∧
    (∀ (c : KsCmd) (ok : Bool), s.ks.queue = [c] → c.accepted = true → ksCode c = 0x01 → c.params.length < ksNeed 0x01 →
      ∃ u : State, exec (.fwUpdate false ok) s = .next u ∧ KsReports s u c 0x22 ∧ UnitsKept s u ∧ u.hub = s.hub) ∧
    (∀ (ok : Bool), (∀ c rest, s.ks.queue = c :: rest → c.accepted = false ∨ ksCode c ≠ 0x01) → exec (.fwUpdate false ok) s = .next s) ∧
    (∀ (ok : Bool) (fails : List PT), ((∀ j, s.hub.fw = some j → j.step ≠ 3) → exec (.fwUpdate true ok) s = .next s) ∧
      ((∀ j, s.hub.fw = some j → j.step ≠ 4) → exec (.liveActivation fails) s = .next s)) ∧
    (∀ j : FwJob, s.hub.fw = some j →
      (j.step = 3 → ∃ u : State, exec (.fwUpdate true true) s = .next u ∧ u.hub.bootFlash = (writeDir s j.typ j.image).hub.bootFlash ∧
        (j.activate = true → u.hub.fw = some { j with step := 4 } ∧ fld u (hltB + 0x300) 29 3 = 4) ∧
        (j.activate = false → u.hub.fw = none ∧ flag u (hltB + 0x300) 28 = true ∧ flag u hltB 3 = true ∧ u.hub.journal = s.hub.journal ++ [(j.typ, 0)]) ∧
        u.tiles = s.tiles) ∧
      (j.step = 3 → ∃ u : State, exec (.fwUpdate true false) s = .next u ∧ u.hub.fw = none ∧ u.hub.bootFlash = s.hub.bootFlash ∧
        u.hub.journal = s.hub.journal ++ [(j.typ, 0x50)] ∧ u.hub.running = s.hub.running ∧ u.tiles = s.tiles) ∧
      (∀ fails : List PT, j.step = 4 →
        (j.typ = 3 ∨ (j.typ = 4 ∧ j.roll = false) → ∃ u : State, exec (.liveActivation fails) s = .next u ∧ u.hub.fw = none ∧
          flag u (hltB + 0x300) 28 = true ∧ u.hub.running = s.hub.running) ∧
        (j.typ ≠ 3 → j.typ ≠ 4 → ∃ u : State, exec (.liveActivation fails) s = .next u ∧ u.hub.fw = none ∧ flag u hltB 3 = true ∧
          (takesOver s j = true → mfind u.hub.running j.typ = some j.image ∧ u.hub.journal = s.hub.journal ++ [(j.typ, 0)]) ∧
          (takesOver s j = false → u.hub.running = s.hub.running ∧ u.hub.journal = s.hub.journal ++ [(j.typ, 0x22)])) ∧
        (j.typ = 4 → j.roll = true → j.rolling = false →
          (∀ d, (allDies.filter (fun d => decide (j.die ≤ d) && dieUp s d)).head? = some d →
            ∃ u : State, exec (.liveActivation fails) s = .next u ∧ u.hub.fw = some { j with die := d, rolling := true } ∧
              (savingOn s d = false → (dieOf u d).fenced = true) ∧ (savingOn s d = true → mfind u.hub.fenceDue d = some .command)) ∧
          ((allDies.filter (fun d => decide (j.die ≤ d) && dieUp s d)) = [] →
            ∃ u : State, exec (.liveActivation fails) s = .next u ∧ u.hub.fw = none ∧ mfind u.hub.running 4 = some j.image)) ∧
        (j.typ = 4 → j.roll = true → j.rolling = true →
          let good := goodOnes s j.die fails
          ((dieOf s j.die).powered = true → exec (.liveActivation fails) s = .next s) ∧
          ((dieOf s j.die).powered = false → ∃ u : State, exec (.liveActivation fails) s = .next u ∧ u.hub.fw = some { j with die := j.die + 1, rolling := false } ∧
            (good.length < lTiles s → u.dies = s.dies ∧ u.parts = s.parts) ∧
            (lTiles s ≤ good.length → (dieOf u j.die).fenced = false ∧ (dieOf u j.die).powered = true ∧
              ∀ lt, lt < lTiles s → (ptOf u j.die lt).map (·.1) = good[lt]?))))) ∧
    (∀ (data : List Byte) (whole : Bool), 65472 < data.length → exec (.calibrationWrite data whole) s = .fault .illFormed) ∧
    (∀ data : List Byte, data.length ≤ 65472 →
      (∀ (t : Nat) (whole : Bool), s.hub.calLast = some t → mltNs s < t + 3600000000000 → exec (.calibrationWrite data whole) s = .next s) ∧
      ((∀ t, s.hub.calLast = some t → t + 3600000000000 ≤ mltNs s) →
        let slot := match calUsed s with | some i => 1 - i | none => 0
        let h := ascii "NRV960CL" ++ leBytes 4 (match calUsed s with | some i => fieldLe (calSlot s i) 8 4 + 1 | none => 1) ++ leBytes 4 data.length
        (∃ u : State, exec (.calibrationWrite data false) s = .next u ∧ u.hub.calLast = some (mltNs s) ∧
          flashRead u (slot * 0x10000 + 60) 4 = [0xFF, 0xFF, 0xFF, 0xFF] ∧
          (∀ a, a < slot * 0x10000 ∨ (slot + 1) * 0x10000 ≤ a → flashRead u a 1 = flashRead s a 1) ∧ u.regs = s.regs ∧ u.tiles = s.tiles) ∧
        ∃ u : State, exec (.calibrationWrite data true) s = .next u ∧ u.hub.calLast = some (mltNs s) ∧
          flashRead u (slot * 0x10000) 20 = h ++ leBytes 4 (crc32 (h ++ data)) ∧ flashRead u (slot * 0x10000 + 60) 4 = leBytes 4 0x5A5AA5A5 ∧
          flashRead u (slot * 0x10000 + 64) data.length = data ∧ flag u (hltB + 0x308) 31 = (slot == 1) ∧ flag u (hltB + 0x308) 29 = false ∧
          flag u hltB 10 = true ∧ u.tiles = s.tiles)) ∧
    ((∀ r ∈ s.hub.faults, r.delivered = true) ∨ flag s (hltB + 0x408) 31 = false → exec .faultRecordDelivery s = .next s) ∧
    (∀ r : FaultRec, s.hub.faults.find? (fun r => !r.delivered) = some r → flag s (hltB + 0x408) 31 = true →
      let z := 2 ^ fld s (hltB + 0x408) 24 4
      let head := fld s (hltB + 0x40C) 0 12
      let slot := (raw s (hltB + 0x400)).toNat + (raw s (hltB + 0x404)).toNat * 2 ^ 32 + 512 * (head % z)
      ((head + 1) % z ≠ fld s (hltB + 0x410) 0 12 % z → ∃ u : State, exec .faultRecordDelivery s = .next u ∧
        hostRead u slot 512 = flashRead s (flogAddr r.slot) 512 ∧ (∀ a, a < slot ∨ slot + 512 ≤ a → mget 0 u.host a = mget 0 s.host a) ∧
        fld u (hltB + 0x40C) 0 12 = (head + 1) % z % 4096 ∧ flag u hltB 0 = true ∧
        u.hub.faults = updFirst (fun x => x == r) (fun x => { x with delivered := true }) s.hub.faults) ∧
      ((head + 1) % z = fld s (hltB + 0x410) 0 12 % z → ∃ u : State, exec .faultRecordDelivery s = .next u ∧ u.host = s.host ∧
        fld u (hltB + 0x40C) 0 12 = head ∧
        fld u (hltB + 0x408) 0 16 = (if r.delayed then fld s (hltB + 0x408) 0 16 else min (fld s (hltB + 0x408) 0 16 + 1) (2 ^ 16 - 1))))

/-! ## Bring-up -/

/-- R267 to R277, R447, R481: power good takes the straps and the KEYSRC fuse; the stages follow each other: A once both firmwares pass, or recovery
stage A; internal DONE once the shells are loaded, with the dies that fail fenced; B at external DONE, at its time limit, or alone; the items
of stage C one by one, and C when all are complete; the clock's item is done once the governor has raised CK_TILE to 1.2 GHz. An event that finds
the module in another stage changes nothing. A configuration request is retried until a stage is entered.
Model's choices it rests on: notes 41, 102 and 146. -/
def Obligations.BringUpCompletes : Prop :=
  ∀ s : State,
    let enteredB (u : State) : Prop := stageOf u = 2 ∧ cap u 1 = true ∧ cap u 2 = true ∧ raw u (cfgB + 0x14) = BitVec.ofNat 32 (sincePg s)
    let early : Prop := s.hub.started = true ∧ s.hub.entered = false
    (∀ (split vbat : Bool) (addr : BitVec 2), s.pwr.enabled = false ∨ s.hub.started = true → exec (.powerGood split addr vbat) s = .next s) ∧
    (∀ octal usable : Bool, ¬ early → exec (.stageAEntry octal) s = .next s ∧ exec (.recoveryStageA usable octal) s = .next s) ∧
    (∀ (split vbat : Bool) (addr : BitVec 2), s.pwr.enabled = true → s.hub.started = false →
      ∃ u : State, exec (.powerGood split addr vbat) s = .next u ∧ u.hub.started = true ∧ u.pwr.good = true ∧ u.pwr.split8 = split ∧ u.pwr.addr = addr ∧
        u.pwr.vbat = vbat ∧ flag u pwrB 31 = true ∧ u.ks = { readCounters s.ks with keysrcNow := s.ks.keysrc } ∧ flag u cfgB 28 = (imageKey u.ks).isNone) ∧
    (∀ octal : Bool, early →
      let r := loadFirst s octal
      (∃ u : State, exec (.stageAEntry octal) s = .next u ∧
        (r.1 = true → r.2.1 = true → stageOf u = 1 ∧ cap u 0 = true ∧ u.hub.entered = true ∧ raw u (cfgB + 0x10) = BitVec.ofNat 32 (sincePg s)) ∧
        (r.1 = false ∨ r.2.1 = false → u = s)) ∧
      (∃ u : State, exec (.recoveryStageA false octal) s = .next u ∧ u.hub.entered = true ∧ u.hub.romServes = true ∧ u.regs = s.regs) ∧
      (∃ u : State, exec (.recoveryStageA true octal) s = .next u ∧
        (r.1 = false ∨ r.2.1 = false → u.hub.entered = true ∧ u.hub.romServes = !r.1) ∧ (r.1 = true → r.2.1 = true → u = s))) ∧
    (∀ link : Fin 2, (link = 1 → twoLinks s = true) →
      exec (.configurationRequest link) s = .next { s with out := .config link (!s.hub.entered) :: s.out }) ∧
    (twoLinks s = false → exec (.configurationRequest 1) s = .next s) ∧
    (∀ (shells bad : List Die) (fails : List (Die × PT)), stageOf s ≠ 1 ∨ flag s (cfgB + 0xC) 29 = true ∨ s.hub.verHold = true →
      exec (.internalDone bad fails shells) s = .next s) ∧
    (∀ (shells bad : List Die) (fails : List (Die × PT)), stageOf s = 1 → flag s (cfgB + 0xC) 29 = false → s.hub.verHold = false →
      let r3 := loadLater s 3
      let r4 := loadLater r3.2 4
      let r5 := loadLater r4.2 5
      let r6 := loadLater r5.2 6
      let held (ok : Bool) (t : Nat) : Prop := ok = false ∧ copyOk r6.2 t = true
      let low : Prop := r3.1 = false ∨ r4.1 = false ∨ held r5.1 5 ∨ ∀ d : Die, d ∈ shells
      (low → exec (.internalDone bad fails shells) s = .next r6.2 ∧ flag r6.2 (cfgB + 0xC) 29 = false) ∧
      ∃ u : State, exec (.internalDone bad fails shells) s = .next u ∧
        (¬ low →
          flag u (cfgB + 0xC) 29 = true ∧ fld u (cfgB + 0xC) 0 17 = 0x1FFFF ∧ u.hub.idoneAt = some (sincePg s) ∧ u.hub.xdoneDriven = false ∧
          (∀ d : Die, d ∈ shells ∨ d ∈ bad ∨ r5.1 = false ∨ (r6.1 = false ∧ copyOk r6.2 6 = false) ∨ (goodOnes s d (failsOn d fails)).length < 32 →
            flag u cfgB d = true ∧ (dieOf u d).masked = true ∧ ((∀ e : Die, savingOn s e = false) → (dieOf u d).fenced = true)) ∧
          (held r6.1 6 → flag u cfgB 29 = true) ∧
          (∀ d : Die, dieUp u d = true → (dieOf u d).masked = false → ∀ lt, lt < 32 → (ptOf u d lt).map (·.1) = (goodOnes s d (failsOn d fails))[lt]?))) ∧
    (s.hub.xdoneDriven = true → exec .externalDoneHigh s = .next s) ∧
    (s.hub.xdoneDriven = false → awaitsB s = false ∨ flag s (cfgB + 0xC) 30 = false → exec .externalDoneHigh s = .next (setFlag s (cfgB + 0xC) 31 true)) ∧
    (awaitsB s = false ∨ flag s (cfgB + 0xC) 30 = false ∨ (∀ t, s.hub.idoneAt = some t → sincePg s < t + s.hub.xdoneTo * 100000) →
      exec .xdoneTimeout s = .next s) ∧
    (awaitsB s = false ∨ flag s (cfgB + 0xC) 30 = true → exec .stageBEntry s = .next s) ∧
    (awaitsB s = true →
      (flag s (cfgB + 0xC) 30 = true → s.hub.xdoneDriven = false → ∃ u : State, exec .externalDoneHigh s = .next u ∧ enteredB u ∧ flag u (cfgB + 0xC) 31 = true) ∧
      (∀ t, flag s (cfgB + 0xC) 30 = true → s.hub.idoneAt = some t → t + s.hub.xdoneTo * 100000 ≤ sincePg s →
        ∃ u : State, exec .xdoneTimeout s = .next u ∧ enteredB u ∧ flag u cfgB 27 = true) ∧
      (flag s (cfgB + 0xC) 30 = false → ∃ u : State, exec .stageBEntry s = .next u ∧ enteredB u)) ∧
    (∀ fails : List (Die × PT), stageOf s ≠ 2 ∨ cap s 4 = true → exec (.tilesFull fails) s = .next s) ∧
    (stageOf s ≠ 2 ∨ cap s 5 = true → exec .clkFull s = .next s) ∧
    (stageOf s ≠ 2 → exec .fmtWide s = .next s ∧ exec .hbmFull s = .next s ∧ exec .vidon s = .next s ∧ exec .stageCEntry s = .next s) ∧
    (stageOf s = 2 →
      (∀ fails : List (Die × PT), cap s 4 = false → ∃ u : State, exec (.tilesFull fails) s = .next u ∧ cap u 4 = true ∧
        ((∀ e : Die, savingOn s e = false) → s.ks.grades = [] → ∀ d lt, d < 16 → dieUp u d = true → lt < lTiles s → ptOf u d lt ≠ none)) ∧
      (cap s 5 = false → ∃ u : State, exec .clkFull s = .next u ∧ divN u = divN s ∧ nMax u = 48 ∧ flag u pwrB 30 = decide (divN s < 48) ∧
        cap u 5 = (divN s == 48) ∧ u.pwr.raising = (divN s != 48) ∧ u.tiles = s.tiles) ∧
      ((∃ d : Die, dieUp s d = true ∧ ∃ c, c < 32 ∧ mget false (dieOf s d).hbm.fast c = false) → exec .hbmFull s = .next s) ∧
      (s.hub.verHold = true ∨ (∃ d : Die, dieUp s d = true ∧ (portOf s d).phase = .training) → exec .vidon s = .next s) ∧
      (s.hub.verHold = true ∨ (∃ i, 3 ≤ i ∧ i ≤ 7 ∧ cap s i = false) → exec .stageCEntry s = .next s) ∧
      (∃ u : State, exec .fmtWide s = .next u ∧ cap u 3 = true ∧ (∀ k, k ≠ cfgB + 4 → raw u k = raw s k)) ∧
      ((∀ d, d < 16 → dieUp s d = true → ∀ c, c < 32 → mget false (dieOf s d).hbm.fast c = true) → ∃ u : State, exec .hbmFull s = .next u ∧ cap u 6 = true ∧ u.dies = s.dies) ∧
      (s.hub.verHold = false → (∀ d, d < 16 → dieUp s d = true → (portOf s d).phase ≠ .training) →
        ∃ u : State, exec .vidon s = .next u ∧ cap u 7 = true ∧ u.ports = s.ports) ∧
      (s.hub.verHold = false → (∀ i, 3 ≤ i → i ≤ 7 → cap s i = true) →
        ∃ u : State, exec .stageCEntry s = .next u ∧ stageOf u = 3 ∧ raw u (cfgB + 0x18) = BitVec.ofNat 32 (sincePg s)))

/-! ## Power -/

/-- R479 to R484, R491, R497: closing ENLOOP with an input between 44 and 57 V enables the supply; opening it, a thermal trip and the loss of power good
leave the registers at their reset values, no operation and no tile, and keep what chapter 20 says is kept: the fuses and the counter records, the
flashes, host memory. A droop is a suspect event; CPRS# low turns the port's cable supply on.

R485 to R489, R499, R500: an interval of the governor records its sample, shows its reasons, lowers N by one but not below NMIN where a
reason asks for it, and raises it by one after a quiet millisecond below NMAX with 100 W to spare; the fast clamp and PWRRED# take N to 24 at most, and
the clamp ends 1 ms after it began, not while PWRRED# holds it. Each reason that sets a ceiling keeps N below it, and the raise of CK_TILE between stages B
and C is done when N reaches 48.
Model's choices it rests on: notes 40, 41 and 50. -/
def Obligations.PowerCompletes : Prop :=
  (∀ s : State,
     let lost (u : State) : Prop := u.pwr.good = false ∧ u.pwr.enabled = false ∧ u.ops = [] ∧ u.tiles = [] ∧ u.dies = [] ∧ u.parts = [] ∧ u.clp = {} ∧
       (∀ k, k ≠ pwrB → k ≠ 4 → raw u k = regReset k) ∧ raw u 4 = revWord s.ks.madeB s.ks.memL48 ∧ flag u pwrB 31 = false ∧ fusesOf u.ks = fusesOf s.ks ∧ u.ks.store = s.ks.store ∧
       u.ks.vbatKey = (if s.pwr.vbat then s.ks.vbatKey else none) ∧ u.hub.bootFlash = s.hub.bootFlash ∧ u.hub.hubFlash = s.hub.hubFlash ∧
       u.hub.retired = s.hub.retired ∧ u.host = s.host
     (∃ u : State, exec .powerGoodWithdrawn s = .next u ∧ lost u ∧ u.pwr.loop = s.pwr.loop) ∧
     (∃ u : State, exec .enloopOpen s = .next u ∧ lost u ∧ u.pwr.loop = false ∧ u.pwr.tripped = false ∧ u.pwr.cbl = 0) ∧
     (∃ u : State, exec .thermalTrip s = .next u ∧ lost u ∧ u.pwr.tripped = true) ∧
     (∀ volts : Nat, ∃ u : State, exec (.enloopClose volts) s = .next u ∧ u.pwr.loop = true ∧ u.regs = s.regs ∧
       (4400 ≤ volts → volts ≤ 5700 → s.pwr.tripped = false → u.pwr.enabled = true ∧ u.pwr.cbl = s.pwr.cprs) ∧
       (volts < 4400 ∨ 5700 < volts ∨ s.pwr.tripped = true → u.pwr.enabled = s.pwr.enabled)) ∧
     (∀ die : Die, ∃ u : State, exec (.supplyDroop die) s = .next u ∧ flag u (hltB + 0x2200 + 4 * die) 5 = true ∧ u.tiles = s.tiles ∧
       mget [] u.hub.suspects die = mltNs s :: (mget [] s.hub.suspects die).filter (fun t => decide (mltNs s < t + 60000000000))) ∧
     (∀ port : Die, ∃ u : State, exec (.cprsAssert port) s = .next u ∧ u.pwr.cprs.getLsbD port.val = true ∧ u.pwr.cbl.getLsbD port.val = (s.pwr.enabled || s.pwr.cbl.getLsbD port.val) ∧
       (∀ i, i ≠ port.val → u.pwr.cprs.getLsbD i = s.pwr.cprs.getLsbD i ∧ u.pwr.cbl.getLsbD i = s.pwr.cbl.getLsbD i) ∧ u.regs = s.regs)) ∧
  (∀ s : State,
     (∀ x : PwrSample, x.tj.length = 17 → x.hbm.length = 16 →
       let n := divN s
       let vin : Bool := (decide (4400 ≤ x.volts) && decide (x.volts < 4800)) || (decide (5400 < x.volts) && decide (x.volts ≤ 5700))
       let hot : Bool := x.tj.any (fun t => decide (95 ≤ t)) || x.hbm.any (fun t => decide (95 ≤ t))
       ∃ u : State, exec (.governorInterval x) s = .next u ∧ flag u pwrB 27 = vin ∧ flag u pwrB 26 = decide (powerLimit s < x.watts) ∧
         flag u pwrB 25 = decide (80 < x.inlet) ∧ flag u pwrB 24 = decide (x.flow < 2500) ∧
         flag u pwrB 23 = x.tj.any (fun t => decide (95 ≤ t)) ∧ flag u pwrB 22 = x.hbm.any (fun t => decide (95 ≤ t)) ∧
         fld u (pwrB + 0xC) 0 16 = x.watts % 65536 ∧ (∀ i, i < 17 → fld u (pwrB + 0x100 + 4 * i) 8 8 = x.tj.getD i 0 % 256) ∧
         (powerLimit s < x.watts ∨ hot = true → divN u = (if nMin s < n then n - 1 else n) ∧ u.pwr.quiet = 0) ∧
         (x.watts ≤ powerLimit s → hot = false → vin = false → x.inlet ≤ 80 → 2500 ≤ x.flow → s.pwr.clamp = none →
           (n < nMax s → 950 ≤ s.pwr.quiet → x.watts + 100 ≤ powerLimit s → divN u = n + 1 ∧ u.pwr.quiet = 0) ∧
           (n ≤ nMax s → s.pwr.quiet < 950 → divN u = n ∧ u.pwr.quiet = s.pwr.quiet + 50)) ∧
         (let under (on : Bool) (c : Nat) : Nat := if on then max c (nMin s) else 48
          let top := min (min (min (nMax s) (under vin 36)) (min (under (decide (80 < x.inlet)) (48 - 2 * ((x.inlet - 80 + 1) / 2)))
            (under (decide (x.flow < 2500)) (48 * x.flow / 2500)))) (if s.pwr.clamp.isSome then 24 else 48)
          divN u = (if top < n ∨ powerLimit s < x.watts ∨ hot = true then (if nMin s < n then n - 1 else n)
            else if 950 ≤ s.pwr.quiet ∧ n < top ∧ x.watts + 100 ≤ powerLimit s then n + 1 else n)) ∧
         (s.pwr.raising = true → cap u 5 = (cap s 5 || divN u == 48) ∧ u.pwr.raising = (divN u != 48)) ∧ (s.pwr.raising = false → cap u 5 = cap s 5) ∧
         u.tiles = s.tiles) ∧
     (∀ x : PwrSample, x.tj.length ≠ 17 ∨ x.hbm.length ≠ 16 → exec (.governorInterval x) s = .fault .illFormed) ∧
     (s.pwr.clamp = none → exec .clampRelease s = .next s) ∧
     (∀ cause : Fin 3, ∃ u : State, exec (.fastClamp cause) s = .next u ∧ divN u = min (divN s) 24 ∧ flag u pwrB 29 = true ∧
       u.pwr.clamp = some (mltNs s) ∧ u.pwr.clampCause.testBit cause.val = true ∧ u.pwr.quiet = 0 ∧ u.tiles = s.tiles) ∧
     (∃ u : State, exec .pwrredAssert s = .next u ∧ u.pwr.pwrred = true ∧ flag u pwrB 28 = true ∧ divN u = min (divN s) 24 ∧ flag u pwrB 29 = true ∧
       u.pwr.clamp = some (mltNs s) ∧ u.pwr.clampCause.testBit 1 = true) ∧
     (∃ u : State, exec .pwrredRelease s = .next u ∧ u.pwr.pwrred = false ∧ flag u pwrB 28 = false ∧ divN u = divN s ∧ u.pwr.clamp = s.pwr.clamp) ∧
     (∀ t, s.pwr.clamp = some t →
       (mltNs s < t + 1000000 ∨ (s.pwr.clampCause.testBit 1 = true ∧ s.pwr.pwrred = true) → exec .clampRelease s = .next s) ∧
       (t + 1000000 ≤ mltNs s → s.pwr.clampCause.testBit 1 = false ∨ s.pwr.pwrred = false →
         ∃ u : State, exec .clampRelease s = .next u ∧ u.pwr.clamp = none ∧ flag u pwrB 29 = false ∧ divN u = divN s ∧ u.tiles = s.tiles)))

/-! ## The module as a whole -/

/-- A step on a queue that is not empty is the effect of its first command on the state with the queue's rest. -/
def Obligations.StepRunsFrontCommand : Prop :=
  ∀ (s : State) (c : Instr) (r : List Instr), step { s with pending := c :: r } = exec c { s with pending := r }

/-- R367: on an empty queue a powered module does what one CK_CLP cycle does: MLT and device time advance by 1.25 ns × (1 + FREQ + SLEW), and
nothing else changes but the count of cycles. That the tick stands in place of idling is the model's choice (note 1). -/
def Obligations.EmptyQueueTicks : Prop :=
  ∀ s : State, s.pending = [] →
    (s.pwr.good = false → step s = .next s) ∧
    (s.pwr.good = true → ∃ u : State, step s = .next u ∧
      (let n := (5 * ((2 ^ 40 : Nat) + s.clp.freq + s.clp.slew) / 4).toNat
       u.clp = { s.clp with mlt := (s.clp.mlt + n) % 2 ^ 104, dev := (s.clp.dev + n) % (2 ^ 88 * 1000000000) }) ∧
      u.hub = { s.hub with cycles := s.hub.cycles + 1 } ∧ u.pending = [] ∧ u.regs = s.regs ∧ u.dies = s.dies ∧ u.tiles = s.tiles ∧ u.tcs = s.tcs ∧
      u.ops = s.ops ∧ u.parts = s.parts ∧ u.ks = s.ks ∧ u.ports = s.ports ∧ u.pwr = s.pwr ∧ u.host = s.host ∧ u.out = s.out ∧
      u.groups = s.groups ∧ u.csteps = s.csteps ∧ u.pairs = s.pairs ∧ u.fresh = s.fresh)

/-- R283, R381, R395, R444, R499: what the module is at reset: registers at the values the spec gives them, no stage entered, no operation, every
key slot EMPTY with its counter 0, time at 0, an empty queue; memories are in canonical form, the fuses legal, and no register breaks the limits of
its fields. The values of registers without a reset value in the spec are the model's choice (note 2), as is the ordering code of the reset state
(note 6); a part of another grade or memory option differs in HUB_REV alone. -/
def Obligations.ResetState : Prop :=
  State.reset.pending = [] ∧ Memory.wf State.reset = true ∧ KeystoneLegal State.reset.ks ∧ ClockLegal State.reset.clp ∧ LocksLegal State.reset ∧
    raw State.reset pwrB = 0x80000018 ∧ raw State.reset (pwrB + 4) = 0x0FA05008 ∧ raw State.reset (clpB + 4) = 0x8080 ∧
    raw State.reset (clpB + 8) = 0xA0000 ∧ raw State.reset (hltB + 4) = 0x1807D0 ∧ raw State.reset (hltB + 0x2000) = 0x200003E8 ∧
    raw State.reset 0xC = 0xFFFF ∧ raw State.reset (tcB 7 + 8) = 0x06060600 ∧ raw State.reset (tcB 7) = 0 ∧
    stageOf State.reset = 0 ∧ (∀ i, i < 8 → cap State.reset i = false) ∧ (∀ i, slotOf State.reset.ks i = {}) ∧
    (∀ n, (tcOf State.reset n).phase = .disabled) ∧ (∀ k, opOf State.reset k = none) ∧ (∀ n, partOf State.reset n = none) ∧
    (∀ b m : Bool, raw (State.resetAs b m) 4 = revWord b m ∧ (∀ k, k ≠ 4 → raw (State.resetAs b m) k = raw State.reset k)) ∧
    raw State.reset 4 = 0x42000080 ∧ mltNs State.reset = 0 ∧ devFrac State.reset = 0 ∧ epochNow State.reset = ⟨0, 0⟩

/-- No command reads or changes the queue of the commands that wait behind it. -/
def Obligations.CommandsLeaveQueue : Prop :=
  ∀ (c : Instr) (s t : State), exec c s = .next t → t.pending = s.pending

/-- Every step keeps host memory, the tiles' memories, the stacks, the Basins, the fabrics' block memories and the flashes in canonical form. -/
def Obligations.MemoriesStayCanonical : Prop :=
  ∀ s t : State, Memory.wf s = true → step s = .next t → Memory.wf t = true

/-- R444, R445, R448, R451: every step keeps the fuses and the key slots legal: one root left, SVNs up to 32, seven rights bits, slot 0 never
REVOKED and ACTIVE once OWNED is blown.

R444, R447, R448, R451, R455: no step undoes a fuse, lowers a minimum SVN or a counter, or replaces the eFuse image key: power loss, a command
that is refused and a key that is installed again included. -/
def Obligations.FusesAndSlotsStayLegal : Prop :=
  (∀ s t : State, KeystoneLegal s.ks → step s = .next t → KeystoneLegal t.ks) ∧
  (∀ s t : State, step s = .next t → FusesRise s.ks t.ks)

/-- R429: writing 1 to LOCK sets it, whatever else the write carries; from then on no command changes the register, a reset of a link included,
until power good is lost. -/
def Obligations.LockedRegistersStay : Prop :=
  ∀ s : State, LocksLegal s →
    (∀ (c : Instr) (t : State), exec c s = .next t → LocksLegal t ∧
      ∀ k, Lockable k → (raw s k).msb = true → raw t k = raw s k ∨ losesPower s c = true) ∧
    (∀ (req : Fin 3) (off : Fin 67108864) (v : W32), Reaches s req off off → Lockable off → v.msb = true →
      ∃ u : State, exec (.registerWrite req off 4 0xF (v.zeroExtend 64)) s = .next u ∧ (raw u off).msb = true)

/-- R367, R376: MLT never changes but by its increment, which lies within 600 ppm of 1.25 ns, and by adoption, which moves it forward; it starts
again only with the module's power.
Model's choices it rests on: notes 1 and 37. -/
def Obligations.MltMovesForwardOnly : Prop :=
  ∀ s t : State, ClockLegal s.clp → step s = .next t → ClockLegal t.clp ∧
    (t.clp.mlt = s.clp.mlt ∨
     (s.pending = [] ∧ ∃ n, 1373564901001 ≤ n ∧ n ≤ 1375214168438 ∧ t.clp.mlt = (s.clp.mlt + n) % 2 ^ 104) ∨
     (∃ r th e, s.pending = .adoption :: r ∧ s.clp.adopt = some (th, e) ∧ 0 < th ∧ t.clp.mlt = ((s.clp.mlt : Int) + th * 2 ^ 24).toNat % 2 ^ 104) ∨
     ∃ c r, s.pending = c :: r ∧ losesPower s c = true)

/-- R151, R152, R309, R316: a line of a partition written on a die reads back there, older writes to it in the queue included, and every line at another
place reads as before.
Model's choice it rests on: note 128. -/
def Obligations.StoredLinesReadBack : Prop :=
  ∀ (s : State) (pn d a : Nat) (x : Line) (p : Partition), partOf s pn = some p → dieUp s d = true → isDoorway p a = false → place p pn a ≠ .refused →
    ∃ u : State, writeLine s pn d a x = (0, u) ∧ readLine u pn d a = (0, x) ∧
      (∀ b, place p pn b ≠ place p pn a → readLine u pn d b = readLine s pn d b) ∧ u.tiles = s.tiles ∧ u.regs = s.regs ∧
      (∀ e, e ≠ d → p.copying.contains e = false → dieOf u e = dieOf s e)

/-- R307: the map from the lines of a bank set to the places of the stack, line by line; lines beyond the range have no place. It is a bijection
onto the places (pc, bank of the set, row, col); sixteen lines from a multiple of 16 share a row, and 1,024 from a multiple of 1,024 cover all 64
pseudo-channels. -/
def Obligations.BankSetMapIsBijective : Prop :=
  ∀ mask : Nat, mask < 2 ^ 64 →
    let bs := bankList mask
    let b := bs.length
    (∀ l, l < b * 2 ^ 24 → hbmPlace mask l =
      some (((l >>> 4) &&& 0x3F) ^^^ ((l >>> 10) &&& 0x3F), bs.getD ((l >>> 10) % b) 0, (l >>> 10) / b, l &&& 0xF)) ∧
    (∀ l, b * 2 ^ 24 ≤ l → hbmPlace mask l = none) ∧
    (∀ (p : Partition) (pn l : Nat), p.cur.banks = mask → b * 2 ^ 24 ≤ l → l < 2 ^ 30 → place p pn l = .refused) ∧
    (∀ l pc bank row col, hbmPlace mask l = some (pc, bank, row, col) → pc < 64 ∧ bank ∈ bs ∧ row < 16384 ∧ col < 16) ∧
    (∀ pc bank row col, pc < 64 → bank ∈ bs → row < 16384 → col < 16 →
      ∃ l, hbmPlace mask l = some (pc, bank, row, col) ∧ ∀ l', hbmPlace mask l' = some (pc, bank, row, col) → l' = l) ∧
    (∀ l l' p p', l / 16 = l' / 16 → hbmPlace mask l = some p → hbmPlace mask l' = some p' → p.1 = p'.1 ∧ p.2.1 = p'.2.1 ∧ p.2.2.1 = p'.2.2.1) ∧
    (∀ g pc, (g + 1) * 1024 ≤ b * 2 ^ 24 → pc < 64 → ∃ l r, l / 1024 = g ∧ hbmPlace mask l = some (pc, r))

/-- R328 to R330: a frame built from its fields and five flits reads back as those fields and flits, with its CRC matching, and its 262 symbols give
its bits again.
Model's choice it rests on: note 35. -/
def Obligations.FramesReadBack : Prop :=
  ∀ (fseq ackt ackseq crvl crcnt : Nat) (flits : List (Nat × Line)), fseq < 1024 → ackt < 4 → ackseq < 1024 → crvl < 8 → crcnt < 16 →
    flits.length = 5 → (∀ f ∈ flits, f.1 < 8) →
      let x := frameBits fseq (vlMap flits) ackt ackseq crvl crcnt flits
      parseFrame x = ⟨fseq, ackt, ackseq, crvl, crcnt, flits, true⟩ ∧ symBits (bitsSyms 262 x) = x
end

