-- ==== Sys2Proof/Laws/Dispatch.lean ====
section
/-! SUPPORT. One equation per constructor: the meaning the dispatcher calls. -/

namespace Sys2Proof.Machine

@[simp] theorem exec_nop (die : Die) (pt : PT) (w : BitVec 56) (s : State) : exec (.nop die pt w) s = execNop die pt w s := rfl
@[simp] theorem exec_add (die : Die) (pt : PT) (w : BitVec 56) (s : State) : exec (.add die pt w) s = execAdd die pt w s := rfl
@[simp] theorem exec_sub (die : Die) (pt : PT) (w : BitVec 56) (s : State) : exec (.sub die pt w) s = execSub die pt w s := rfl
@[simp] theorem exec_and (die : Die) (pt : PT) (w : BitVec 56) (s : State) : exec (.and die pt w) s = execAnd die pt w s := rfl
@[simp] theorem exec_or (die : Die) (pt : PT) (w : BitVec 56) (s : State) : exec (.or die pt w) s = execOr die pt w s := rfl
@[simp] theorem exec_xor (die : Die) (pt : PT) (w : BitVec 56) (s : State) : exec (.xor die pt w) s = execXor die pt w s := rfl
@[simp] theorem exec_shl (die : Die) (pt : PT) (w : BitVec 56) (s : State) : exec (.shl die pt w) s = execShl die pt w s := rfl
@[simp] theorem exec_shr (die : Die) (pt : PT) (w : BitVec 56) (s : State) : exec (.shr die pt w) s = execShr die pt w s := rfl
@[simp] theorem exec_sra (die : Die) (pt : PT) (w : BitVec 56) (s : State) : exec (.sra die pt w) s = execSra die pt w s := rfl
@[simp] theorem exec_mul (die : Die) (pt : PT) (w : BitVec 56) (s : State) : exec (.mul die pt w) s = execMul die pt w s := rfl
@[simp] theorem exec_slt (die : Die) (pt : PT) (w : BitVec 56) (s : State) : exec (.slt die pt w) s = execSlt die pt w s := rfl
@[simp] theorem exec_li (die : Die) (pt : PT) (w : BitVec 56) (s : State) : exec (.li die pt w) s = execLi die pt w s := rfl
@[simp] theorem exec_mfv (die : Die) (pt : PT) (w : BitVec 56) (s : State) : exec (.mfv die pt w) s = execMfv die pt w s := rfl
@[simp] theorem exec_br (die : Die) (pt : PT) (w : BitVec 56) (s : State) : exec (.br die pt w) s = execBr die pt w s := rfl
@[simp] theorem exec_rep (die : Die) (pt : PT) (w : BitVec 56) (s : State) : exec (.rep die pt w) s = execRep die pt w s := rfl
@[simp] theorem exec_wlch (die : Die) (pt : PT) (w : BitVec 56) (s : State) : exec (.wlch die pt w) s = execWlch die pt w s := rfl
@[simp] theorem exec_endKernel (die : Die) (pt : PT) (w : BitVec 56) (s : State) : exec (.endKernel die pt w) s = execEnd die pt w s := rfl
@[simp] theorem exec_alloc (die : Die) (pt : PT) (w : BitVec 56) (s : State) : exec (.alloc die pt w) s = execAlloc die pt w s := rfl
@[simp] theorem exec_free (die : Die) (pt : PT) (w : BitVec 56) (s : State) : exec (.free die pt w) s = execFree die pt w s := rfl
@[simp] theorem exec_wb (die : Die) (pt : PT) (w : BitVec 56) (s : State) : exec (.wb die pt w) s = execWb die pt w s := rfl
@[simp] theorem exec_crd (die : Die) (pt : PT) (w : BitVec 56) (s : State) : exec (.crd die pt w) s = execCrd die pt w s := rfl
@[simp] theorem exec_cwr (die : Die) (pt : PT) (w : BitVec 56) (s : State) : exec (.cwr die pt w) s = execCwr die pt w s := rfl
@[simp] theorem exec_mx (die : Die) (pt : PT) (w : BitVec 56) (s : State) : exec (.mx die pt w) s = execMx die pt w s := rfl
@[simp] theorem exec_wld (die : Die) (pt : PT) (w : BitVec 56) (s : State) : exec (.wld die pt w) s = execWld die pt w s := rfl
@[simp] theorem exec_ew (die : Die) (pt : PT) (w : BitVec 56) (s : State) : exec (.ew die pt w) s = execEw die pt w s := rfl
@[simp] theorem exec_vadd (die : Die) (pt : PT) (w : BitVec 56) (s : State) : exec (.vadd die pt w) s = execVadd die pt w s := rfl
@[simp] theorem exec_vsub (die : Die) (pt : PT) (w : BitVec 56) (s : State) : exec (.vsub die pt w) s = execVsub die pt w s := rfl
@[simp] theorem exec_vmul (die : Die) (pt : PT) (w : BitVec 56) (s : State) : exec (.vmul die pt w) s = execVmul die pt w s := rfl
@[simp] theorem exec_vfma (die : Die) (pt : PT) (w : BitVec 56) (s : State) : exec (.vfma die pt w) s = execVfma die pt w s := rfl
@[simp] theorem exec_vmin (die : Die) (pt : PT) (w : BitVec 56) (s : State) : exec (.vmin die pt w) s = execVmin die pt w s := rfl
@[simp] theorem exec_vmax (die : Die) (pt : PT) (w : BitVec 56) (s : State) : exec (.vmax die pt w) s = execVmax die pt w s := rfl
@[simp] theorem exec_vcmp (die : Die) (pt : PT) (w : BitVec 56) (s : State) : exec (.vcmp die pt w) s = execVcmp die pt w s := rfl
@[simp] theorem exec_vsel (die : Die) (pt : PT) (w : BitVec 56) (s : State) : exec (.vsel die pt w) s = execVsel die pt w s := rfl
@[simp] theorem exec_cmul (die : Die) (pt : PT) (w : BitVec 56) (s : State) : exec (.cmul die pt w) s = execCmul die pt w s := rfl
@[simp] theorem exec_vmaxi (die : Die) (pt : PT) (w : BitVec 56) (s : State) : exec (.vmaxi die pt w) s = execVmaxi die pt w s := rfl
@[simp] theorem exec_vmini (die : Die) (pt : PT) (w : BitVec 56) (s : State) : exec (.vmini die pt w) s = execVmini die pt w s := rfl
@[simp] theorem exec_rmaxi (die : Die) (pt : PT) (w : BitVec 56) (s : State) : exec (.rmaxi die pt w) s = execRmaxi die pt w s := rfl
@[simp] theorem exec_rmini (die : Die) (pt : PT) (w : BitVec 56) (s : State) : exec (.rmini die pt w) s = execRmini die pt w s := rfl
@[simp] theorem exec_vrsum (die : Die) (pt : PT) (w : BitVec 56) (s : State) : exec (.vrsum die pt w) s = execVrsum die pt w s := rfl
@[simp] theorem exec_vfn (die : Die) (pt : PT) (w : BitVec 56) (s : State) : exec (.vfn die pt w) s = execVfn die pt w s := rfl
@[simp] theorem exec_vcvt (die : Die) (pt : PT) (w : BitVec 56) (s : State) : exec (.vcvt die pt w) s = execVcvt die pt w s := rfl
@[simp] theorem exec_viadd (die : Die) (pt : PT) (w : BitVec 56) (s : State) : exec (.viadd die pt w) s = execViadd die pt w s := rfl
@[simp] theorem exec_visub (die : Die) (pt : PT) (w : BitVec 56) (s : State) : exec (.visub die pt w) s = execVisub die pt w s := rfl
@[simp] theorem exec_vimul (die : Die) (pt : PT) (w : BitVec 56) (s : State) : exec (.vimul die pt w) s = execVimul die pt w s := rfl
@[simp] theorem exec_vlogic (die : Die) (pt : PT) (w : BitVec 56) (s : State) : exec (.vlogic die pt w) s = execVlogic die pt w s := rfl
@[simp] theorem exec_vshift (die : Die) (pt : PT) (w : BitVec 56) (s : State) : exec (.vshift die pt w) s = execVshift die pt w s := rfl
@[simp] theorem exec_vperm (die : Die) (pt : PT) (w : BitVec 56) (s : State) : exec (.vperm die pt w) s = execVperm die pt w s := rfl
@[simp] theorem exec_vbcast (die : Die) (pt : PT) (w : BitVec 56) (s : State) : exec (.vbcast die pt w) s = execVbcast die pt w s := rfl
@[simp] theorem exec_vld (die : Die) (pt : PT) (w : BitVec 56) (s : State) : exec (.vld die pt w) s = execVld die pt w s := rfl
@[simp] theorem exec_vst (die : Die) (pt : PT) (w : BitVec 56) (s : State) : exec (.vst die pt w) s = execVst die pt w s := rfl
@[simp] theorem exec_registerResultLand (die : Die) (pt : PT) (err : TileErr) (s : State) : exec (.registerResultLand die pt err) s = execRegisterResultLand die pt err s := rfl
@[simp] theorem exec_arrayWriteLand (die : Die) (pt : PT) (upset : Option Upset) (err : TileErr) (s : State) : exec (.arrayWriteLand die pt upset err) s = execArrayWriteLand die pt upset s err := rfl
@[simp] theorem exec_shadowComplete (die : Die) (pt : PT) (s : State) : exec (.shadowComplete die pt) s = execShadowComplete die pt s := rfl
@[simp] theorem exec_allocationGrant (die : Die) (pt : PT) (s : State) : exec (.allocationGrant die pt) s = execAllocationGrant die pt s := rfl
@[simp] theorem exec_wbReadComplete (die : Die) (pt : PT) (err : TileErr) (s : State) : exec (.wbReadComplete die pt err) s = execWbReadComplete die pt s err := rfl
@[simp] theorem exec_wbAcknowledge (die : Die) (pt : PT) (s : State) : exec (.wbAcknowledge die pt) s = execWbAcknowledge die pt s := rfl
@[simp] theorem exec_save (die : Die) (pt : PT) (area : W32) (s : State) : exec (.save die pt area) s = execSave die pt area s := rfl
@[simp] theorem exec_saveComplete (die : Die) (pt : PT) (s : State) : exec (.saveComplete die pt) s = execSaveComplete die pt s := rfl
@[simp] theorem exec_restore (die : Die) (pt target : PT) (s : State) : exec (.restore die pt target) s = execRestore die pt target s := rfl
@[simp] theorem exec_test (die : Die) (pt : PT) (s : State) : exec (.test die pt) s = execTest die pt s := rfl
@[simp] theorem exec_launch (die : Die) (pt : PT) (time : W64) (s : State) : exec (.launch die pt time) s = execLaunch die pt time s := rfl
@[simp] theorem exec_stop (die : Die) (pt : PT) (s : State) : exec (.stop die pt) s = execStop die pt s := rfl
@[simp] theorem exec_repeatBudgetExpiry (die : Die) (pt : PT) (s : State) : exec (.repeatBudgetExpiry die pt) s = execRepeatBudgetExpiry die pt s := rfl
@[simp] theorem exec_tileMove (die : Die) (lt : Fin 128) (target : PT) (s : State) : exec (.tileMove die lt target) s = execTileMove die lt target s := rfl
@[simp] theorem exec_fetchListLineArrival (die : Die) (pt : PT) (s : State) : exec (.fetchListLineArrival die pt) s = execFetchListLineArrival die pt s := rfl
@[simp] theorem exec_setup (die : Die) (pt : PT) (s : State) : exec (.setup die pt) s = execSetup die pt s := rfl
@[simp] theorem exec_fetch (die : Die) (pt : PT) (s : State) : exec (.fetch die pt) s = execFetch die pt s := rfl
@[simp] theorem exec_fetchDataArrival (die : Die) (pt : PT) (s : State) : exec (.fetchDataArrival die pt) s = execFetchDataArrival die pt s := rfl
@[simp] theorem exec_mark (die : Die) (pt : PT) (s : State) : exec (.mark die pt) s = execMark die pt s := rfl
@[simp] theorem exec_markRelease (die : Die) (pt : PT) (s : State) : exec (.markRelease die pt) s = execMarkRelease die pt s := rfl
@[simp] theorem exec_fetchListEnd (die : Die) (pt : PT) (s : State) : exec (.fetchListEnd die pt) s = execFetchListEnd die pt s := rfl
@[simp] theorem exec_stagingPieceSend (die : Die) (part : Fin 64) (layer : W32) (slice : Fin 16) (src : Option W32) (s : State) : exec (.stagingPieceSend die part layer slice src) s = execStagingPieceSend die part layer slice src s := rfl
@[simp] theorem exec_stagingPieceArrival (die : Die) (part : Fin 64) (s : State) : exec (.stagingPieceArrival die part) s = execStagingPieceArrival die part s := rfl
@[simp] theorem exec_kernel (ctx : Fin 4096) (express : Bool) (opseq : W32) (s : State) : exec (.kernel ctx express opseq) s = execKernel ctx express opseq s := rfl
@[simp] theorem exec_kernelDispatch (ctx : Fin 4096) (express : Bool) (opseq : W32) (s : State) : exec (.kernelDispatch ctx express opseq) s = execKernelDispatch ctx express opseq s := rfl
@[simp] theorem exec_cascade (ctx : Fin 4096) (express : Bool) (opseq : W32) (s : State) : exec (.cascade ctx express opseq) s = execCascade ctx express opseq s := rfl
@[simp] theorem exec_generate (ctx : Fin 4096) (express : Bool) (opseq : W32) (ecc : Bool) (s : State) : exec (.generate ctx express opseq ecc) s = execGenerate ctx express opseq s ecc := rfl
@[simp] theorem exec_sample (ctx : Fin 4096) (express : Bool) (opseq : W32) (rows : Nat) (ecc : Bool) (s : State) : exec (.sample ctx express opseq rows ecc) s = execSample ctx express opseq rows s ecc := rfl
@[simp] theorem exec_copy (ctx : Fin 4096) (express : Bool) (opseq : W32) (lines : Nat) (s : State) : exec (.copy ctx express opseq lines) s = execCopy ctx express opseq lines s := rfl
@[simp] theorem exec_message (ctx : Fin 4096) (express : Bool) (opseq : W32) (s : State) : exec (.message ctx express opseq) s = execMessage ctx express opseq s := rfl
@[simp] theorem exec_regionLoad (ctx : Fin 4096) (express : Bool) (opseq : W32) (s : State) : exec (.regionLoad ctx express opseq) s = execRegionLoad ctx express opseq s := rfl
@[simp] theorem exec_digest (ctx : Fin 4096) (express : Bool) (opseq : W32) (s : State) : exec (.digest ctx express opseq) s = execDigest ctx express opseq s := rfl
@[simp] theorem exec_survey (ctx : Fin 4096) (express : Bool) (opseq : W32) (s : State) : exec (.survey ctx express opseq) s = execSurvey ctx express opseq s := rfl
@[simp] theorem exec_cancel (ctx : Fin 4096) (express : Bool) (opseq : W32) (s : State) : exec (.cancel ctx express opseq) s = execCancel ctx express opseq s := rfl
@[simp] theorem exec_nopDescriptor (ctx : Fin 4096) (express : Bool) (opseq : W32) (s : State) : exec (.nopDescriptor ctx express opseq) s = execNopDescriptor ctx express opseq s := rfl
@[simp] theorem exec_critical (ctx : Fin 4096) (express : Bool) (opseq : W32) (s : State) : exec (.critical ctx express opseq) s = execCritical ctx express opseq s := rfl
@[simp] theorem exec_fwUpdate (finish ok : Bool) (s : State) : exec (.fwUpdate finish ok) s = execFwUpdate finish ok s := rfl
@[simp] theorem exec_svnCommit (s : State) : exec (.svnCommit) s = execSvnCommit s := rfl
@[simp] theorem exec_keyInstall (s : State) : exec (.keyInstall) s = execKeyInstall s := rfl
@[simp] theorem exec_keyRevoke (s : State) : exec (.keyRevoke) s = execKeyRevoke s := rfl
@[simp] theorem exec_ownerProvision (s : State) : exec (.ownerProvision) s = execOwnerProvision s := rfl
@[simp] theorem exec_imgkeyVbat (s : State) : exec (.imgkeyVbat) s = execImgkeyVbat s := rfl
@[simp] theorem exec_imgkeyFuse (s : State) : exec (.imgkeyFuse) s = execImgkeyFuse s := rfl
@[simp] theorem exec_keysrcFuse (s : State) : exec (.keysrcFuse) s = execKeysrcFuse s := rfl
@[simp] theorem exec_rootRevoke (s : State) : exec (.rootRevoke) s = execRootRevoke s := rfl
@[simp] theorem exec_partCreate (s : State) : exec (.partCreate) s = execPartCreate s := rfl
@[simp] theorem exec_partChange (s : State) : exec (.partChange) s = execPartChange s := rfl
@[simp] theorem exec_partDelete (s : State) : exec (.partDelete) s = execPartDelete s := rfl
@[simp] theorem exec_gradeSet (s : State) : exec (.gradeSet) s = execGradeSet s := rfl
@[simp] theorem exec_lockstepSet (s : State) : exec (.lockstepSet) s = execLockstepSet s := rfl
@[simp] theorem exec_tapForce (s : State) : exec (.tapForce) s = execTapForce s := rfl
@[simp] theorem exec_dieFence (s : State) : exec (.dieFence) s = execDieFence s := rfl
@[simp] theorem exec_dieUnfence (fails : List PT) (s : State) : exec (.dieUnfence fails) s = execDieUnfence fails s := rfl
@[simp] theorem exec_debugEnable (s : State) : exec (.debugEnable) s = execDebugEnable s := rfl
@[simp] theorem exec_attest (s : State) : exec (.attest) s = execAttest s := rfl
@[simp] theorem exec_descriptorFetch (ctx : Fin 4096) (express ok : Bool) (s : State) : exec (.descriptorFetch ctx express ok) s = execDescriptorFetch ctx express ok s := rfl
@[simp] theorem exec_weirAdmission (ctx : Fin 4096) (express : Bool) (opseq : W32) (s : State) : exec (.weirAdmission ctx express opseq) s = execWeirAdmission ctx express opseq s := rfl
@[simp] theorem exec_operationReady (ctx : Fin 4096) (express : Bool) (opseq : W32) (s : State) : exec (.operationReady ctx express opseq) s = execOperationReady ctx express opseq s := rfl
@[simp] theorem exec_capabilityRelease (ctx : Fin 4096) (express : Bool) (opseq : W32) (s : State) : exec (.capabilityRelease ctx express opseq) s = execCapabilityRelease ctx express opseq s := rfl
@[simp] theorem exec_entropySeedDraw (ctx : Fin 4096) (express : Bool) (opseq : W32) (s : State) : exec (.entropySeedDraw ctx express opseq) s = execEntropySeedDraw ctx express opseq s := rfl
@[simp] theorem exec_operationTimeout (ctx : Fin 4096) (express : Bool) (opseq : W32) (s : State) : exec (.operationTimeout ctx express opseq) s = execOperationTimeout ctx express opseq s := rfl
@[simp] theorem exec_commitDecision (ctx : Fin 4096) (express : Bool) (opseq : W32) (s : State) : exec (.commitDecision ctx express opseq) s = execCommitDecision ctx express opseq s := rfl
@[simp] theorem exec_completionRecordWrite (ctx : Fin 4096) (target : Option (Bool × W32)) (ok : Bool) (s : State) : exec (.completionRecordWrite ctx target ok) s = execCompletionRecordWrite ctx target ok s := rfl
@[simp] theorem exec_coalescingTimerExpiry (ctx : Fin 4096) (s : State) : exec (.coalescingTimerExpiry ctx) s = execCoalescingTimerExpiry ctx s := rfl
@[simp] theorem exec_stepBoundary (part : Fin 64) (s : State) : exec (.stepBoundary part) s = execStepBoundary part s := rfl
@[simp] theorem exec_contextDrainDone (ctx : Fin 4096) (s : State) : exec (.contextDrainDone ctx) s = execContextDrainDone ctx s := rfl
@[simp] theorem exec_normalRingTail (link : Fin 2) (page : Fin 4096) (val : W32) (whole : Bool) (s : State) : exec (.normalRingTail link page val whole) s = execNormalRingTail link page val whole s := rfl
@[simp] theorem exec_expressRingTail (link : Fin 2) (page : Fin 4096) (val : W32) (whole : Bool) (s : State) : exec (.expressRingTail link page val whole) s = execExpressRingTail link page val whole s := rfl
@[simp] theorem exec_completionRingHead (link : Fin 2) (page : Fin 4096) (val : W32) (whole : Bool) (s : State) : exec (.completionRingHead link page val whole) s = execCompletionRingHead link page val whole s := rfl
@[simp] theorem exec_tcEnSet (req : Fin 3) (ctx : Fin 4096) (s : State) : exec (.tcEnSet req ctx) s = execTcEnSet req ctx s := rfl
@[simp] theorem exec_tcEnClear (req : Fin 3) (ctx : Fin 4096) (s : State) : exec (.tcEnClear req ctx) s = execTcEnClear req ctx s := rfl
@[simp] theorem exec_tcReset (req : Fin 3) (ctx : Fin 4096) (s : State) : exec (.tcReset req ctx) s = execTcReset req ctx s := rfl
@[simp] theorem exec_interruptUnmask (req : Fin 3) (ctx : Fin 4096) (s : State) : exec (.interruptUnmask req ctx) s = execInterruptUnmask req ctx s := rfl
@[simp] theorem exec_abiNegotiation (link : Fin 2) (s : State) : exec (.abiNegotiation link) s = execAbiNegotiation link s := rfl
@[simp] theorem exec_bar4Read (link : Fin 2) (off : Fin 68719476736) (n : Fin 4097) (s : State) : exec (.bar4Read link off n) s = execBar4Read link off n s := rfl
@[simp] theorem exec_bar4Write (link : Fin 2) (off : Fin 68719476736) (bytes : List Byte) (s : State) : exec (.bar4Write link off bytes) s = execBar4Write link off bytes s := rfl
@[simp] theorem exec_perstAssert (link : Fin 2) (s : State) : exec (.perstAssert link) s = execPerstAssert link s := rfl
@[simp] theorem exec_functionLevelReset (link : Fin 2) (s : State) : exec (.functionLevelReset link) s = execFunctionLevelReset link s := rfl
@[simp] theorem exec_hotReset (link : Fin 2) (s : State) : exec (.hotReset link) s = execHotReset link s := rfl
@[simp] theorem exec_linkDown (link : Fin 2) (s : State) : exec (.linkDown link) s = execLinkDown link s := rfl
@[simp] theorem exec_registerWrite (req : Fin 3) (off : Fin 67108864) (size : Nat) (be val : BitVec 64) (s : State) : exec (.registerWrite req off size be val) s = execRegisterWrite req off size be val s := rfl
@[simp] theorem exec_indAddrWrite (req : Fin 3) (val : W32) (s : State) : exec (.indAddrWrite req val) s = execIndAddrWrite req val s := rfl
@[simp] theorem exec_indDataAccess (req : Fin 3) (val : Option W32) (s : State) : exec (.indDataAccess req val) s = execIndDataAccess req val s := rfl
@[simp] theorem exec_wideReq (req : Fin 3) (s : State) : exec (.wideReq req) s = execWideReq req s := rfl
@[simp] theorem exec_smbusOffsetWrite (off : W32) (s : State) : exec (.smbusOffsetWrite off) s = execSmbusOffsetWrite off s := rfl
@[simp] theorem exec_smbusRegisterRead (s : State) : exec (.smbusRegisterRead) s = execSmbusRegisterRead s := rfl
@[simp] theorem exec_runnelSnapshot (req : Fin 3) (die : Die) (init : Fin 151) (plane : Fin 4) (s : State) : exec (.runnelSnapshot req die init plane) s = execRunnelSnapshot req die init plane s := rfl
@[simp] theorem exec_ksCmdGo (req : Fin 3) (s : State) : exec (.ksCmdGo req) s = execKsCmdGo req s := rfl
@[simp] theorem exec_clpSetGo (req : Fin 3) (mode : Fin 4) (s : State) : exec (.clpSetGo req mode) s = execClpSetGo req mode s := rfl
@[simp] theorem exec_timeWriteApply (s : State) : exec (.timeWriteApply) s = execTimeWriteApply s := rfl
@[simp] theorem exec_morClkdivWrite (req : Fin 3) (die : Die) (val : W32) (s : State) : exec (.morClkdivWrite req die val) s = execMorClkdivWrite req die val s := rfl
@[simp] theorem exec_retire (req : Fin 3) (die : Die) (s : State) : exec (.retire req die) s = execRetire req die s := rfl
@[simp] theorem exec_retrain (req : Fin 3) (die : Die) (s : State) : exec (.retrain req die) s = execRetrain req die s := rfl
@[simp] theorem exec_portDisable (req : Fin 3) (die : Die) (s : State) : exec (.portDisable req die) s = execPortDisable req die s := rfl
@[simp] theorem exec_modidWrite (req : Fin 3) (die : Die) (id : Byte) (s : State) : exec (.modidWrite req die id) s = execModidWrite req die id s := rfl
@[simp] theorem exec_bitslip (req : Fin 3) (die : Die) (lane : Fin 9) (ui : Fin 512) (s : State) : exec (.bitslip req die lane ui) s = execBitslip req die lane ui s := rfl
@[simp] theorem exec_lp2req (req : Fin 3) (die : Die) (s : State) : exec (.lp2req req die) s = execLp2req req die s := rfl
@[simp] theorem exec_plumbGo (req : Fin 3) (die : Die) (s : State) : exec (.plumbGo req die) s = execPlumbGo req die s := rfl
@[simp] theorem exec_runnelRequest (die : Die) (init : Fin 151) (target : Fin 170) (plane cls : Fin 4) (part : Option (Fin 64)) (write : Bool) (addr lines : Nat) (data : List Line) (lt : Option (Fin 128)) (s : State) : exec (.runnelRequest die init target plane cls part write addr lines data lt) s = execRunnelRequest die init target plane cls part write addr lines data lt s := rfl
@[simp] theorem exec_runnelRequestArrival (die : Die) (id : Nat) (s : State) : exec (.runnelRequestArrival die id) s = execRunnelRequestArrival die id s := rfl
@[simp] theorem exec_runnelResponse (die : Die) (id : Nat) (s : State) : exec (.runnelResponse die id) s = execRunnelResponse die id s := rfl
@[simp] theorem exec_sluiceRaise (die : Die) (ports : List Nat) (s : State) : exec (.sluiceRaise die ports) s = execSluiceRaise die ports s := rfl
@[simp] theorem exec_sluiceDrainExpiry (die : Die) (s : State) : exec (.sluiceDrainExpiry die) s = execSluiceDrainExpiry die s := rfl
@[simp] theorem exec_sluiceSafe (die : Die) (s : State) : exec (.sluiceSafe die) s = execSluiceSafe die s := rfl
@[simp] theorem exec_sluiceOpen (die : Die) (port : Fin 170) (s : State) : exec (.sluiceOpen die port) s = execSluiceOpen die port s := rfl
@[simp] theorem exec_redirectEnd (die : Die) (pt : PT) (s : State) : exec (.redirectEnd die pt) s = execRedirectEnd die pt s := rfl
@[simp] theorem exec_hbmRead (die : Die) (pc bank : Fin 64) (row : Fin 16384) (col : Fin 16) (training : Bool) (s : State) : exec (.hbmRead die pc bank row col training) s = execHbmRead die pc bank row col training s := rfl
@[simp] theorem exec_hbmWrite (die : Die) (pc bank : Fin 64) (row : Fin 16384) (col : Fin 16) (training : Bool) (mask : BitVec 64) (data : Line) (s : State) : exec (.hbmWrite die pc bank row col training mask data) s = execHbmWrite die pc bank row col training mask data s := rfl
@[simp] theorem exec_hbmCommandIssue (die : Die) (pc : Fin 64) (training : Bool) (err : ReadErr) (s : State) : exec (.hbmCommandIssue die pc training err) s = execHbmCommandIssue die pc training err s := rfl
@[simp] theorem exec_perBankRefresh (die : Die) (pc bank : Fin 64) (s : State) : exec (.perBankRefresh die pc bank) s = execPerBankRefresh die pc bank s := rfl
@[simp] theorem exec_refreshWindowStart (die : Die) (s : State) : exec (.refreshWindowStart die) s = execRefreshWindowStart die s := rfl
@[simp] theorem exec_stackTemperatureRead (die : Die) (celsius : Int) (s : State) : exec (.stackTemperatureRead die celsius) s = execStackTemperatureRead die celsius s := rfl
@[simp] theorem exec_powerDownEntry (die : Die) (pc : Fin 64) (s : State) : exec (.powerDownEntry die pc) s = execPowerDownEntry die pc s := rfl
@[simp] theorem exec_patrolScrub (die : Die) (pc bank : Fin 64) (row : Fin 16384) (col : Fin 16) (err : ReadErr) (s : State) : exec (.patrolScrub die pc bank row col err) s = execPatrolScrub die pc bank row col err s := rfl
@[simp] theorem exec_rowRepair (die : Die) (done : Option (BitVec 16)) (s : State) : exec (.rowRepair die done) s = execRowRepair die done s := rfl
@[simp] theorem exec_channelTraining (die : Die) (done : Option Bool) (s : State) : exec (.channelTraining die done) s = execChannelTraining die done s := rfl
@[simp] theorem exec_bankSetClearComplete (part : Fin 64) (die : Die) (s : State) : exec (.bankSetClearComplete part die) s = execBankSetClearComplete part die s := rfl
@[simp] theorem exec_weightCopyComplete (part : Fin 64) (die : Die) (s : State) : exec (.weightCopyComplete part die) s = execWeightCopyComplete part die s := rfl
@[simp] theorem exec_pieceForward (group : Fin 65536) (step : W32) (pos : Fin 4096) (piece : Fin 16777216) (final : Bool) (s : State) : exec (.pieceForward group step pos piece final) s = execPieceForward group step pos piece final s := rfl
@[simp] theorem exec_pieceReceive (src : PieceSource) (s : State) : exec (.pieceReceive src) s = execPieceReceive src s := rfl
@[simp] theorem exec_pieceResend (group : Fin 65536) (step : W32) (pos : Fin 4096) (piece : Fin 16777216) (final : Bool) (s : State) : exec (.pieceResend group step pos piece final) s = execPieceResend group step pos piece final s := rfl
@[simp] theorem exec_cascadeCommit (group : Fin 65536) (step : W32) (s : State) : exec (.cascadeCommit group step) s = execCascadeCommit group step s := rfl
@[simp] theorem exec_commitMarker (group : Fin 65536) (epoch step : W32) (pos : Fin 4096) (s : State) : exec (.commitMarker group epoch step pos) s = execCommitMarker group epoch step pos s := rfl
@[simp] theorem exec_cascadeProgressMessage (group : Fin 65536) (step : W32) (s : State) : exec (.cascadeProgressMessage group step) s = execCascadeProgressMessage group step s := rfl
@[simp] theorem exec_upstreamLost (group : Fin 65536) (step : W32) (pos : Fin 4096) (s : State) : exec (.upstreamLost group step pos) s = execUpstreamLost group step pos s := rfl
@[simp] theorem exec_epochHoldExpiry (group : Fin 65536) (s : State) : exec (.epochHoldExpiry group) s = execEpochHoldExpiry group s := rfl
@[simp] theorem exec_membershipChange (group : Fin 65536) (lost : List (Fin 4096)) (s : State) : exec (.membershipChange group lost) s = execMembershipChange group lost s := rfl
@[simp] theorem exec_membershipRebuild (group : Fin 65536) (list : List Byte) (map : List (Fin 128 × Fin 512)) (rank : Fin 256) (parts : List (Fin 64)) (known : List W32) (s : State) : exec (.membershipRebuild group list map rank parts known) s = execMembershipRebuild group list map rank parts s known := rfl
@[simp] theorem exec_replayDispatch (ctx : Fin 4096) (express : Bool) (opseq : W32) (launch : W64) (s : State) : exec (.replayDispatch ctx express opseq launch) s = execReplayDispatch ctx express opseq launch s := rfl
@[simp] theorem exec_lockstepRecord (part : Fin 64) (s : State) : exec (.lockstepRecord part) s = execLockstepRecord part s := rfl
@[simp] theorem exec_digestCompare (part : Fin 64) (shardsAgree : Bool) (s : State) : exec (.digestCompare part shardsAgree) s = execDigestCompare part shardsAgree s := rfl
@[simp] theorem exec_replicaReloadComplete (part : Fin 64) (die : Die) (s : State) : exec (.replicaReloadComplete part die) s = execReplicaReloadComplete part die s := rfl
@[simp] theorem exec_fountainQueueRelease (die : Die) (s : State) : exec (.fountainQueueRelease die) s = execFountainQueueRelease die s := rfl
@[simp] theorem exec_regionLoadAcceptance (die : Die) (s : State) : exec (.regionLoadAcceptance die) s = execRegionLoadAcceptance die s := rfl
@[simp] theorem exec_regionImageVerified (die : Die) (s : State) : exec (.regionImageVerified die) s = execRegionImageVerified die s := rfl
@[simp] theorem exec_regionRelease (die : Die) (s : State) : exec (.regionRelease die) s = execRegionRelease die s := rfl
@[simp] theorem exec_regionDeadlineExpiry (die : Die) (s : State) : exec (.regionDeadlineExpiry die) s = execRegionDeadlineExpiry die s := rfl
@[simp] theorem exec_configScrub (die : Die) (region : Option (Fin 8)) (frame : W32) (upset : ReadErr) (s : State) : exec (.configScrub die region frame upset) s = execConfigScrub die region frame upset s := rfl
@[simp] theorem exec_frameReceive (die : Die) (group : Fin 2) (lanes : List (Nat × BitVec 680)) (s : State) : exec (.frameReceive die group lanes) s = execFrameReceive die group lanes s := rfl
@[simp] theorem exec_frameSend (die : Die) (s : State) : exec (.frameSend die) s = execFrameSend die s := rfl
@[simp] theorem exec_ackIntervalExpiry (die : Die) (s : State) : exec (.ackIntervalExpiry die) s = execAckIntervalExpiry die s := rfl
@[simp] theorem exec_ackTimeout (die : Die) (s : State) : exec (.ackTimeout die) s = execAckTimeout die s := rfl
@[simp] theorem exec_laneSpareTrigger (die : Die) (lane : Fin 9) (lsClean : Bool) (s : State) : exec (.laneSpareTrigger die lane lsClean) s = execLaneSpareTrigger die lane lsClean s := rfl
@[simp] theorem exec_swapreq (die : Die) (s : State) : exec (.swapreq die) s = execSwapreq die s := rfl
@[simp] theorem exec_swapack (die : Die) (s : State) : exec (.swapack die) s = execSwapack die s := rfl
@[simp] theorem exec_swapSwitch (die : Die) (s : State) : exec (.swapSwitch die) s = execSwapSwitch die s := rfl
@[simp] theorem exec_recovery (die : Die) (blame : Option (Fin 9)) (lsClean : Bool) (s : State) : exec (.recovery die blame lsClean) s = execRecovery die blame lsClean s := rfl
@[simp] theorem exec_portLost (die : Die) (s : State) : exec (.portLost die) s = execPortLost die s := rfl
@[simp] theorem exec_signalDetect (die : Die) (lanes : Fin 10) (s : State) : exec (.signalDetect die lanes) s = execSignalDetect die lanes s := rfl
@[simp] theorem exec_trainingBurst (die : Die) (s : State) : exec (.trainingBurst die) s = execTrainingBurst die s := rfl
@[simp] theorem exec_trainingBlock (die : Die) (lane : Fin 9) (ctl : BitVec 64) (margin : BitVec 8) (s : State) : exec (.trainingBlock die lane ctl margin) s = execTrainingBlock die lane ctl margin s := rfl
@[simp] theorem exec_linkUp (die : Die) (s : State) : exec (.linkUp die) s = execLinkUp die s := rfl
@[simp] theorem exec_lpreq (die : Die) (s : State) : exec (.lpreq die) s = execLpreq die s := rfl
@[simp] theorem exec_lpack (die : Die) (s : State) : exec (.lpack die) s = execLpack die s := rfl
@[simp] theorem exec_lpnak (die : Die) (s : State) : exec (.lpnak die) s = execLpnak die s := rfl
@[simp] theorem exec_lp1IdleExpiry (die : Die) (s : State) : exec (.lp1IdleExpiry die) s = execLp1IdleExpiry die s := rfl
@[simp] theorem exec_portWake (die : Die) (s : State) : exec (.portWake die) s = execPortWake die s := rfl
@[simp] theorem exec_wakeTimeout (die : Die) (s : State) : exec (.wakeTimeout die) s = execWakeTimeout die s := rfl
@[simp] theorem exec_remove (die : Die) (s : State) : exec (.remove die) s = execRemove die s := rfl
@[simp] theorem exec_surpriseRemoval (die : Die) (cable : Bool) (s : State) : exec (.surpriseRemoval die cable) s = execSurpriseRemoval die cable s := rfl
@[simp] theorem exec_idupd (die : Die) (s : State) : exec (.idupd die) s = execIdupd die s := rfl
@[simp] theorem exec_plumbTs (die : Die) (stamps : List Int) (s : State) : exec (.plumbTs die stamps) s = execPlumbTs die stamps s := rfl
@[simp] theorem exec_plumbRpt (die : Die) (s : State) : exec (.plumbRpt die) s = execPlumbRpt die s := rfl
@[simp] theorem exec_plumbSample (die : Die) (s : State) : exec (.plumbSample die) s = execPlumbSample die s := rfl
@[simp] theorem exec_plumbLog (die : Die) (s : State) : exec (.plumbLog die) s = execPlumbLog die s := rfl
@[simp] theorem exec_expressMessageArrival (die : Die) (s : State) : exec (.expressMessageArrival die) s = execExpressMessageArrival die s := rfl
@[simp] theorem exec_readRequest (die : Die) (fromModule : Bool) (s : State) : exec (.readRequest die fromModule) s = execReadRequest die fromModule s := rfl
@[simp] theorem exec_writeRequest (die : Die) (fromModule : Bool) (s : State) : exec (.writeRequest die fromModule) s = execWriteRequest die fromModule s := rfl
@[simp] theorem exec_messagePacket (die : Die) (fromModule : Bool) (s : State) : exec (.messagePacket die fromModule) s = execMessagePacket die fromModule s := rfl
@[simp] theorem exec_readResponse (die : Die) (fromModule : Bool) (s : State) : exec (.readResponse die fromModule) s = execReadResponse die fromModule s := rfl
@[simp] theorem exec_writeAcknowledgement (die : Die) (fromModule : Bool) (s : State) : exec (.writeAcknowledgement die fromModule) s = execWriteAcknowledgement die fromModule s := rfl
@[simp] theorem exec_managementPacket (die : Die) (fromModule : Bool) (s : State) : exec (.managementPacket die fromModule) s = execManagementPacket die fromModule s := rfl
@[simp] theorem exec_surveyPacket (die : Die) (fromModule : Bool) (s : State) : exec (.surveyPacket die fromModule) s = execSurveyPacket die fromModule s := rfl
@[simp] theorem exec_transactionTimeout (die : Die) (tag : Fin 4096) (s : State) : exec (.transactionTimeout die tag) s = execTransactionTimeout die tag s := rfl
@[simp] theorem exec_ptmDialogue (answer : Option (Nat × Nat)) (s : State) : exec (.ptmDialogue answer) s = execPtmDialogue answer s := rfl
@[simp] theorem exec_sync (die : Die) (sent oneStep : Bool) (domain seq : Nat) (s : State) : exec (.sync die sent oneStep domain seq) s = execSync die sent oneStep domain seq s := rfl
@[simp] theorem exec_followUp (die : Die) (sent : Bool) (domain seq : Nat) (origin : Nat) (tlv : List Byte) (s : State) : exec (.followUp die sent domain seq origin tlv) s = execFollowUp die sent domain seq origin tlv s := rfl
@[simp] theorem exec_pdelayReq (die : Die) (t1 t2 t3 t4 : Int) (s : State) : exec (.pdelayReq die t1 t2 t3 t4) s = execPdelayReq die t1 t2 t3 t4 s := rfl
@[simp] theorem exec_announce (die : Die) (sent : Bool) (domain prio1 cls acc var prio2 ident steps : Nat) (s : State) : exec (.announce die sent domain prio1 cls acc var prio2 ident steps) s = execAnnounce die sent domain prio1 cls acc var prio2 ident steps s := rfl
@[simp] theorem exec_announceReceiptTimeout (die : Die) (s : State) : exec (.announceReceiptTimeout die) s = execAnnounceReceiptTimeout die s := rfl
@[simp] theorem exec_slewEnd (s : State) : exec (.slewEnd) s = execSlewEnd s := rfl
@[simp] theorem exec_counterChangeApply (s : State) : exec (.counterChangeApply) s = execCounterChangeApply s := rfl
@[simp] theorem exec_epochApply (s : State) : exec (.epochApply) s = execEpochApply s := rfl
@[simp] theorem exec_adoption (s : State) : exec (.adoption) s = execAdoption s := rfl
@[simp] theorem exec_clockDomainStopped (die : Fin 17) (domain : Fin 18) (rootPll : Bool) (s : State) : exec (.clockDomainStopped die domain rootPll) s = execClockDomainStopped die domain rootPll s := rfl
@[simp] theorem exec_crossingTimeout (die : Fin 17) (domain : Fin 18) (waited : Option BusAccess) (s : State) : exec (.crossingTimeout die domain waited) s = execCrossingTimeout die domain waited s := rfl
@[simp] theorem exec_tapTestDue (die : Die) (pt : PT) (s : State) : exec (.tapTestDue die pt) s = execTapTestDue die pt s := rfl
@[simp] theorem exec_tapTestResult (die : Die) (signature : W64) (s : State) : exec (.tapTestResult die signature) s = execTapTestResult die signature s := rfl
@[simp] theorem exec_tapGraceExpiry (die : Die) (area : W32) (s : State) : exec (.tapGraceExpiry die area) s = execTapGraceExpiry die area s := rfl
@[simp] theorem exec_fenceDecision (die : Die) (lt : Option (Fin 128)) (s : State) : exec (.fenceDecision die lt) s = execFenceDecision die lt s := rfl
@[simp] theorem exec_liveActivation (fails : List PT) (s : State) : exec (.liveActivation fails) s = execLiveActivation fails s := rfl
@[simp] theorem exec_calibrationWrite (data : List Byte) (whole : Bool) (s : State) : exec (.calibrationWrite data whole) s = execCalibrationWrite data whole s := rfl
@[simp] theorem exec_faultRecordDelivery (s : State) : exec (.faultRecordDelivery) s = execFaultRecordDelivery s := rfl
@[simp] theorem exec_powerGood (split : Bool) (addr : BitVec 2) (vbat : Bool) (s : State) : exec (.powerGood split addr vbat) s = execPowerGood split addr vbat s := rfl
@[simp] theorem exec_powerGoodWithdrawn (s : State) : exec (.powerGoodWithdrawn) s = execPowerGoodWithdrawn s := rfl
@[simp] theorem exec_enloopClose (volts : Nat) (s : State) : exec (.enloopClose volts) s = execEnloopClose volts s := rfl
@[simp] theorem exec_enloopOpen (s : State) : exec (.enloopOpen) s = execEnloopOpen s := rfl
@[simp] theorem exec_pwrredAssert (s : State) : exec (.pwrredAssert) s = execPwrredAssert s := rfl
@[simp] theorem exec_pwrredRelease (s : State) : exec (.pwrredRelease) s = execPwrredRelease s := rfl
@[simp] theorem exec_governorInterval (x : PwrSample) (s : State) : exec (.governorInterval x) s = execGovernorInterval x s := rfl
@[simp] theorem exec_fastClamp (cause : Fin 3) (s : State) : exec (.fastClamp cause) s = execFastClamp cause s := rfl
@[simp] theorem exec_clampRelease (s : State) : exec (.clampRelease) s = execClampRelease s := rfl
@[simp] theorem exec_supplyDroop (die : Die) (s : State) : exec (.supplyDroop die) s = execSupplyDroop die s := rfl
@[simp] theorem exec_shutdownLimit (die : Fin 17) (s : State) : exec (.shutdownLimit die) s = execShutdownLimit die s := rfl
@[simp] theorem exec_thermalTrip (s : State) : exec (.thermalTrip) s = execThermalTrip s := rfl
@[simp] theorem exec_stageAEntry (octal : Bool) (s : State) : exec (.stageAEntry octal) s = execStageAEntry octal s := rfl
@[simp] theorem exec_recoveryStageA (usable octal : Bool) (s : State) : exec (.recoveryStageA usable octal) s = execRecoveryStageA usable octal s := rfl
@[simp] theorem exec_internalDone (bad : List Die) (fails : List (Die × PT)) (shells : List Die) (s : State) : exec (.internalDone bad fails shells) s = execInternalDone bad fails s shells := rfl
@[simp] theorem exec_externalDoneHigh (s : State) : exec (.externalDoneHigh) s = execExternalDoneHigh s := rfl
@[simp] theorem exec_xdoneTimeout (s : State) : exec (.xdoneTimeout) s = execXdoneTimeout s := rfl
@[simp] theorem exec_stageBEntry (s : State) : exec (.stageBEntry) s = execStageBEntry s := rfl
@[simp] theorem exec_tilesFull (fails : List (Die × PT)) (s : State) : exec (.tilesFull fails) s = execTilesFull fails s := rfl
@[simp] theorem exec_clkFull (s : State) : exec (.clkFull) s = execClkFull s := rfl
@[simp] theorem exec_fmtWide (s : State) : exec (.fmtWide) s = execFmtWide s := rfl
@[simp] theorem exec_hbmFull (s : State) : exec (.hbmFull) s = execHbmFull s := rfl
@[simp] theorem exec_vidon (s : State) : exec (.vidon) s = execVidon s := rfl
@[simp] theorem exec_stageCEntry (s : State) : exec (.stageCEntry) s = execStageCEntry s := rfl
@[simp] theorem exec_registerRead (req : Fin 3) (off : Fin 67108864) (size : Nat) (be : BitVec 64) (s : State) : exec (.registerRead req off size be) s = execRegisterRead req off size be s := rfl
@[simp] theorem exec_configurationRequest (link : Fin 2) (s : State) : exec (.configurationRequest link) s = execConfigurationRequest link s := rfl
@[simp] theorem exec_cprsAssert (port : Die) (s : State) : exec (.cprsAssert port) s = execCprsAssert port s := rfl
@[simp] theorem exec_wakeTone (die : Die) (s : State) : exec (.wakeTone die) s = execWakeTone die s := rfl
@[simp] theorem exec_blockMemoryAccess (die : Die) (region : Fin 8) (mem : Fin 120) (a b : Option BramAccess) (flips : BitVec 72) (s : State) : exec (.blockMemoryAccess die region mem a b flips) s = execBlockMemoryAccess die region mem a b flips s := rfl
@[simp] theorem exec_ringOscillatorWindow (die : Die) (osc : Fin 4) (count : W32) (s : State) : exec (.ringOscillatorWindow die osc count) s = execRingOscillatorWindow die osc count s := rfl
@[simp] theorem exec_entropyHealthTest (passed : Bool) (s : State) : exec (.entropyHealthTest passed) s = execEntropyHealthTest passed s := rfl

end Sys2Proof.Machine
end

