-- ==== Sys2Proof/Laws/State.lean ====
section
/-! SUPPORT. One lemma per field of State per update: what each update of Machine/Ops.lean leaves as it was, and what it sets. -/

namespace Sys2Proof.Machine

variable (s : State)

/-! ## modDie -/

@[simp] theorem modDie_pending (d : Nat) (f : DieSt → DieSt) : (modDie s d f).pending = s.pending := (rfl)
@[simp] theorem modDie_regs (d : Nat) (f : DieSt → DieSt) : (modDie s d f).regs = s.regs := (rfl)
@[simp] theorem modDie_dies (d : Nat) (f : DieSt → DieSt) : (modDie s d f).dies = mmod {} s.dies d f := (rfl)
@[simp] theorem modDie_tiles (d : Nat) (f : DieSt → DieSt) : (modDie s d f).tiles = s.tiles := (rfl)
@[simp] theorem modDie_tcs (d : Nat) (f : DieSt → DieSt) : (modDie s d f).tcs = s.tcs := (rfl)
@[simp] theorem modDie_ops (d : Nat) (f : DieSt → DieSt) : (modDie s d f).ops = s.ops := (rfl)
@[simp] theorem modDie_parts (d : Nat) (f : DieSt → DieSt) : (modDie s d f).parts = s.parts := (rfl)
@[simp] theorem modDie_groups (d : Nat) (f : DieSt → DieSt) : (modDie s d f).groups = s.groups := (rfl)
@[simp] theorem modDie_csteps (d : Nat) (f : DieSt → DieSt) : (modDie s d f).csteps = s.csteps := (rfl)
@[simp] theorem modDie_pairs (d : Nat) (f : DieSt → DieSt) : (modDie s d f).pairs = s.pairs := (rfl)
@[simp] theorem modDie_ks (d : Nat) (f : DieSt → DieSt) : (modDie s d f).ks = s.ks := (rfl)
@[simp] theorem modDie_ports (d : Nat) (f : DieSt → DieSt) : (modDie s d f).ports = s.ports := (rfl)
@[simp] theorem modDie_clp (d : Nat) (f : DieSt → DieSt) : (modDie s d f).clp = s.clp := (rfl)
@[simp] theorem modDie_hub (d : Nat) (f : DieSt → DieSt) : (modDie s d f).hub = s.hub := (rfl)
@[simp] theorem modDie_pwr (d : Nat) (f : DieSt → DieSt) : (modDie s d f).pwr = s.pwr := (rfl)
@[simp] theorem modDie_host (d : Nat) (f : DieSt → DieSt) : (modDie s d f).host = s.host := (rfl)
@[simp] theorem modDie_out (d : Nat) (f : DieSt → DieSt) : (modDie s d f).out = s.out := (rfl)
@[simp] theorem modDie_fresh (d : Nat) (f : DieSt → DieSt) : (modDie s d f).fresh = s.fresh := (rfl)

/-! ## modTile -/

@[simp] theorem modTile_pending (d p : Nat) (f : Tile → Tile) : (modTile s d p f).pending = s.pending := (rfl)
@[simp] theorem modTile_regs (d p : Nat) (f : Tile → Tile) : (modTile s d p f).regs = s.regs := (rfl)
@[simp] theorem modTile_dies (d p : Nat) (f : Tile → Tile) : (modTile s d p f).dies = s.dies := (rfl)
@[simp] theorem modTile_tiles (d p : Nat) (f : Tile → Tile) : (modTile s d p f).tiles = mmod {} s.tiles (tileKey d p) f := (rfl)
@[simp] theorem modTile_tcs (d p : Nat) (f : Tile → Tile) : (modTile s d p f).tcs = s.tcs := (rfl)
@[simp] theorem modTile_ops (d p : Nat) (f : Tile → Tile) : (modTile s d p f).ops = s.ops := (rfl)
@[simp] theorem modTile_parts (d p : Nat) (f : Tile → Tile) : (modTile s d p f).parts = s.parts := (rfl)
@[simp] theorem modTile_groups (d p : Nat) (f : Tile → Tile) : (modTile s d p f).groups = s.groups := (rfl)
@[simp] theorem modTile_csteps (d p : Nat) (f : Tile → Tile) : (modTile s d p f).csteps = s.csteps := (rfl)
@[simp] theorem modTile_pairs (d p : Nat) (f : Tile → Tile) : (modTile s d p f).pairs = s.pairs := (rfl)
@[simp] theorem modTile_ks (d p : Nat) (f : Tile → Tile) : (modTile s d p f).ks = s.ks := (rfl)
@[simp] theorem modTile_ports (d p : Nat) (f : Tile → Tile) : (modTile s d p f).ports = s.ports := (rfl)
@[simp] theorem modTile_clp (d p : Nat) (f : Tile → Tile) : (modTile s d p f).clp = s.clp := (rfl)
@[simp] theorem modTile_hub (d p : Nat) (f : Tile → Tile) : (modTile s d p f).hub = s.hub := (rfl)
@[simp] theorem modTile_pwr (d p : Nat) (f : Tile → Tile) : (modTile s d p f).pwr = s.pwr := (rfl)
@[simp] theorem modTile_host (d p : Nat) (f : Tile → Tile) : (modTile s d p f).host = s.host := (rfl)
@[simp] theorem modTile_out (d p : Nat) (f : Tile → Tile) : (modTile s d p f).out = s.out := (rfl)
@[simp] theorem modTile_fresh (d p : Nat) (f : Tile → Tile) : (modTile s d p f).fresh = s.fresh := (rfl)

/-! ## modTc -/

@[simp] theorem modTc_pending (n : Nat) (f : Tc → Tc) : (modTc s n f).pending = s.pending := (rfl)
@[simp] theorem modTc_regs (n : Nat) (f : Tc → Tc) : (modTc s n f).regs = s.regs := (rfl)
@[simp] theorem modTc_dies (n : Nat) (f : Tc → Tc) : (modTc s n f).dies = s.dies := (rfl)
@[simp] theorem modTc_tiles (n : Nat) (f : Tc → Tc) : (modTc s n f).tiles = s.tiles := (rfl)
@[simp] theorem modTc_tcs (n : Nat) (f : Tc → Tc) : (modTc s n f).tcs = mmod {} s.tcs n f := (rfl)
@[simp] theorem modTc_ops (n : Nat) (f : Tc → Tc) : (modTc s n f).ops = s.ops := (rfl)
@[simp] theorem modTc_parts (n : Nat) (f : Tc → Tc) : (modTc s n f).parts = s.parts := (rfl)
@[simp] theorem modTc_groups (n : Nat) (f : Tc → Tc) : (modTc s n f).groups = s.groups := (rfl)
@[simp] theorem modTc_csteps (n : Nat) (f : Tc → Tc) : (modTc s n f).csteps = s.csteps := (rfl)
@[simp] theorem modTc_pairs (n : Nat) (f : Tc → Tc) : (modTc s n f).pairs = s.pairs := (rfl)
@[simp] theorem modTc_ks (n : Nat) (f : Tc → Tc) : (modTc s n f).ks = s.ks := (rfl)
@[simp] theorem modTc_ports (n : Nat) (f : Tc → Tc) : (modTc s n f).ports = s.ports := (rfl)
@[simp] theorem modTc_clp (n : Nat) (f : Tc → Tc) : (modTc s n f).clp = s.clp := (rfl)
@[simp] theorem modTc_hub (n : Nat) (f : Tc → Tc) : (modTc s n f).hub = s.hub := (rfl)
@[simp] theorem modTc_pwr (n : Nat) (f : Tc → Tc) : (modTc s n f).pwr = s.pwr := (rfl)
@[simp] theorem modTc_host (n : Nat) (f : Tc → Tc) : (modTc s n f).host = s.host := (rfl)
@[simp] theorem modTc_out (n : Nat) (f : Tc → Tc) : (modTc s n f).out = s.out := (rfl)
@[simp] theorem modTc_fresh (n : Nat) (f : Tc → Tc) : (modTc s n f).fresh = s.fresh := (rfl)

/-! ## modOp -/

@[simp] theorem modOp_pending (k : Nat) (f : Op → Op) : (modOp s k f).pending = s.pending := by
  unfold modOp; split <;> rfl
@[simp] theorem modOp_regs (k : Nat) (f : Op → Op) : (modOp s k f).regs = s.regs := by
  unfold modOp; split <;> rfl
@[simp] theorem modOp_dies (k : Nat) (f : Op → Op) : (modOp s k f).dies = s.dies := by
  unfold modOp; split <;> rfl
@[simp] theorem modOp_tiles (k : Nat) (f : Op → Op) : (modOp s k f).tiles = s.tiles := by
  unfold modOp; split <;> rfl
@[simp] theorem modOp_tcs (k : Nat) (f : Op → Op) : (modOp s k f).tcs = s.tcs := by
  unfold modOp; split <;> rfl
@[simp] theorem modOp_parts (k : Nat) (f : Op → Op) : (modOp s k f).parts = s.parts := by
  unfold modOp; split <;> rfl
@[simp] theorem modOp_groups (k : Nat) (f : Op → Op) : (modOp s k f).groups = s.groups := by
  unfold modOp; split <;> rfl
@[simp] theorem modOp_csteps (k : Nat) (f : Op → Op) : (modOp s k f).csteps = s.csteps := by
  unfold modOp; split <;> rfl
@[simp] theorem modOp_pairs (k : Nat) (f : Op → Op) : (modOp s k f).pairs = s.pairs := by
  unfold modOp; split <;> rfl
@[simp] theorem modOp_ks (k : Nat) (f : Op → Op) : (modOp s k f).ks = s.ks := by
  unfold modOp; split <;> rfl
@[simp] theorem modOp_ports (k : Nat) (f : Op → Op) : (modOp s k f).ports = s.ports := by
  unfold modOp; split <;> rfl
@[simp] theorem modOp_clp (k : Nat) (f : Op → Op) : (modOp s k f).clp = s.clp := by
  unfold modOp; split <;> rfl
@[simp] theorem modOp_hub (k : Nat) (f : Op → Op) : (modOp s k f).hub = s.hub := by
  unfold modOp; split <;> rfl
@[simp] theorem modOp_pwr (k : Nat) (f : Op → Op) : (modOp s k f).pwr = s.pwr := by
  unfold modOp; split <;> rfl
@[simp] theorem modOp_host (k : Nat) (f : Op → Op) : (modOp s k f).host = s.host := by
  unfold modOp; split <;> rfl
@[simp] theorem modOp_out (k : Nat) (f : Op → Op) : (modOp s k f).out = s.out := by
  unfold modOp; split <;> rfl
@[simp] theorem modOp_fresh (k : Nat) (f : Op → Op) : (modOp s k f).fresh = s.fresh := by
  unfold modOp; split <;> rfl

/-! ## modPart -/

@[simp] theorem modPart_pending (p : Nat) (f : Partition → Partition) : (modPart s p f).pending = s.pending := by
  unfold modPart; split <;> rfl
@[simp] theorem modPart_regs (p : Nat) (f : Partition → Partition) : (modPart s p f).regs = s.regs := by
  unfold modPart; split <;> rfl
@[simp] theorem modPart_dies (p : Nat) (f : Partition → Partition) : (modPart s p f).dies = s.dies := by
  unfold modPart; split <;> rfl
@[simp] theorem modPart_tiles (p : Nat) (f : Partition → Partition) : (modPart s p f).tiles = s.tiles := by
  unfold modPart; split <;> rfl
@[simp] theorem modPart_tcs (p : Nat) (f : Partition → Partition) : (modPart s p f).tcs = s.tcs := by
  unfold modPart; split <;> rfl
@[simp] theorem modPart_ops (p : Nat) (f : Partition → Partition) : (modPart s p f).ops = s.ops := by
  unfold modPart; split <;> rfl
@[simp] theorem modPart_groups (p : Nat) (f : Partition → Partition) : (modPart s p f).groups = s.groups := by
  unfold modPart; split <;> rfl
@[simp] theorem modPart_csteps (p : Nat) (f : Partition → Partition) : (modPart s p f).csteps = s.csteps := by
  unfold modPart; split <;> rfl
@[simp] theorem modPart_pairs (p : Nat) (f : Partition → Partition) : (modPart s p f).pairs = s.pairs := by
  unfold modPart; split <;> rfl
@[simp] theorem modPart_ks (p : Nat) (f : Partition → Partition) : (modPart s p f).ks = s.ks := by
  unfold modPart; split <;> rfl
@[simp] theorem modPart_ports (p : Nat) (f : Partition → Partition) : (modPart s p f).ports = s.ports := by
  unfold modPart; split <;> rfl
@[simp] theorem modPart_clp (p : Nat) (f : Partition → Partition) : (modPart s p f).clp = s.clp := by
  unfold modPart; split <;> rfl
@[simp] theorem modPart_hub (p : Nat) (f : Partition → Partition) : (modPart s p f).hub = s.hub := by
  unfold modPart; split <;> rfl
@[simp] theorem modPart_pwr (p : Nat) (f : Partition → Partition) : (modPart s p f).pwr = s.pwr := by
  unfold modPart; split <;> rfl
@[simp] theorem modPart_host (p : Nat) (f : Partition → Partition) : (modPart s p f).host = s.host := by
  unfold modPart; split <;> rfl
@[simp] theorem modPart_out (p : Nat) (f : Partition → Partition) : (modPart s p f).out = s.out := by
  unfold modPart; split <;> rfl
@[simp] theorem modPart_fresh (p : Nat) (f : Partition → Partition) : (modPart s p f).fresh = s.fresh := by
  unfold modPart; split <;> rfl

/-! ## modPort -/

@[simp] theorem modPort_pending (d : Nat) (f : Port → Port) : (modPort s d f).pending = s.pending := (rfl)
@[simp] theorem modPort_regs (d : Nat) (f : Port → Port) : (modPort s d f).regs = s.regs := (rfl)
@[simp] theorem modPort_dies (d : Nat) (f : Port → Port) : (modPort s d f).dies = s.dies := (rfl)
@[simp] theorem modPort_tiles (d : Nat) (f : Port → Port) : (modPort s d f).tiles = s.tiles := (rfl)
@[simp] theorem modPort_tcs (d : Nat) (f : Port → Port) : (modPort s d f).tcs = s.tcs := (rfl)
@[simp] theorem modPort_ops (d : Nat) (f : Port → Port) : (modPort s d f).ops = s.ops := (rfl)
@[simp] theorem modPort_parts (d : Nat) (f : Port → Port) : (modPort s d f).parts = s.parts := (rfl)
@[simp] theorem modPort_groups (d : Nat) (f : Port → Port) : (modPort s d f).groups = s.groups := (rfl)
@[simp] theorem modPort_csteps (d : Nat) (f : Port → Port) : (modPort s d f).csteps = s.csteps := (rfl)
@[simp] theorem modPort_pairs (d : Nat) (f : Port → Port) : (modPort s d f).pairs = s.pairs := (rfl)
@[simp] theorem modPort_ks (d : Nat) (f : Port → Port) : (modPort s d f).ks = s.ks := (rfl)
@[simp] theorem modPort_ports (d : Nat) (f : Port → Port) : (modPort s d f).ports = mmod {} s.ports d f := (rfl)
@[simp] theorem modPort_clp (d : Nat) (f : Port → Port) : (modPort s d f).clp = s.clp := (rfl)
@[simp] theorem modPort_hub (d : Nat) (f : Port → Port) : (modPort s d f).hub = s.hub := (rfl)
@[simp] theorem modPort_pwr (d : Nat) (f : Port → Port) : (modPort s d f).pwr = s.pwr := (rfl)
@[simp] theorem modPort_host (d : Nat) (f : Port → Port) : (modPort s d f).host = s.host := (rfl)
@[simp] theorem modPort_out (d : Nat) (f : Port → Port) : (modPort s d f).out = s.out := (rfl)
@[simp] theorem modPort_fresh (d : Nat) (f : Port → Port) : (modPort s d f).fresh = s.fresh := (rfl)

/-! ## modHub -/

@[simp] theorem modHub_pending (f : Hub → Hub) : (modHub s f).pending = s.pending := (rfl)
@[simp] theorem modHub_regs (f : Hub → Hub) : (modHub s f).regs = s.regs := (rfl)
@[simp] theorem modHub_dies (f : Hub → Hub) : (modHub s f).dies = s.dies := (rfl)
@[simp] theorem modHub_tiles (f : Hub → Hub) : (modHub s f).tiles = s.tiles := (rfl)
@[simp] theorem modHub_tcs (f : Hub → Hub) : (modHub s f).tcs = s.tcs := (rfl)
@[simp] theorem modHub_ops (f : Hub → Hub) : (modHub s f).ops = s.ops := (rfl)
@[simp] theorem modHub_parts (f : Hub → Hub) : (modHub s f).parts = s.parts := (rfl)
@[simp] theorem modHub_groups (f : Hub → Hub) : (modHub s f).groups = s.groups := (rfl)
@[simp] theorem modHub_csteps (f : Hub → Hub) : (modHub s f).csteps = s.csteps := (rfl)
@[simp] theorem modHub_pairs (f : Hub → Hub) : (modHub s f).pairs = s.pairs := (rfl)
@[simp] theorem modHub_ks (f : Hub → Hub) : (modHub s f).ks = s.ks := (rfl)
@[simp] theorem modHub_ports (f : Hub → Hub) : (modHub s f).ports = s.ports := (rfl)
@[simp] theorem modHub_clp (f : Hub → Hub) : (modHub s f).clp = s.clp := (rfl)
@[simp] theorem modHub_hub (f : Hub → Hub) : (modHub s f).hub = f s.hub := (rfl)
@[simp] theorem modHub_pwr (f : Hub → Hub) : (modHub s f).pwr = s.pwr := (rfl)
@[simp] theorem modHub_host (f : Hub → Hub) : (modHub s f).host = s.host := (rfl)
@[simp] theorem modHub_out (f : Hub → Hub) : (modHub s f).out = s.out := (rfl)
@[simp] theorem modHub_fresh (f : Hub → Hub) : (modHub s f).fresh = s.fresh := (rfl)

/-! ## modClp -/

@[simp] theorem modClp_pending (f : Clep → Clep) : (modClp s f).pending = s.pending := (rfl)
@[simp] theorem modClp_regs (f : Clep → Clep) : (modClp s f).regs = s.regs := (rfl)
@[simp] theorem modClp_dies (f : Clep → Clep) : (modClp s f).dies = s.dies := (rfl)
@[simp] theorem modClp_tiles (f : Clep → Clep) : (modClp s f).tiles = s.tiles := (rfl)
@[simp] theorem modClp_tcs (f : Clep → Clep) : (modClp s f).tcs = s.tcs := (rfl)
@[simp] theorem modClp_ops (f : Clep → Clep) : (modClp s f).ops = s.ops := (rfl)
@[simp] theorem modClp_parts (f : Clep → Clep) : (modClp s f).parts = s.parts := (rfl)
@[simp] theorem modClp_groups (f : Clep → Clep) : (modClp s f).groups = s.groups := (rfl)
@[simp] theorem modClp_csteps (f : Clep → Clep) : (modClp s f).csteps = s.csteps := (rfl)
@[simp] theorem modClp_pairs (f : Clep → Clep) : (modClp s f).pairs = s.pairs := (rfl)
@[simp] theorem modClp_ks (f : Clep → Clep) : (modClp s f).ks = s.ks := (rfl)
@[simp] theorem modClp_ports (f : Clep → Clep) : (modClp s f).ports = s.ports := (rfl)
@[simp] theorem modClp_clp (f : Clep → Clep) : (modClp s f).clp = f s.clp := (rfl)
@[simp] theorem modClp_hub (f : Clep → Clep) : (modClp s f).hub = s.hub := (rfl)
@[simp] theorem modClp_pwr (f : Clep → Clep) : (modClp s f).pwr = s.pwr := (rfl)
@[simp] theorem modClp_host (f : Clep → Clep) : (modClp s f).host = s.host := (rfl)
@[simp] theorem modClp_out (f : Clep → Clep) : (modClp s f).out = s.out := (rfl)
@[simp] theorem modClp_fresh (f : Clep → Clep) : (modClp s f).fresh = s.fresh := (rfl)

/-! ## modPwr -/

@[simp] theorem modPwr_pending (f : Power → Power) : (modPwr s f).pending = s.pending := (rfl)
@[simp] theorem modPwr_regs (f : Power → Power) : (modPwr s f).regs = s.regs := (rfl)
@[simp] theorem modPwr_dies (f : Power → Power) : (modPwr s f).dies = s.dies := (rfl)
@[simp] theorem modPwr_tiles (f : Power → Power) : (modPwr s f).tiles = s.tiles := (rfl)
@[simp] theorem modPwr_tcs (f : Power → Power) : (modPwr s f).tcs = s.tcs := (rfl)
@[simp] theorem modPwr_ops (f : Power → Power) : (modPwr s f).ops = s.ops := (rfl)
@[simp] theorem modPwr_parts (f : Power → Power) : (modPwr s f).parts = s.parts := (rfl)
@[simp] theorem modPwr_groups (f : Power → Power) : (modPwr s f).groups = s.groups := (rfl)
@[simp] theorem modPwr_csteps (f : Power → Power) : (modPwr s f).csteps = s.csteps := (rfl)
@[simp] theorem modPwr_pairs (f : Power → Power) : (modPwr s f).pairs = s.pairs := (rfl)
@[simp] theorem modPwr_ks (f : Power → Power) : (modPwr s f).ks = s.ks := (rfl)
@[simp] theorem modPwr_ports (f : Power → Power) : (modPwr s f).ports = s.ports := (rfl)
@[simp] theorem modPwr_clp (f : Power → Power) : (modPwr s f).clp = s.clp := (rfl)
@[simp] theorem modPwr_hub (f : Power → Power) : (modPwr s f).hub = s.hub := (rfl)
@[simp] theorem modPwr_pwr (f : Power → Power) : (modPwr s f).pwr = f s.pwr := (rfl)
@[simp] theorem modPwr_host (f : Power → Power) : (modPwr s f).host = s.host := (rfl)
@[simp] theorem modPwr_out (f : Power → Power) : (modPwr s f).out = s.out := (rfl)
@[simp] theorem modPwr_fresh (f : Power → Power) : (modPwr s f).fresh = s.fresh := (rfl)

/-! ## modKs -/

@[simp] theorem modKs_pending (f : Keystone → Keystone) : (modKs s f).pending = s.pending := (rfl)
@[simp] theorem modKs_regs (f : Keystone → Keystone) : (modKs s f).regs = s.regs := (rfl)
@[simp] theorem modKs_dies (f : Keystone → Keystone) : (modKs s f).dies = s.dies := (rfl)
@[simp] theorem modKs_tiles (f : Keystone → Keystone) : (modKs s f).tiles = s.tiles := (rfl)
@[simp] theorem modKs_tcs (f : Keystone → Keystone) : (modKs s f).tcs = s.tcs := (rfl)
@[simp] theorem modKs_ops (f : Keystone → Keystone) : (modKs s f).ops = s.ops := (rfl)
@[simp] theorem modKs_parts (f : Keystone → Keystone) : (modKs s f).parts = s.parts := (rfl)
@[simp] theorem modKs_groups (f : Keystone → Keystone) : (modKs s f).groups = s.groups := (rfl)
@[simp] theorem modKs_csteps (f : Keystone → Keystone) : (modKs s f).csteps = s.csteps := (rfl)
@[simp] theorem modKs_pairs (f : Keystone → Keystone) : (modKs s f).pairs = s.pairs := (rfl)
@[simp] theorem modKs_ks (f : Keystone → Keystone) : (modKs s f).ks = f s.ks := (rfl)
@[simp] theorem modKs_ports (f : Keystone → Keystone) : (modKs s f).ports = s.ports := (rfl)
@[simp] theorem modKs_clp (f : Keystone → Keystone) : (modKs s f).clp = s.clp := (rfl)
@[simp] theorem modKs_hub (f : Keystone → Keystone) : (modKs s f).hub = s.hub := (rfl)
@[simp] theorem modKs_pwr (f : Keystone → Keystone) : (modKs s f).pwr = s.pwr := (rfl)
@[simp] theorem modKs_host (f : Keystone → Keystone) : (modKs s f).host = s.host := (rfl)
@[simp] theorem modKs_out (f : Keystone → Keystone) : (modKs s f).out = s.out := (rfl)
@[simp] theorem modKs_fresh (f : Keystone → Keystone) : (modKs s f).fresh = s.fresh := (rfl)

/-! ## send -/

@[simp] theorem send_pending (m : OutMsg) : (send s m).pending = s.pending := (rfl)
@[simp] theorem send_regs (m : OutMsg) : (send s m).regs = s.regs := (rfl)
@[simp] theorem send_dies (m : OutMsg) : (send s m).dies = s.dies := (rfl)
@[simp] theorem send_tiles (m : OutMsg) : (send s m).tiles = s.tiles := (rfl)
@[simp] theorem send_tcs (m : OutMsg) : (send s m).tcs = s.tcs := (rfl)
@[simp] theorem send_ops (m : OutMsg) : (send s m).ops = s.ops := (rfl)
@[simp] theorem send_parts (m : OutMsg) : (send s m).parts = s.parts := (rfl)
@[simp] theorem send_groups (m : OutMsg) : (send s m).groups = s.groups := (rfl)
@[simp] theorem send_csteps (m : OutMsg) : (send s m).csteps = s.csteps := (rfl)
@[simp] theorem send_pairs (m : OutMsg) : (send s m).pairs = s.pairs := (rfl)
@[simp] theorem send_ks (m : OutMsg) : (send s m).ks = s.ks := (rfl)
@[simp] theorem send_ports (m : OutMsg) : (send s m).ports = s.ports := (rfl)
@[simp] theorem send_clp (m : OutMsg) : (send s m).clp = s.clp := (rfl)
@[simp] theorem send_hub (m : OutMsg) : (send s m).hub = s.hub := (rfl)
@[simp] theorem send_pwr (m : OutMsg) : (send s m).pwr = s.pwr := (rfl)
@[simp] theorem send_host (m : OutMsg) : (send s m).host = s.host := (rfl)
@[simp] theorem send_out (m : OutMsg) : (send s m).out = m :: s.out := (rfl)
@[simp] theorem send_fresh (m : OutMsg) : (send s m).fresh = s.fresh := (rfl)

/-! ## setRaw -/

@[simp] theorem setRaw_pending (k : Nat) (v : W32) : (setRaw s k v).pending = s.pending := (rfl)
@[simp] theorem setRaw_regs (k : Nat) (v : W32) : (setRaw s k v).regs = mset (regReset k) s.regs k v := (rfl)
@[simp] theorem setRaw_dies (k : Nat) (v : W32) : (setRaw s k v).dies = s.dies := (rfl)
@[simp] theorem setRaw_tiles (k : Nat) (v : W32) : (setRaw s k v).tiles = s.tiles := (rfl)
@[simp] theorem setRaw_tcs (k : Nat) (v : W32) : (setRaw s k v).tcs = s.tcs := (rfl)
@[simp] theorem setRaw_ops (k : Nat) (v : W32) : (setRaw s k v).ops = s.ops := (rfl)
@[simp] theorem setRaw_parts (k : Nat) (v : W32) : (setRaw s k v).parts = s.parts := (rfl)
@[simp] theorem setRaw_groups (k : Nat) (v : W32) : (setRaw s k v).groups = s.groups := (rfl)
@[simp] theorem setRaw_csteps (k : Nat) (v : W32) : (setRaw s k v).csteps = s.csteps := (rfl)
@[simp] theorem setRaw_pairs (k : Nat) (v : W32) : (setRaw s k v).pairs = s.pairs := (rfl)
@[simp] theorem setRaw_ks (k : Nat) (v : W32) : (setRaw s k v).ks = s.ks := (rfl)
@[simp] theorem setRaw_ports (k : Nat) (v : W32) : (setRaw s k v).ports = s.ports := (rfl)
@[simp] theorem setRaw_clp (k : Nat) (v : W32) : (setRaw s k v).clp = s.clp := (rfl)
@[simp] theorem setRaw_hub (k : Nat) (v : W32) : (setRaw s k v).hub = s.hub := (rfl)
@[simp] theorem setRaw_pwr (k : Nat) (v : W32) : (setRaw s k v).pwr = s.pwr := (rfl)
@[simp] theorem setRaw_host (k : Nat) (v : W32) : (setRaw s k v).host = s.host := (rfl)
@[simp] theorem setRaw_out (k : Nat) (v : W32) : (setRaw s k v).out = s.out := (rfl)
@[simp] theorem setRaw_fresh (k : Nat) (v : W32) : (setRaw s k v).fresh = s.fresh := (rfl)

/-! ## setFld -/

@[simp] theorem setFld_pending (k lo len v : Nat) : (setFld s k lo len v).pending = s.pending := (rfl)
@[simp] theorem setFld_dies (k lo len v : Nat) : (setFld s k lo len v).dies = s.dies := (rfl)
@[simp] theorem setFld_tiles (k lo len v : Nat) : (setFld s k lo len v).tiles = s.tiles := (rfl)
@[simp] theorem setFld_tcs (k lo len v : Nat) : (setFld s k lo len v).tcs = s.tcs := (rfl)
@[simp] theorem setFld_ops (k lo len v : Nat) : (setFld s k lo len v).ops = s.ops := (rfl)
@[simp] theorem setFld_parts (k lo len v : Nat) : (setFld s k lo len v).parts = s.parts := (rfl)
@[simp] theorem setFld_groups (k lo len v : Nat) : (setFld s k lo len v).groups = s.groups := (rfl)
@[simp] theorem setFld_csteps (k lo len v : Nat) : (setFld s k lo len v).csteps = s.csteps := (rfl)
@[simp] theorem setFld_pairs (k lo len v : Nat) : (setFld s k lo len v).pairs = s.pairs := (rfl)
@[simp] theorem setFld_ks (k lo len v : Nat) : (setFld s k lo len v).ks = s.ks := (rfl)
@[simp] theorem setFld_ports (k lo len v : Nat) : (setFld s k lo len v).ports = s.ports := (rfl)
@[simp] theorem setFld_clp (k lo len v : Nat) : (setFld s k lo len v).clp = s.clp := (rfl)
@[simp] theorem setFld_hub (k lo len v : Nat) : (setFld s k lo len v).hub = s.hub := (rfl)
@[simp] theorem setFld_pwr (k lo len v : Nat) : (setFld s k lo len v).pwr = s.pwr := (rfl)
@[simp] theorem setFld_host (k lo len v : Nat) : (setFld s k lo len v).host = s.host := (rfl)
@[simp] theorem setFld_out (k lo len v : Nat) : (setFld s k lo len v).out = s.out := (rfl)
@[simp] theorem setFld_fresh (k lo len v : Nat) : (setFld s k lo len v).fresh = s.fresh := (rfl)

/-! ## setFlag -/

@[simp] theorem setFlag_pending (k i : Nat) (b : Bool) : (setFlag s k i b).pending = s.pending := (rfl)
@[simp] theorem setFlag_dies (k i : Nat) (b : Bool) : (setFlag s k i b).dies = s.dies := (rfl)
@[simp] theorem setFlag_tiles (k i : Nat) (b : Bool) : (setFlag s k i b).tiles = s.tiles := (rfl)
@[simp] theorem setFlag_tcs (k i : Nat) (b : Bool) : (setFlag s k i b).tcs = s.tcs := (rfl)
@[simp] theorem setFlag_ops (k i : Nat) (b : Bool) : (setFlag s k i b).ops = s.ops := (rfl)
@[simp] theorem setFlag_parts (k i : Nat) (b : Bool) : (setFlag s k i b).parts = s.parts := (rfl)
@[simp] theorem setFlag_groups (k i : Nat) (b : Bool) : (setFlag s k i b).groups = s.groups := (rfl)
@[simp] theorem setFlag_csteps (k i : Nat) (b : Bool) : (setFlag s k i b).csteps = s.csteps := (rfl)
@[simp] theorem setFlag_pairs (k i : Nat) (b : Bool) : (setFlag s k i b).pairs = s.pairs := (rfl)
@[simp] theorem setFlag_ks (k i : Nat) (b : Bool) : (setFlag s k i b).ks = s.ks := (rfl)
@[simp] theorem setFlag_ports (k i : Nat) (b : Bool) : (setFlag s k i b).ports = s.ports := (rfl)
@[simp] theorem setFlag_clp (k i : Nat) (b : Bool) : (setFlag s k i b).clp = s.clp := (rfl)
@[simp] theorem setFlag_hub (k i : Nat) (b : Bool) : (setFlag s k i b).hub = s.hub := (rfl)
@[simp] theorem setFlag_pwr (k i : Nat) (b : Bool) : (setFlag s k i b).pwr = s.pwr := (rfl)
@[simp] theorem setFlag_host (k i : Nat) (b : Bool) : (setFlag s k i b).host = s.host := (rfl)
@[simp] theorem setFlag_out (k i : Nat) (b : Bool) : (setFlag s k i b).out = s.out := (rfl)
@[simp] theorem setFlag_fresh (k i : Nat) (b : Bool) : (setFlag s k i b).fresh = s.fresh := (rfl)

/-! ## bump -/

@[simp] theorem bump_pending (k lo len n : Nat) : (bump s k lo len n).pending = s.pending := (rfl)
@[simp] theorem bump_dies (k lo len n : Nat) : (bump s k lo len n).dies = s.dies := (rfl)
@[simp] theorem bump_tiles (k lo len n : Nat) : (bump s k lo len n).tiles = s.tiles := (rfl)
@[simp] theorem bump_tcs (k lo len n : Nat) : (bump s k lo len n).tcs = s.tcs := (rfl)
@[simp] theorem bump_ops (k lo len n : Nat) : (bump s k lo len n).ops = s.ops := (rfl)
@[simp] theorem bump_parts (k lo len n : Nat) : (bump s k lo len n).parts = s.parts := (rfl)
@[simp] theorem bump_groups (k lo len n : Nat) : (bump s k lo len n).groups = s.groups := (rfl)
@[simp] theorem bump_csteps (k lo len n : Nat) : (bump s k lo len n).csteps = s.csteps := (rfl)
@[simp] theorem bump_pairs (k lo len n : Nat) : (bump s k lo len n).pairs = s.pairs := (rfl)
@[simp] theorem bump_ks (k lo len n : Nat) : (bump s k lo len n).ks = s.ks := (rfl)
@[simp] theorem bump_ports (k lo len n : Nat) : (bump s k lo len n).ports = s.ports := (rfl)
@[simp] theorem bump_clp (k lo len n : Nat) : (bump s k lo len n).clp = s.clp := (rfl)
@[simp] theorem bump_hub (k lo len n : Nat) : (bump s k lo len n).hub = s.hub := (rfl)
@[simp] theorem bump_pwr (k lo len n : Nat) : (bump s k lo len n).pwr = s.pwr := (rfl)
@[simp] theorem bump_host (k lo len n : Nat) : (bump s k lo len n).host = s.host := (rfl)
@[simp] theorem bump_out (k lo len n : Nat) : (bump s k lo len n).out = s.out := (rfl)
@[simp] theorem bump_fresh (k lo len n : Nat) : (bump s k lo len n).fresh = s.fresh := (rfl)

end Sys2Proof.Machine
end

