-- ==== Sys2Proof/Laws/FrameFuses.lean ====
section
/-! SUPPORT. Frames: the operations of the model that leave the fuses and the key slots as they were. -/

namespace Sys2Proof.Machine
@[simp] theorem foldl_fuses {β : Type} (g : State → β → State) (h : ∀ a x, fusesOf (g a x).ks = fusesOf a.ks) (l : List β) (s : State) :
    fusesOf (l.foldl g s).ks = fusesOf s.ks := by
  induction l generalizing s with
  | nil => rfl
  | cons e r ih => exact (ih (g s e)).trans (h s e)

@[simp] theorem setRaw_fuses (s : State) (k : Nat) (v : W32) : fusesOf (setRaw s k v).ks = fusesOf s.ks := by
  unfold setRaw
  (try dsimp only)
  repeat' split
  all_goals (first | done | (simp [apply_ite (fun x : State => fusesOf x.ks)]; done) | rfl | (simp; rfl) | (refine foldl_fuses _ ?_ _ _; intro a x; dsimp only; repeat' split; all_goals (first | done | simp | rfl)))

@[simp] theorem setFld_fuses (s : State) (k lo len v : Nat) : fusesOf (setFld s k lo len v).ks = fusesOf s.ks := by
  unfold setFld
  (try dsimp only)
  repeat' split
  all_goals (first | done | (simp [apply_ite (fun x : State => fusesOf x.ks)]; done) | rfl | (simp; rfl) | (refine foldl_fuses _ ?_ _ _; intro a x; dsimp only; repeat' split; all_goals (first | done | simp | rfl)))

@[simp] theorem bump_fuses (s : State) (k lo len n : Nat) : fusesOf (bump s k lo len n).ks = fusesOf s.ks := by
  unfold bump
  (try dsimp only)
  repeat' split
  all_goals (first | done | (simp [apply_ite (fun x : State => fusesOf x.ks)]; done) | rfl | (simp; rfl) | (refine foldl_fuses _ ?_ _ _; intro a x; dsimp only; repeat' split; all_goals (first | done | simp | rfl)))

@[simp] theorem setFlag_fuses (s : State) (k i : Nat) (b : Bool) : fusesOf (setFlag s k i b).ks = fusesOf s.ks := by
  unfold setFlag
  (try dsimp only)
  repeat' split
  all_goals (first | done | (simp [apply_ite (fun x : State => fusesOf x.ks)]; done) | rfl | (simp; rfl) | (refine foldl_fuses _ ?_ _ _; intro a x; dsimp only; repeat' split; all_goals (first | done | simp | rfl)))

@[simp] theorem msix_fuses (s : State) (link vec : Nat) : fusesOf (msix s link vec).ks = fusesOf s.ks := by
  unfold msix
  (try dsimp only)
  repeat' split
  all_goals (first | done | (simp [apply_ite (fun x : State => fusesOf x.ks)]; done) | rfl | (simp; rfl) | (refine foldl_fuses _ ?_ _ _; intro a x; dsimp only; repeat' split; all_goals (first | done | simp | rfl)))

@[simp] theorem moduleEvent_fuses (s : State) (n : Nat) : fusesOf (moduleEvent s n).ks = fusesOf s.ks := by
  unfold moduleEvent
  (try dsimp only)
  repeat' split
  all_goals (first | done | (simp [apply_ite (fun x : State => fusesOf x.ks)]; done) | rfl | (simp; rfl) | (refine foldl_fuses _ ?_ _ _; intro a x; dsimp only; repeat' split; all_goals (first | done | simp | rfl)))

@[simp] theorem suspect_fuses (s : State) (d src : Nat) : fusesOf (suspect s d src).ks = fusesOf s.ks := by
  unfold suspect
  (try dsimp only)
  repeat' split
  all_goals (first | done | (simp [apply_ite (fun x : State => fusesOf x.ks)]; done) | rfl | (simp; rfl) | (refine foldl_fuses _ ?_ _ _; intro a x; dsimp only; repeat' split; all_goals (first | done | simp | rfl)))

@[simp] theorem storeAt_fuses (s : State) (d : Nat) (pl : Place) (x : Line) : fusesOf (storeAt s d pl x).ks = fusesOf s.ks := by
  unfold storeAt
  (try dsimp only)
  repeat' split
  all_goals (first | done | (simp [apply_ite (fun x : State => fusesOf x.ks)]; done) | rfl | (simp; rfl) | (refine foldl_fuses _ ?_ _ _; intro a x; dsimp only; repeat' split; all_goals (first | done | simp | rfl)))

@[simp] theorem dirtyWeights_fuses (s : State) (pn addr : Nat) : fusesOf (dirtyWeights s pn addr).ks = fusesOf s.ks := by
  unfold dirtyWeights
  (try dsimp only)
  repeat' split
  all_goals (first | done | (simp [apply_ite (fun x : State => fusesOf x.ks)]; done) | rfl | (simp; rfl) | (refine foldl_fuses _ ?_ _ _; intro a x; dsimp only; repeat' split; all_goals (first | done | simp | rfl)))

@[simp] theorem writeLine_fuses (s : State) (pn d addr : Nat) (x : Line) : fusesOf ((writeLine s pn d addr x).2).ks = fusesOf s.ks := by
  unfold writeLine
  (try dsimp only)
  repeat' split
  all_goals (first | done | (simp [apply_ite (fun x : State => fusesOf x.ks)]; done) | rfl | (simp; rfl) | (refine foldl_fuses _ ?_ _ _; intro a x; dsimp only; repeat' split; all_goals (first | done | simp | rfl)))

@[simp] theorem storeLines_fuses (s : State) (pn d addr : Nat) (xs : List Line) : fusesOf (storeLines s pn d addr xs).ks = fusesOf s.ks := by
  induction xs generalizing s addr with
  | nil => rfl
  | cons x r ih => simp [storeLines, ih]

@[simp] theorem writeLines_fuses (s : State) (pn d addr : Nat) (xs : List Line) : fusesOf ((writeLines s pn d addr xs).2).ks = fusesOf s.ks := by
  unfold writeLines
  (try dsimp only)
  repeat' split
  all_goals (first | done | (simp [apply_ite (fun x : State => fusesOf x.ks)]; done) | rfl | (simp; rfl) | (refine foldl_fuses _ ?_ _ _; intro a x; dsimp only; repeat' split; all_goals (first | done | simp | rfl)))

@[simp] theorem hostWrite_fuses (s : State) (a : Nat) (b : List Byte) : fusesOf (hostWrite s a b).ks = fusesOf s.ks := by
  unfold hostWrite
  (try dsimp only)
  repeat' split
  all_goals (first | done | (simp [apply_ite (fun x : State => fusesOf x.ks)]; done) | rfl | (simp; rfl) | (refine foldl_fuses _ ?_ _ _; intro a x; dsimp only; repeat' split; all_goals (first | done | simp | rfl)))

@[simp] theorem sectorErase_fuses (s : State) (sector : Nat) : fusesOf (sectorErase s sector).ks = fusesOf s.ks := by
  unfold sectorErase
  (try dsimp only)
  repeat' split
  all_goals (first | done | (simp [apply_ite (fun x : State => fusesOf x.ks)]; done) | rfl | (simp; rfl) | (refine foldl_fuses _ ?_ _ _; intro a x; dsimp only; repeat' split; all_goals (first | done | simp | rfl)))

@[simp] theorem pageProgram_fuses (s : State) (a : Nat) (b : List Byte) : fusesOf (pageProgram s a b).ks = fusesOf s.ks := by
  unfold pageProgram
  (try dsimp only)
  repeat' split
  all_goals (first | done | (simp [apply_ite (fun x : State => fusesOf x.ks)]; done) | rfl | (simp; rfl) | (refine foldl_fuses _ ?_ _ _; intro a x; dsimp only; repeat' split; all_goals (first | done | simp | rfl)))

@[simp] theorem flashWrite_fuses (s : State) (a : Nat) (b : List Byte) : fusesOf (flashWrite s a b).ks = fusesOf s.ks := by
  unfold flashWrite
  (try dsimp only)
  repeat' split
  all_goals (first | done | (simp [apply_ite (fun x : State => fusesOf x.ks)]; done) | rfl | (simp; rfl) | (refine foldl_fuses _ ?_ _ _; intro a x; dsimp only; repeat' split; all_goals (first | done | simp | rfl)))

@[simp] theorem faultSig_fuses (s : State) (a : FaultArgs) : fusesOf (faultSig s a).ks = fusesOf s.ks := by
  unfold faultSig
  (try dsimp only)
  repeat' split
  all_goals (first | done | (simp [apply_ite (fun x : State => fusesOf x.ks)]; done) | rfl | (simp; rfl) | (refine foldl_fuses _ ?_ _ _; intro a x; dsimp only; repeat' split; all_goals (first | done | simp | rfl)))

@[simp] theorem sendCodeword_fuses (s : State) (d g : Nat) (frame : Nat) : fusesOf (sendCodeword s d g frame).ks = fusesOf s.ks := by
  unfold sendCodeword
  (try dsimp only)
  repeat' split
  all_goals (first | done | (simp [apply_ite (fun x : State => fusesOf x.ks)]; done) | rfl | (simp; rfl) | (refine foldl_fuses _ ?_ _ _; intro a x; dsimp only; repeat' split; all_goals (first | done | simp | rfl)))

@[simp] theorem sendNull_fuses (s : State) (d : Nat) : fusesOf (sendNull s d).ks = fusesOf s.ks := by
  unfold sendNull
  (try dsimp only)
  repeat' split
  all_goals (first | done | (simp [apply_ite (fun x : State => fusesOf x.ks)]; done) | rfl | (simp; rfl) | (refine foldl_fuses _ ?_ _ _; intro a x; dsimp only; repeat' split; all_goals (first | done | simp | rfl)))

@[simp] theorem resendFrame_fuses (s : State) (d i : Nat) (k : Kept) : fusesOf (resendFrame s d i k).ks = fusesOf s.ks := by
  unfold resendFrame
  (try dsimp only)
  repeat' split
  all_goals (first | done | (simp [apply_ite (fun x : State => fusesOf x.ks)]; done) | rfl | (simp; rfl) | (refine foldl_fuses _ ?_ _ _; intro a x; dsimp only; repeat' split; all_goals (first | done | simp | rfl)))

@[simp] theorem sendNew_fuses (s : State) (d : Nat) : fusesOf (sendNew s d).ks = fusesOf s.ks := by
  unfold sendNew
  (try dsimp only)
  repeat' split
  all_goals (first | done | (simp [apply_ite (fun x : State => fusesOf x.ks)]; done) | rfl | (simp; rfl) | (refine foldl_fuses _ ?_ _ _; intro a x; dsimp only; repeat' split; all_goals (first | done | simp | rfl)))

@[simp] theorem sendFrame_fuses (s : State) (d : Nat) : fusesOf (sendFrame s d).ks = fusesOf s.ks := by
  unfold sendFrame
  (try dsimp only)
  repeat' split
  all_goals (first | done | (simp [apply_ite (fun x : State => fusesOf x.ks)]; done) | rfl | (simp; rfl) | (refine foldl_fuses _ ?_ _ _; intro a x; dsimp only; repeat' split; all_goals (first | done | simp | rfl)))

@[simp] theorem countErrors_fuses (s : State) (d g : Nat) (got fixed : List Nat) : fusesOf (countErrors s d g got fixed).ks = fusesOf s.ks := by
  unfold countErrors
  refine foldl_fuses _ ?_ _ _
  intro a x; dsimp only; split <;> first | rfl | simp

@[simp] theorem startRecovery_fuses (s : State) (d : Nat) : fusesOf (startRecovery s d).ks = fusesOf s.ks := by
  unfold startRecovery
  (try dsimp only)
  repeat' split
  all_goals (first | done | (simp [apply_ite (fun x : State => fusesOf x.ks)]; done) | rfl | (simp; rfl) | (refine foldl_fuses _ ?_ _ _; intro a x; dsimp only; repeat' split; all_goals (first | done | simp | rfl)))

@[simp] theorem startReplay_fuses (s : State) (d : Nat) : fusesOf (startReplay s d).ks = fusesOf s.ks := by
  unfold startReplay
  (try dsimp only)
  repeat' split
  all_goals (first | done | (simp [apply_ite (fun x : State => fusesOf x.ks)]; done) | rfl | (simp; rfl) | (refine foldl_fuses _ ?_ _ _; intro a x; dsimp only; repeat' split; all_goals (first | done | simp | rfl)))

@[simp] theorem takeAck_fuses (s : State) (d : Nat) (f : Frame) : fusesOf (takeAck s d f).ks = fusesOf s.ks := by
  unfold takeAck
  (try dsimp only)
  repeat' split
  all_goals (first | done | (simp [apply_ite (fun x : State => fusesOf x.ks)]; done) | rfl | (simp; rfl) | (refine foldl_fuses _ ?_ _ _; intro a x; dsimp only; repeat' split; all_goals (first | done | simp | rfl)))

@[simp] theorem outFlits_fuses (s : State) (d vl n : Nat) : fusesOf (outFlits s d vl n).ks = fusesOf s.ks := by
  unfold outFlits
  (try dsimp only)
  repeat' split
  all_goals (first | done | (simp [apply_ite (fun x : State => fusesOf x.ks)]; done) | rfl | (simp; rfl) | (refine foldl_fuses _ ?_ _ _; intro a x; dsimp only; repeat' split; all_goals (first | done | simp | rfl)))

@[simp] theorem dropUnlistedN_fuses (n d vl : Nat) (s : State) : fusesOf (dropUnlistedN n d vl s).ks = fusesOf s.ks := by
  induction n generalizing s with
  | zero => rfl
  | succ n ih =>
    unfold dropUnlistedN; (try dsimp only); repeat' split
    all_goals (first | rfl | simp [ih])

@[simp] theorem dropUnlisted_fuses (s : State) (d vl : Nat) : fusesOf (dropUnlisted s d vl).ks = fusesOf s.ks := by
  unfold dropUnlisted
  (try dsimp only)
  repeat' split
  all_goals (first | done | (simp [apply_ite (fun x : State => fusesOf x.ks)]; done) | rfl | (simp; rfl) | (refine foldl_fuses _ ?_ _ _; intro a x; dsimp only; repeat' split; all_goals (first | done | simp | rfl)))

@[simp] theorem deliver_fuses (s : State) (d : Nat) (f : Frame) : fusesOf (deliver s d f).ks = fusesOf s.ks := by
  unfold deliver
  exact (foldl_fuses _ (fun a x => dropUnlisted_fuses a d x) _ _).trans (by simp)

@[simp] theorem discardFrame_fuses (s : State) (d : Nat) (missing : Bool) : fusesOf (discardFrame s d missing).ks = fusesOf s.ks := by
  unfold discardFrame
  (try dsimp only)
  repeat' split
  all_goals (first | done | (simp [apply_ite (fun x : State => fusesOf x.ks)]; done) | rfl | (simp; rfl) | (refine foldl_fuses _ ?_ _ _; intro a x; dsimp only; repeat' split; all_goals (first | done | simp | rfl)))

@[simp] theorem takeFrame_fuses (s : State) (d : Nat) (f : Frame) : fusesOf (takeFrame s d f).ks = fusesOf s.ks := by
  unfold takeFrame
  (try dsimp only)
  repeat' split
  all_goals (first | done | (simp [apply_ite (fun x : State => fusesOf x.ks)]; done) | rfl | (simp; rfl) | (refine foldl_fuses _ ?_ _ _; intro a x; dsimp only; repeat' split; all_goals (first | done | simp | rfl)))

@[simp] theorem huntFrame_fuses (s : State) (d g : Nat) (good : Bool) : fusesOf (huntFrame s d g good).ks = fusesOf s.ks := by
  unfold huntFrame
  (try dsimp only)
  repeat' split
  all_goals (first | done | (simp [apply_ite (fun x : State => fusesOf x.ks)]; done) | rfl | (simp; rfl) | (refine foldl_fuses _ ?_ _ _; intro a x; dsimp only; repeat' split; all_goals (first | done | simp | rfl)))

@[simp] theorem popFlits_fuses (s : State) (d vl n : Nat) : fusesOf (popFlits s d vl n).ks = fusesOf s.ks := by
  unfold popFlits
  (try dsimp only)
  repeat' split
  all_goals (first | done | (simp [apply_ite (fun x : State => fusesOf x.ks)]; done) | rfl | (simp; rfl) | (refine foldl_fuses _ ?_ _ _; intro a x; dsimp only; repeat' split; all_goals (first | done | simp | rfl)))

@[simp] theorem beginTraining_fuses (s : State) (d : Nat) (fast : Bool) (ph : PortPhase) : fusesOf (beginTraining s d fast ph).ks = fusesOf s.ks := by
  unfold beginTraining
  (try dsimp only)
  repeat' split
  all_goals (first | done | (simp [apply_ite (fun x : State => fusesOf x.ks)]; done) | rfl | (simp; rfl) | (refine foldl_fuses _ ?_ _ _; intro a x; dsimp only; repeat' split; all_goals (first | done | simp | rfl)))

@[simp] theorem retryTraining_fuses (s : State) (d : Nat) : fusesOf (retryTraining s d).ks = fusesOf s.ks := by
  unfold retryTraining
  (try dsimp only)
  repeat' split
  all_goals (first | done | (simp [apply_ite (fun x : State => fusesOf x.ks)]; done) | rfl | (simp; rfl) | (refine foldl_fuses _ ?_ _ _; intro a x; dsimp only; repeat' split; all_goals (first | done | simp | rfl)))

@[simp] theorem mapLanes_fuses (s : State) (d : Nat) : fusesOf (mapLanes s d).ks = fusesOf s.ks := by
  unfold mapLanes
  (try dsimp only)
  repeat' split
  all_goals (first | done | (simp [apply_ite (fun x : State => fusesOf x.ks)]; done) | rfl | (simp; rfl) | (refine foldl_fuses _ ?_ _ _; intro a x; dsimp only; repeat' split; all_goals (first | done | simp | rfl)))

@[simp] theorem compareVersions_fuses (s : State) (d ver : Nat) : fusesOf (compareVersions s d ver).ks = fusesOf s.ks := by
  unfold compareVersions
  (try dsimp only)
  repeat' split
  all_goals (first | done | (simp [apply_ite (fun x : State => fusesOf x.ks)]; done) | rfl | (simp; rfl) | (refine foldl_fuses _ ?_ _ _; intro a x; dsimp only; repeat' split; all_goals (first | done | simp | rfl)))

@[simp] theorem seedLanes_fuses (s : State) (d : Nat) : fusesOf (seedLanes s d).ks = fusesOf s.ks := by
  unfold seedLanes
  (try dsimp only)
  repeat' split
  all_goals (first | done | (simp [apply_ite (fun x : State => fusesOf x.ks)]; done) | rfl | (simp; rfl) | (refine foldl_fuses _ ?_ _ _; intro a x; dsimp only; repeat' split; all_goals (first | done | simp | rfl)))

@[simp] theorem trainAdvance_fuses (s : State) (d : Nat) : fusesOf (trainAdvance s d).ks = fusesOf s.ks := by
  unfold trainAdvance
  (try dsimp only)
  repeat' split
  all_goals (first | done | (simp [apply_ite (fun x : State => fusesOf x.ks)]; done) | rfl | (simp; rfl) | (refine foldl_fuses _ ?_ _ _; intro a x; dsimp only; repeat' split; all_goals (first | done | simp | rfl)))

@[simp] theorem bitSlip_fuses (s : State) (d : Nat) : fusesOf (bitSlip s d).ks = fusesOf s.ks := by
  unfold bitSlip
  (try dsimp only)
  repeat' split
  all_goals (first | done | (simp [apply_ite (fun x : State => fusesOf x.ks)]; done) | rfl | (simp; rfl) | (refine foldl_fuses _ ?_ _ _; intro a x; dsimp only; repeat' split; all_goals (first | done | simp | rfl)))

@[simp] theorem recovered_fuses (s : State) (d : Nat) : fusesOf (recovered s d).ks = fusesOf s.ks := by
  unfold recovered
  (try dsimp only)
  repeat' split
  all_goals (first | done | (simp [apply_ite (fun x : State => fusesOf x.ks)]; done) | rfl | (simp; rfl) | (refine foldl_fuses _ ?_ _ _; intro a x; dsimp only; repeat' split; all_goals (first | done | simp | rfl)))

@[simp] theorem askLp_fuses (s : State) (d st : Nat) : fusesOf (askLp s d st).ks = fusesOf s.ks := by
  unfold askLp
  (try dsimp only)
  repeat' split
  all_goals (first | done | (simp [apply_ite (fun x : State => fusesOf x.ks)]; done) | rfl | (simp; rfl) | (refine foldl_fuses _ ?_ _ _; intro a x; dsimp only; repeat' split; all_goals (first | done | simp | rfl)))

@[simp] theorem wakePort_fuses (s : State) (d : Nat) (tone : Bool) : fusesOf (wakePort s d tone).ks = fusesOf s.ks := by
  unfold wakePort
  (try dsimp only)
  repeat' split
  all_goals (first | done | (simp [apply_ite (fun x : State => fusesOf x.ks)]; done) | rfl | (simp; rfl) | (refine foldl_fuses _ ?_ _ _; intro a x; dsimp only; repeat' split; all_goals (first | done | simp | rfl)))

@[simp] theorem startPlumb_fuses (s : State) (d : Nat) (surveys : List Nat) : fusesOf (startPlumb s d surveys).ks = fusesOf s.ks := by
  unfold startPlumb
  (try dsimp only)
  repeat' split
  all_goals (first | done | (simp [apply_ite (fun x : State => fusesOf x.ks)]; done) | rfl | (simp; rfl) | (refine foldl_fuses _ ?_ _ _; intro a x; dsimp only; repeat' split; all_goals (first | done | simp | rfl)))

@[simp] theorem sendTs_fuses (s : State) (d : Nat) : fusesOf (sendTs s d).ks = fusesOf s.ks := by
  unfold sendTs
  (try dsimp only)
  repeat' split
  all_goals (first | done | (simp [apply_ite (fun x : State => fusesOf x.ks)]; done) | rfl | (simp; rfl) | (refine foldl_fuses _ ?_ _ _; intro a x; dsimp only; repeat' split; all_goals (first | done | simp | rfl)))

@[simp] theorem queuePkt_fuses (s : State) (d : Nat) (p : Pkt) : fusesOf (queuePkt s d p).ks = fusesOf s.ks := by
  unfold queuePkt
  (try dsimp only)
  repeat' split
  all_goals (first | done | (simp [apply_ite (fun x : State => fusesOf x.ks)]; done) | rfl | (simp; rfl) | (refine foldl_fuses _ ?_ _ _; intro a x; dsimp only; repeat' split; all_goals (first | done | simp | rfl)))

@[simp] theorem noRoute_fuses (s : State) (d : Nat) : fusesOf (noRoute s d).ks = fusesOf s.ks := by
  unfold noRoute
  (try dsimp only)
  repeat' split
  all_goals (first | done | (simp [apply_ite (fun x : State => fusesOf x.ks)]; done) | rfl | (simp; rfl) | (refine foldl_fuses _ ?_ _ _; intro a x; dsimp only; repeat' split; all_goals (first | done | simp | rfl)))

@[simp] theorem sendMgmt_fuses (s : State) (d : Nat) (body : List Byte) : fusesOf (sendMgmt s d body).ks = fusesOf s.ks := by
  unfold sendMgmt
  (try dsimp only)
  repeat' split
  all_goals (first | done | (simp [apply_ite (fun x : State => fusesOf x.ks)]; done) | rfl | (simp; rfl) | (refine foldl_fuses _ ?_ _ _; intro a x; dsimp only; repeat' split; all_goals (first | done | simp | rfl)))

@[simp] theorem stopTiles_fuses (s : State) (k : Nat) (keep : Nat → Bool) : fusesOf (stopTiles s k keep).ks = fusesOf s.ks := by
  unfold stopTiles
  (try dsimp only)
  repeat' split
  all_goals (first | done | (simp [apply_ite (fun x : State => fusesOf x.ks)]; done) | rfl | (simp; rfl) | (refine foldl_fuses _ ?_ _ _; intro a x; dsimp only; repeat' split; all_goals (first | done | simp | rfl)))

@[simp] theorem foldFlags_fuses (s : State) (k : Nat) : fusesOf (foldFlags s k).ks = fusesOf s.ks := by
  unfold foldFlags
  (try dsimp only)
  repeat' split
  all_goals (first | done | (simp [apply_ite (fun x : State => fusesOf x.ks)]; done) | rfl | (simp; rfl) | (refine foldl_fuses _ ?_ _ _; intro a x; dsimp only; repeat' split; all_goals (first | done | simp | rfl)))

@[simp] theorem endOp_fuses (s : State) (k : Nat) (code : BitVec 8) (f : RecInfo → RecInfo) : fusesOf (endOp s k code f).ks = fusesOf s.ks := by
  unfold endOp
  (try dsimp only)
  repeat' split
  all_goals (first | done | (simp [apply_ite (fun x : State => fusesOf x.ks)]; done) | rfl | (simp; rfl) | (refine foldl_fuses _ ?_ _ _; intro a x; dsimp only; repeat' split; all_goals (first | done | simp | rfl)))

@[simp] theorem freeTiles_fuses (s : State) (k : Nat) : fusesOf (freeTiles s k).ks = fusesOf s.ks := by
  unfold freeTiles
  (try dsimp only)
  repeat' split
  all_goals (first | done | (simp [apply_ite (fun x : State => fusesOf x.ks)]; done) | rfl | (simp; rfl) | (refine foldl_fuses _ ?_ _ _; intro a x; dsimp only; repeat' split; all_goals (first | done | simp | rfl)))

@[simp] theorem startOp_fuses (s : State) (k d : Nat) : fusesOf (startOp s k d).ks = fusesOf s.ks := by
  unfold startOp
  (try dsimp only)
  repeat' split
  all_goals (first | done | (simp [apply_ite (fun x : State => fusesOf x.ks)]; done) | rfl | (simp; rfl) | (refine foldl_fuses _ ?_ _ _; intro a x; dsimp only; repeat' split; all_goals (first | done | simp | rfl)))

@[simp] theorem finishOp_fuses (s : State) (k : Nat) : fusesOf (finishOp s k).ks = fusesOf s.ks := by
  unfold finishOp
  (try dsimp only)
  repeat' split
  all_goals (first | done | (simp [apply_ite (fun x : State => fusesOf x.ks)]; done) | rfl | (simp; rfl) | (refine foldl_fuses _ ?_ _ _; intro a x; dsimp only; repeat' split; all_goals (first | done | simp | rfl)))

@[simp] theorem completeOp_fuses (s : State) (k : Nat) (code : BitVec 8) : fusesOf (completeOp s k code).ks = fusesOf s.ks := by
  unfold completeOp
  (try dsimp only)
  repeat' split
  all_goals (first | done | (simp [apply_ite (fun x : State => fusesOf x.ks)]; done) | rfl | (simp; rfl) | (refine foldl_fuses _ ?_ _ _; intro a x; dsimp only; repeat' split; all_goals (first | done | simp | rfl)))

@[simp] theorem endAddr_fuses (s : State) (k : Nat) (code : BitVec 8) (addr d : Nat) : fusesOf (endAddr s k code addr d).ks = fusesOf s.ks := by
  unfold endAddr
  (try dsimp only)
  repeat' split
  all_goals (first | done | (simp [apply_ite (fun x : State => fusesOf x.ks)]; done) | rfl | (simp; rfl) | (refine foldl_fuses _ ?_ _ _; intro a x; dsimp only; repeat' split; all_goals (first | done | simp | rfl)))

@[simp] theorem opFlags_fuses (s : State) (k : Nat) (f : FlagSet) : fusesOf (opFlags s k f).ks = fusesOf s.ks := by
  unfold opFlags
  (try dsimp only)
  repeat' split
  all_goals (first | done | (simp [apply_ite (fun x : State => fusesOf x.ks)]; done) | rfl | (simp; rfl) | (refine foldl_fuses _ ?_ _ _; intro a x; dsimp only; repeat' split; all_goals (first | done | simp | rfl)))

@[simp] theorem writeBytesFuel_fuses (s : State) (pn d n a o : Nat) (b : List Byte) : fusesOf ((writeBytesFuel s pn d n a o b).2).ks = fusesOf s.ks := by
  induction n generalizing s a o b with
  | zero => rfl
  | succ n ih =>
    unfold writeBytesFuel; (try dsimp only); repeat' split
    all_goals (first | rfl | simp [ih])

@[simp] theorem writeBoth_fuses (s : State) (pn d addr off : Nat) (b bm : List Byte) : fusesOf ((writeBoth s pn d addr off b bm).2).ks = fusesOf s.ks := by
  unfold writeBoth
  dsimp only
  split
  · split
    · simp
    · split <;> simp
  · rfl

@[simp] theorem writeBytes_fuses (s : State) (pn d addr off : Nat) (b : List Byte) : fusesOf ((writeBytes s pn d addr off b).2).ks = fusesOf s.ks := by
  unfold writeBytes
  (try dsimp only)
  repeat' split
  all_goals (first | done | (simp [apply_ite (fun x : State => fusesOf x.ks)]; done) | rfl | (simp; rfl) | (refine foldl_fuses _ ?_ _ _; intro a x; dsimp only; repeat' split; all_goals (first | done | simp | rfl)))

@[simp] theorem addDest_fuses (s : State) (k : Nat) (x : OutRange) : fusesOf (addDest s k x).ks = fusesOf s.ks := by
  unfold addDest
  (try dsimp only)
  repeat' split
  all_goals (first | done | (simp [apply_ite (fun x : State => fusesOf x.ks)]; done) | rfl | (simp; rfl) | (refine foldl_fuses _ ?_ _ _; intro a x; dsimp only; repeat' split; all_goals (first | done | simp | rfl)))

@[simp] theorem loosen_fuses (s : State) (x : OutRange) : fusesOf (loosen s x).ks = fusesOf s.ks := by
  unfold loosen
  exact writeBytesFuel_fuses ..

@[simp] theorem looseDests_fuses (s : State) (k : Nat) : fusesOf (looseDests s k).ks = fusesOf s.ks := by
  unfold looseDests
  (try dsimp only)
  repeat' split
  all_goals (first | done | (simp [apply_ite (fun x : State => fusesOf x.ks)]; done) | rfl | (simp; rfl) | (refine foldl_fuses _ ?_ _ _; intro a x; dsimp only; repeat' split; all_goals (first | done | simp | rfl)))

@[simp] theorem modGroup_fuses (s : State) (g : Nat) (f : Group → Group) : fusesOf (modGroup s g f).ks = fusesOf s.ks := by
  unfold modGroup
  (try dsimp only)
  repeat' split
  all_goals (first | done | (simp [apply_ite (fun x : State => fusesOf x.ks)]; done) | rfl | (simp; rfl) | (refine foldl_fuses _ ?_ _ _; intro a x; dsimp only; repeat' split; all_goals (first | done | simp | rfl)))

@[simp] theorem modStep_fuses (s : State) (g step : Nat) (f : CStep → CStep) : fusesOf (modStep s g step f).ks = fusesOf s.ks := by
  unfold modStep
  (try dsimp only)
  repeat' split
  all_goals (first | done | (simp [apply_ite (fun x : State => fusesOf x.ks)]; done) | rfl | (simp; rfl) | (refine foldl_fuses _ ?_ _ _; intro a x; dsimp only; repeat' split; all_goals (first | done | simp | rfl)))

@[simp] theorem releaseRegions_fuses (s : State) (g : Group) (st : Station) : fusesOf (releaseRegions s g st).ks = fusesOf s.ks := by
  unfold releaseRegions
  refine foldl_fuses _ ?_ _ _
  intro a x; dsimp only; split <;> first | rfl | simp

@[simp] theorem dropStep_fuses (s : State) (g step : Nat) : fusesOf (dropStep s g step).ks = fusesOf s.ks := by
  unfold dropStep
  (try dsimp only)
  repeat' split
  all_goals (first | done | (simp [apply_ite (fun x : State => fusesOf x.ks)]; done) | rfl | (simp; rfl) | (refine foldl_fuses _ ?_ _ _; intro a x; dsimp only; repeat' split; all_goals (first | done | simp | rfl)))

@[simp] theorem abortStep_fuses (s : State) (g step : Nat) (code : BitVec 8) : fusesOf (abortStep s g step code).ks = fusesOf s.ks := by
  unfold abortStep
  (try dsimp only)
  repeat' split
  all_goals (first | done | (simp [apply_ite (fun x : State => fusesOf x.ks)]; done) | rfl | (simp; rfl) | (refine foldl_fuses _ ?_ _ _; intro a x; dsimp only; repeat' split; all_goals (first | done | simp | rfl)))

@[simp] theorem sendOn_fuses (s : State) (g : Group) (origin : Nat) (body : List Byte) : fusesOf (sendOn s g origin body).ks = fusesOf s.ks := by
  unfold sendOn
  (try dsimp only)
  repeat' split
  all_goals (first | done | (simp [apply_ite (fun x : State => fusesOf x.ks)]; done) | rfl | (simp; rfl) | (refine foldl_fuses _ ?_ _ _; intro a x; dsimp only; repeat' split; all_goals (first | done | simp | rfl)))

@[simp] theorem applyVerdict_fuses (s : State) (c : CStep) (v : Verdict) : fusesOf (applyVerdict s c v).ks = fusesOf s.ks := by
  unfold applyVerdict
  (try dsimp only)
  repeat' split
  all_goals (first | done | (simp [apply_ite (fun x : State => fusesOf x.ks)]; done) | rfl | (simp; rfl) | (refine foldl_fuses _ ?_ _ _; intro a x; dsimp only; repeat' split; all_goals (first | done | simp | rfl)))

@[simp] theorem judgeStep_fuses (s : State) (g : Group) (c : CStep) (v : Verdict) : fusesOf (judgeStep s g c v).ks = fusesOf s.ks := by
  unfold judgeStep
  (try dsimp only)
  repeat' split
  all_goals (first | done | (simp [apply_ite (fun x : State => fusesOf x.ks)]; done) | rfl | (simp; rfl) | (refine foldl_fuses _ ?_ _ _; intro a x; dsimp only; repeat' split; all_goals (first | done | simp | rfl)))

@[simp] theorem endStep_fuses (s : State) (gn step : Nat) (code : BitVec 8) : fusesOf (endStep s gn step code).ks = fusesOf s.ks := by
  unfold endStep
  (try dsimp only)
  repeat' split
  all_goals (first | done | (simp [apply_ite (fun x : State => fusesOf x.ks)]; done) | rfl | (simp; rfl) | (refine foldl_fuses _ ?_ _ _; intro a x; dsimp only; repeat' split; all_goals (first | done | simp | rfl)))

@[simp] theorem cancelStep_fuses (s : State) (gn step : Nat) (code : BitVec 8) : fusesOf (cancelStep s gn step code).ks = fusesOf s.ks := by
  unfold cancelStep
  (try dsimp only)
  repeat' split
  all_goals (first | done | (simp [apply_ite (fun x : State => fusesOf x.ks)]; done) | rfl | (simp; rfl) | (refine foldl_fuses _ ?_ _ _; intro a x; dsimp only; repeat' split; all_goals (first | done | simp | rfl)))

@[simp] theorem cscFlag_fuses (s : State) (g : Group) (bit : Nat) : fusesOf (cscFlag s g bit).ks = fusesOf s.ks := by
  unfold cscFlag
  (try dsimp only)
  repeat' split
  all_goals (first | done | (simp [apply_ite (fun x : State => fusesOf x.ks)]; done) | rfl | (simp; rfl) | (refine foldl_fuses _ ?_ _ _; intro a x; dsimp only; repeat' split; all_goals (first | done | simp | rfl)))

@[simp] theorem stale_fuses (s : State) (d : Nat) : fusesOf (stale s d).ks = fusesOf s.ks := by
  unfold stale
  (try dsimp only)
  repeat' split
  all_goals (first | done | (simp [apply_ite (fun x : State => fusesOf x.ks)]; done) | rfl | (simp; rfl) | (refine foldl_fuses _ ?_ _ _; intro a x; dsimp only; repeat' split; all_goals (first | done | simp | rfl)))

@[simp] theorem failEpoch_fuses (s : State) (gn : Nat) (lost : List Nat) : fusesOf (failEpoch s gn lost).ks = fusesOf s.ks := by
  unfold failEpoch
  (try dsimp only)
  repeat' split
  all_goals (first | done | (simp [apply_ite (fun x : State => fusesOf x.ks)]; done) | rfl | (simp; rfl) | (refine foldl_fuses _ ?_ _ _; intro a x; dsimp only; repeat' split; all_goals (first | done | simp | rfl)))

@[simp] theorem launchPiece_fuses (s : State) (g : Group) (c : CStep) (p : Piece) : fusesOf (launchPiece s g c p).ks = fusesOf s.ks := by
  unfold launchPiece
  (try dsimp only)
  repeat' split
  all_goals (first | done | (simp [apply_ite (fun x : State => fusesOf x.ks)]; done) | rfl | (simp; rfl) | (refine foldl_fuses _ ?_ _ _; intro a x; dsimp only; repeat' split; all_goals (first | done | simp | rfl)))

@[simp] theorem answerPiece_fuses (s : State) (g : Group) (c : CStep) (p : Piece) (kind : Byte) : fusesOf (answerPiece s g c p kind).ks = fusesOf s.ks := by
  unfold answerPiece
  (try dsimp only)
  repeat' split
  all_goals (first | done | (simp [apply_ite (fun x : State => fusesOf x.ks)]; done) | rfl | (simp; rfl) | (refine foldl_fuses _ ?_ _ _; intro a x; dsimp only; repeat' split; all_goals (first | done | simp | rfl)))

@[simp] theorem pieceBack_fuses (s : State) (g : Group) (c : CStep) (k : Nat) (sat : Bool) : fusesOf (pieceBack s g c k sat).ks = fusesOf s.ks := by
  unfold pieceBack
  (try dsimp only)
  repeat' split
  all_goals (first | done | (simp [apply_ite (fun x : State => fusesOf x.ks)]; done) | rfl | (simp; rfl) | (refine foldl_fuses _ ?_ _ _; intro a x; dsimp only; repeat' split; all_goals (first | done | simp | rfl)))

@[simp] theorem takePiece_fuses (s : State) (g : Group) (c : CStep) (st : Station) (p : Piece) : fusesOf (takePiece s g c st p).ks = fusesOf s.ks := by
  unfold takePiece
  (try dsimp only)
  repeat' split
  all_goals (first | done | (simp [apply_ite (fun x : State => fusesOf x.ks)]; done) | rfl | (simp; rfl) | (refine foldl_fuses _ ?_ _ _; intro a x; dsimp only; repeat' split; all_goals (first | done | simp | rfl)))

@[simp] theorem badPiece_fuses (s : State) (g : Group) (c : CStep) (st : Station) (p : Piece) : fusesOf (badPiece s g c st p).ks = fusesOf s.ks := by
  unfold badPiece
  (try dsimp only)
  repeat' split
  all_goals (first | done | (simp [apply_ite (fun x : State => fusesOf x.ks)]; done) | rfl | (simp; rfl) | (refine foldl_fuses _ ?_ _ _; intro a x; dsimp only; repeat' split; all_goals (first | done | simp | rfl)))

@[simp] theorem writeResult_fuses (s : State) (g : Group) (c : CStep) (pos : Nat) (st : Station) : fusesOf ((writeResult s g c pos st).2).ks = fusesOf s.ks := by
  unfold writeResult
  (try dsimp only)
  repeat' split
  all_goals (first | done | (simp [apply_ite (fun x : State => fusesOf x.ks)]; done) | rfl | (simp; rfl) | (refine foldl_fuses _ ?_ _ _; intro a x; dsimp only; repeat' split; all_goals (first | done | simp | rfl)))

@[simp] theorem completeStep_fuses (s : State) (g : Group) (c : CStep) (ms : List Nat) : fusesOf (completeStep s g c ms).ks = fusesOf s.ks := by
  unfold completeStep
  (try dsimp only)
  repeat' split
  all_goals (first | done | (simp [apply_ite (fun x : State => fusesOf x.ks)]; done) | rfl | (simp; rfl) | (refine foldl_fuses _ ?_ _ _; intro a x; dsimp only; repeat' split; all_goals (first | done | simp | rfl)))

@[simp] theorem markStation_fuses (s : State) (gn step pos : Nat) : fusesOf (markStation s gn step pos).ks = fusesOf s.ks := by
  unfold markStation
  (try dsimp only)
  repeat' split
  all_goals (first | done | (simp [apply_ite (fun x : State => fusesOf x.ks)]; done) | rfl | (simp; rfl) | (refine foldl_fuses _ ?_ _ _; intro a x; dsimp only; repeat' split; all_goals (first | done | simp | rfl)))

theorem arrive_fuses {s t : State} {p : Piece} {ok : Bool} (h : arrive s p ok = some t) : fusesOf (t).ks = fusesOf s.ks := by
  unfold arrive at h
  (try dsimp only at h)
  repeat' (split at h)
  all_goals (cases h <;> first | rfl | simp)
@[simp] theorem arrive_getD_fuses (s : State) (p : Piece) (ok : Bool) : fusesOf ((arrive s p ok).getD s).ks = fusesOf s.ks := by
  cases h : arrive s p ok with
  | none => rfl
  | some t => exact arrive_fuses h

@[simp] theorem retryHeld_fuses (s : State) (gn : Nat) : fusesOf (retryHeld s gn).ks = fusesOf s.ks := by
  unfold retryHeld
  split
  · rfl
  · refine foldl_fuses _ (fun a e => ?_) _ _
    split
    · next h => simp [arrive_fuses h]
    · rfl

@[simp] theorem receiveLocal_fuses (s : State) (g step pos k : Nat) (final ok : Bool) : fusesOf (receiveLocal s g step pos k final ok).ks = fusesOf s.ks := by
  unfold receiveLocal
  (try dsimp only)
  repeat' split
  all_goals (first | done | (simp [apply_ite (fun x : State => fusesOf x.ks)]; done) | rfl | (simp; rfl) | (refine foldl_fuses _ ?_ _ _; intro a x; dsimp only; repeat' split; all_goals (first | done | simp | rfl)))

@[simp] theorem receivePort_fuses (s : State) (d : Nat) : fusesOf (receivePort s d).ks = fusesOf s.ks := by
  unfold receivePort; dsimp only
  split
  · rfl
  · split
    · rfl
    · split
      · next h => simp [arrive_fuses h]
      · rfl

@[simp] theorem commitHere_fuses (s : State) (gn step : Nat) (old : Group) : fusesOf (commitHere s gn step old).ks = fusesOf s.ks := by
  unfold commitHere
  (try dsimp only)
  repeat' split
  all_goals (first | done | (simp [apply_ite (fun x : State => fusesOf x.ks)]; done) | rfl | (simp; rfl) | (refine foldl_fuses _ ?_ _ _; intro a x; dsimp only; repeat' split; all_goals (first | done | simp | rfl)))

@[simp] theorem renewStep_fuses (gn : Nat) (old : Group) (known : List W32) (s : State) (c : CStep) : fusesOf (renewStep gn old known s c).ks = fusesOf s.ks := by
  unfold renewStep
  (try dsimp only)
  repeat' split
  all_goals (first | done | (simp [apply_ite (fun x : State => fusesOf x.ks)]; done) | rfl | (simp; rfl) | (refine foldl_fuses _ ?_ _ _; intro a x; dsimp only; repeat' split; all_goals (first | done | simp | rfl)))

@[simp] theorem restartStep_fuses (gn : Nat) (s : State) (c : CStep) : fusesOf (restartStep gn s c).ks = fusesOf s.ks := by
  unfold restartStep
  (try dsimp only)
  repeat' split
  all_goals (first | done | (simp [apply_ite (fun x : State => fusesOf x.ks)]; done) | rfl | (simp; rfl) | (refine foldl_fuses _ ?_ _ _; intro a x; dsimp only; repeat' split; all_goals (first | done | simp | rfl)))

@[simp] theorem newEpoch_fuses (s : State) (gn : Nat) (old g : Group) (known : List W32) : fusesOf (newEpoch s gn old g known).ks = fusesOf s.ks := by
  unfold newEpoch
  extract_lets steps s1 last s2
  rw [moduleEvent_fuses, retryHeld_fuses, foldl_fuses (restartStep gn) (fun a x => restartStep_fuses ..)]
  exact foldl_fuses (renewStep gn old known) (fun a x => renewStep_fuses ..) steps s

@[simp] theorem modRun_fuses (s : State) (d : Nat) (f : Runnel → Runnel) : fusesOf (modRun s d f).ks = fusesOf s.ks := by
  unfold modRun
  (try dsimp only)
  repeat' split
  all_goals (first | done | (simp [apply_ite (fun x : State => fusesOf x.ks)]; done) | rfl | (simp; rfl) | (refine foldl_fuses _ ?_ _ _; intro a x; dsimp only; repeat' split; all_goals (first | done | simp | rfl)))

@[simp] theorem statAll_fuses (s : State) (d init : Nat) (l : List (Nat × Nat)) (f : RunStat → RunStat) : fusesOf (statAll s d init l f).ks = fusesOf s.ks := by
  unfold statAll
  (try dsimp only)
  repeat' split
  all_goals (first | done | (simp [apply_ite (fun x : State => fusesOf x.ks)]; done) | rfl | (simp; rfl) | (refine foldl_fuses _ ?_ _ _; intro a x; dsimp only; repeat' split; all_goals (first | done | simp | rfl)))

@[simp] theorem snapshot_fuses (s : State) (d : Nat) : fusesOf (snapshot s d).ks = fusesOf s.ks := by
  unfold snapshot
  (try dsimp only)
  repeat' split
  all_goals (first | done | (simp [apply_ite (fun x : State => fusesOf x.ks)]; done) | rfl | (simp; rfl) | (refine foldl_fuses _ ?_ _ _; intro a x; dsimp only; repeat' split; all_goals (first | done | simp | rfl)))

@[simp] theorem sendReq_fuses (s : State) (d : Nat) (q : RunReq) : fusesOf (sendReq s d q).ks = fusesOf s.ks := by
  unfold sendReq
  (try dsimp only)
  repeat' split
  all_goals (first | done | (simp [apply_ite (fun x : State => fusesOf x.ks)]; done) | rfl | (simp; rfl) | (refine foldl_fuses _ ?_ _ _; intro a x; dsimp only; repeat' split; all_goals (first | done | simp | rfl)))

@[simp] theorem grantFuel_fuses (n : Nat) (s : State) (d : Nat) : fusesOf (grantFuel n s d).ks = fusesOf s.ks := by
  induction n generalizing s with
  | zero => rfl
  | succ n ih =>
    unfold grantFuel; (try dsimp only); repeat' split
    all_goals (first | rfl | simp [ih])

@[simp] theorem grantWaiting_fuses (s : State) (d : Nat) : fusesOf (grantWaiting s d).ks = fusesOf s.ks := by
  unfold grantWaiting
  exact grantFuel_fuses ..

@[simp] theorem serve_fuses (s : State) (d : Nat) (q : RunReq) : fusesOf (serve s d q).1.ks = fusesOf s.ks := by
  unfold serve
  (try dsimp only)
  repeat' split
  all_goals (first | done | (simp [apply_ite (fun x : State => fusesOf x.ks)]; done) | rfl | (simp; rfl) | (refine foldl_fuses _ ?_ _ _; intro a x; dsimp only; repeat' split; all_goals (first | done | simp | rfl)))

@[simp] theorem countErr_fuses (s : State) (d init : Nat) (st : Status) : fusesOf (countErr s d init st).ks = fusesOf s.ks := by
  unfold countErr
  (try dsimp only)
  repeat' split
  all_goals (first | done | (simp [apply_ite (fun x : State => fusesOf x.ks)]; done) | rfl | (simp; rfl) | (refine foldl_fuses _ ?_ _ _; intro a x; dsimp only; repeat' split; all_goals (first | done | simp | rfl)))

@[simp] theorem raiseSluices_fuses (s : State) (d : Nat) (ports : List Nat) : fusesOf (raiseSluices s d ports).ks = fusesOf s.ks := by
  unfold raiseSluices
  (try dsimp only)
  repeat' split
  all_goals (first | done | (simp [apply_ite (fun x : State => fusesOf x.ks)]; done) | rfl | (simp; rfl) | (refine foldl_fuses _ ?_ _ _; intro a x; dsimp only; repeat' split; all_goals (first | done | simp | rfl)))

@[simp] theorem endDrain_fuses (s : State) (d : Nat) (ended : Nat → Bool) : fusesOf (endDrain s d ended).ks = fusesOf s.ks := by
  unfold endDrain
  (try dsimp only)
  repeat' split
  all_goals (first | done | (simp [apply_ite (fun x : State => fusesOf x.ks)]; done) | rfl | (simp; rfl) | (refine foldl_fuses _ ?_ _ _; intro a x; dsimp only; repeat' split; all_goals (first | done | simp | rfl)))

@[simp] theorem hubDrain_fuses (s : State) (d : Nat) : fusesOf (hubDrain s d).ks = fusesOf s.ks := by
  unfold hubDrain
  (try dsimp only)
  repeat' split
  all_goals (first | done | (simp [apply_ite (fun x : State => fusesOf x.ks)]; done) | rfl | (simp; rfl) | (refine foldl_fuses _ ?_ _ _; intro a x; dsimp only; repeat' split; all_goals (first | done | simp | rfl)))

@[simp] theorem powerDownDie_fuses (s : State) (d : Nat) : fusesOf (powerDownDie s d).ks = fusesOf s.ks := by
  unfold powerDownDie
  (try dsimp only)
  repeat' split
  all_goals (first | done | (simp [apply_ite (fun x : State => fusesOf x.ks)]; done) | rfl | (simp; rfl) | (refine foldl_fuses _ ?_ _ _; intro a x; dsimp only; repeat' split; all_goals (first | done | simp | rfl)))

@[simp] theorem sluiceSafe_fuses (s : State) (die : Nat) : fusesOf (sluiceSafe s die).ks = fusesOf s.ks := by
  unfold sluiceSafe
  (try dsimp only)
  repeat' split
  all_goals (first | done | (simp [apply_ite (fun x : State => fusesOf x.ks)]; done) | rfl | (simp; rfl) | (refine foldl_fuses _ ?_ _ _; intro a x; dsimp only; repeat' split; all_goals (first | done | simp | rfl)))

@[simp] theorem openSluice_fuses (s : State) (d port : Nat) : fusesOf (openSluice s d port).ks = fusesOf s.ks := by
  unfold openSluice
  (try dsimp only)
  repeat' split
  all_goals (first | done | (simp [apply_ite (fun x : State => fusesOf x.ks)]; done) | rfl | (simp; rfl) | (refine foldl_fuses _ ?_ _ _; intro a x; dsimp only; repeat' split; all_goals (first | done | simp | rfl)))

@[simp] theorem redirect_fuses (s : State) (d old new : Nat) : fusesOf (redirect s d old new).ks = fusesOf s.ks := by
  unfold redirect
  (try dsimp only)
  repeat' split
  all_goals (first | done | (simp [apply_ite (fun x : State => fusesOf x.ks)]; done) | rfl | (simp; rfl) | (refine foldl_fuses _ ?_ _ _; intro a x; dsimp only; repeat' split; all_goals (first | done | simp | rfl)))

@[simp] theorem sentRead_fuses (s : State) (d p : Nat) (c : PartCtx) (l : List Nat) : fusesOf (sentRead s d p c l).ks = fusesOf s.ks := by
  unfold sentRead
  (try dsimp only)
  repeat' split
  all_goals (first | done | (simp [apply_ite (fun x : State => fusesOf x.ks)]; done) | rfl | (simp; rfl) | (refine foldl_fuses _ ?_ _ _; intro a x; dsimp only; repeat' split; all_goals (first | done | simp | rfl)))

@[simp] theorem receivedLine_fuses (s : State) (d p : Nat) (c : PartCtx) (r : FetchReq) (a : Nat) : fusesOf (receivedLine s d p c r a).ks = fusesOf s.ks := by
  unfold receivedLine
  (try dsimp only)
  repeat' split
  all_goals (first | done | (simp [apply_ite (fun x : State => fusesOf x.ks)]; done) | rfl | (simp; rfl) | (refine foldl_fuses _ ?_ _ _; intro a x; dsimp only; repeat' split; all_goals (first | done | simp | rfl)))

@[simp] theorem failTile_fuses (s : State) (d : Nat) (c : PartCtx) (code : BitVec 8) (addr : Nat) : fusesOf (failTile s d c code addr).ks = fusesOf s.ks := by
  unfold failTile
  (try dsimp only)
  repeat' split
  all_goals (first | done | (simp [apply_ite (fun x : State => fusesOf x.ks)]; done) | rfl | (simp; rfl) | (refine foldl_fuses _ ?_ _ _; intro a x; dsimp only; repeat' split; all_goals (first | done | simp | rfl)))

@[simp] theorem endByTile_fuses (s : State) (d p : Nat) (code : BitVec 8) (cause : Nat) (xaddr : Nat) : fusesOf (endByTile s d p code cause xaddr).ks = fusesOf s.ks := by
  unfold endByTile
  (try dsimp only)
  repeat' split
  all_goals (first | done | (simp [apply_ite (fun x : State => fusesOf x.ks)]; done) | rfl | (simp; rfl) | (refine foldl_fuses _ ?_ _ _; intro a x; dsimp only; repeat' split; all_goals (first | done | simp | rfl)))

@[simp] theorem modStaging_fuses (s : State) (d pn : Nat) (f : Staging → Staging) : fusesOf (modStaging s d pn f).ks = fusesOf s.ks := by
  unfold modStaging
  (try dsimp only)
  repeat' split
  all_goals (first | done | (simp [apply_ite (fun x : State => fusesOf x.ks)]; done) | rfl | (simp; rfl) | (refine foldl_fuses _ ?_ _ _; intro a x; dsimp only; repeat' split; all_goals (first | done | simp | rfl)))

@[simp] theorem askList_fuses (s : State) (d p : Nat) : fusesOf (askList s d p).ks = fusesOf s.ks := by
  unfold askList
  (try dsimp only)
  repeat' split
  all_goals (first | done | (simp [apply_ite (fun x : State => fusesOf x.ks)]; done) | rfl | (simp; rfl) | (refine foldl_fuses _ ?_ _ _; intro a x; dsimp only; repeat' split; all_goals (first | done | simp | rfl)))

@[simp] theorem modPending_fuses (s : State) (d p : Nat) (f : List FetchReq → List FetchReq) : fusesOf (modPending s d p f).ks = fusesOf s.ks := by
  unfold modPending
  (try dsimp only)
  repeat' split
  all_goals (first | done | (simp [apply_ite (fun x : State => fusesOf x.ks)]; done) | rfl | (simp; rfl) | (refine foldl_fuses _ ?_ _ _; intro a x; dsimp only; repeat' split; all_goals (first | done | simp | rfl)))

@[simp] theorem absorbRead_fuses (s : State) (d p : Nat) (k : FetchReq → Bool) : fusesOf (absorbRead s d p k).ks = fusesOf s.ks := by
  unfold absorbRead
  (try dsimp only)
  repeat' split
  all_goals (first | done | (simp [apply_ite (fun x : State => fusesOf x.ks)]; done) | rfl | (simp; rfl) | (refine foldl_fuses _ ?_ _ _; intro a x; dsimp only; repeat' split; all_goals (first | done | simp | rfl)))

@[simp] theorem failRead_fuses (s : State) (d : Nat) (c : PartCtx) (e : Status) (a : Nat) : fusesOf (failRead s d c e a).ks = fusesOf s.ks := by
  unfold failRead
  (try dsimp only)
  repeat' split
  all_goals (first | done | (simp [apply_ite (fun x : State => fusesOf x.ks)]; done) | rfl | (simp; rfl) | (refine foldl_fuses _ ?_ _ _; intro a x; dsimp only; repeat' split; all_goals (first | done | simp | rfl)))

@[simp] theorem freePieces_fuses (s : State) (d pn : Nat) : fusesOf (freePieces s d pn).ks = fusesOf s.ks := by
  unfold freePieces
  (try dsimp only)
  repeat' split
  all_goals (first | done | (simp [apply_ite (fun x : State => fusesOf x.ks)]; done) | rfl | (simp; rfl) | (refine foldl_fuses _ ?_ _ _; intro a x; dsimp only; repeat' split; all_goals (first | done | simp | rfl)))

@[simp] theorem fetchMulticast_fuses (s : State) (d pn pt : Nat) (p : Partition) (t : Tile) (c : PartCtx) (e : Nat × Nat) : fusesOf (fetchMulticast s d pn pt p t c e).ks = fusesOf s.ks := by
  unfold fetchMulticast
  (try dsimp only)
  repeat' split
  all_goals (first | done | (simp [apply_ite (fun x : State => fusesOf x.ks)]; done) | rfl | (simp; rfl) | (refine foldl_fuses _ ?_ _ _; intro a x; dsimp only; repeat' split; all_goals (first | done | simp | rfl)))

@[simp] theorem sendRead_fuses (s : State) (d p : Nat) : fusesOf (sendRead s d p).ks = fusesOf s.ks := by
  unfold sendRead
  (try dsimp only)
  repeat' split
  all_goals (first | done | (simp [apply_ite (fun x : State => fusesOf x.ks)]; done) | rfl | (simp; rfl) | (refine foldl_fuses _ ?_ _ _; intro a x; dsimp only; repeat' split; all_goals (first | done | simp | rfl)))

@[simp] theorem sendReads_fuses (s : State) (d p : Nat) : fusesOf (sendReads s d p).ks = fusesOf s.ks := by
  unfold sendReads
  (try dsimp only)
  repeat' split
  all_goals (first | done | (simp [apply_ite (fun x : State => fusesOf x.ks)]; done) | rfl | (simp; rfl) | (refine foldl_fuses _ ?_ _ _; intro a x; dsimp only; repeat' split; all_goals (first | done | simp | rfl)))

@[simp] theorem deliverExpress_fuses (s : State) (d : Nat) (x : Line) : fusesOf (deliverExpress s d x).ks = fusesOf s.ks := by
  unfold deliverExpress
  (try dsimp only)
  repeat' split
  all_goals (first | done | (simp [apply_ite (fun x : State => fusesOf x.ks)]; done) | rfl | (simp; rfl) | (refine foldl_fuses _ ?_ _ _; intro a x; dsimp only; repeat' split; all_goals (first | done | simp | rfl)))

@[simp] theorem routeExpress_fuses (s : State) (d : Nat) (x : Line) : fusesOf (routeExpress s d x).ks = fusesOf s.ks := by
  unfold routeExpress
  (try dsimp only)
  repeat' split
  all_goals (first | done | (simp [apply_ite (fun x : State => fusesOf x.ks)]; done) | rfl | (simp; rfl) | (refine foldl_fuses _ ?_ _ _; intro a x; dsimp only; repeat' split; all_goals (first | done | simp | rfl)))

@[simp] theorem sendLsRec_fuses (s : State) (d : Nat) (q : LockPair) (r : LsRec) : fusesOf (sendLsRec s d q r).ks = fusesOf s.ks := by
  unfold sendLsRec
  (try dsimp only)
  repeat' split
  all_goals (first | done | (simp [apply_ite (fun x : State => fusesOf x.ks)]; done) | rfl | (simp; rfl) | (refine foldl_fuses _ ?_ _ _; intro a x; dsimp only; repeat' split; all_goals (first | done | simp | rfl)))

@[simp] theorem reportEnd_fuses (s : State) (d p : Nat) (t : Tile) : fusesOf (reportEnd s d p t).ks = fusesOf s.ks := by
  unfold reportEnd
  (try dsimp only)
  repeat' split
  all_goals (first | done | (simp [apply_ite (fun x : State => fusesOf x.ks)]; done) | rfl | (simp; rfl) | (refine foldl_fuses _ ?_ _ _; intro a x; dsimp only; repeat' split; all_goals (first | done | simp | rfl)))

@[simp] theorem sentWb_fuses (s u : State) (d p : Nat) (t t1 : Tile) : fusesOf (sentWb s u d p t t1).ks = fusesOf (u).ks := by
  unfold sentWb
  split <;> simp

@[simp] theorem tileErr_fuses (s : State) (d p : Nat) (err : TileErr) : fusesOf (tileErr s d p err).ks = fusesOf s.ks := by
  unfold tileErr
  (try dsimp only)
  repeat' split
  all_goals (first | done | (simp [apply_ite (fun x : State => fusesOf x.ks)]; done) | rfl | (simp; rfl) | (refine foldl_fuses _ ?_ _ _; intro a x; dsimp only; repeat' split; all_goals (first | done | simp | rfl)))

@[simp] theorem checksumFailed_fuses (s : State) (d p n : Nat) : fusesOf (checksumFailed s d p n).ks = fusesOf s.ks := by
  unfold checksumFailed
  (try dsimp only)
  repeat' split
  all_goals (first | done | (simp [apply_ite (fun x : State => fusesOf x.ks)]; done) | rfl | (simp; rfl) | (refine foldl_fuses _ ?_ _ _; intro a x; dsimp only; repeat' split; all_goals (first | done | simp | rfl)))

@[simp] theorem wbLatency_fuses (s : State) (d p : Nat) (c : PartCtx) (b : WbOp) : fusesOf (wbLatency s d p c b).ks = fusesOf s.ks := by
  unfold wbLatency
  (try dsimp only)
  repeat' split
  all_goals (first | done | (simp [apply_ite (fun x : State => fusesOf x.ks)]; done) | rfl | (simp; rfl) | (refine foldl_fuses _ ?_ _ _; intro a x; dsimp only; repeat' split; all_goals (first | done | simp | rfl)))

@[simp] theorem toTile_fuses (s : State) (d p : Nat) (f : Tile → Tile) : fusesOf (toTile s d p f).ks = fusesOf s.ks := by
  unfold toTile
  (try dsimp only)
  repeat' split
  all_goals (first | done | (simp [apply_ite (fun x : State => fusesOf x.ks)]; done) | rfl | (simp; rfl) | (refine foldl_fuses _ ?_ _ _; intro a x; dsimp only; repeat' split; all_goals (first | done | simp | rfl)))

@[simp] theorem writeArea_fuses (s : State) (d : Nat) (pn : Option Nat) (area : Nat) (xs : List Line) : fusesOf ((writeArea s d pn area xs).2).ks = fusesOf s.ks := by
  unfold writeArea
  (try dsimp only)
  repeat' split
  all_goals (first | done | (simp [apply_ite (fun x : State => fusesOf x.ks)]; done) | rfl | (simp; rfl) | (refine foldl_fuses _ ?_ _ _; intro a x; dsimp only; repeat' split; all_goals (first | done | simp | rfl)))

@[simp] theorem saveComplete_fuses (s : State) (d p : Nat) : fusesOf (saveComplete s d p).ks = fusesOf s.ks := by
  unfold saveComplete
  (try dsimp only)
  repeat' split
  all_goals (first | done | (simp [apply_ite (fun x : State => fusesOf x.ks)]; done) | rfl | (simp; rfl) | (refine foldl_fuses _ ?_ _ _; intro a x; dsimp only; repeat' split; all_goals (first | done | simp | rfl)))

@[simp] theorem orphanReads_fuses (s : State) (d p : Nat) : fusesOf (orphanReads s d p).ks = fusesOf s.ks := by
  unfold orphanReads
  (try dsimp only)
  repeat' split
  all_goals (first | done | (simp [apply_ite (fun x : State => fusesOf x.ks)]; done) | rfl | (simp; rfl) | (refine foldl_fuses _ ?_ _ _; intro a x; dsimp only; repeat' split; all_goals (first | done | simp | rfl)))

@[simp] theorem moveTile_fuses (s : State) (d lt old gen new : Nat) (t : Tile) : fusesOf (moveTile s d lt old gen new t).ks = fusesOf s.ks := by
  unfold moveTile
  (try dsimp only)
  repeat' split
  all_goals (first | done | (simp [apply_ite (fun x : State => fusesOf x.ks)]; done) | rfl | (simp; rfl) | (refine foldl_fuses _ ?_ _ _; intro a x; dsimp only; repeat' split; all_goals (first | done | simp | rfl)))

@[simp] theorem resumeAt_fuses (s : State) (d p : Nat) (t : Tile) : fusesOf (resumeAt s d p t).ks = fusesOf s.ks := by
  unfold resumeAt
  (try dsimp only)
  repeat' split
  all_goals (first | done | (simp [apply_ite (fun x : State => fusesOf x.ks)]; done) | rfl | (simp; rfl) | (refine foldl_fuses _ ?_ _ _; intro a x; dsimp only; repeat' split; all_goals (first | done | simp | rfl)))

@[simp] theorem tryMove_fuses (s : State) (d lt new : Nat) : fusesOf (tryMove s d lt new).ks = fusesOf s.ks := by
  unfold tryMove
  (try dsimp only)
  repeat' split
  all_goals (first | done | (simp [apply_ite (fun x : State => fusesOf x.ks)]; done) | rfl | (simp; rfl) | (refine foldl_fuses _ ?_ _ _; intro a x; dsimp only; repeat' split; all_goals (first | done | simp | rfl)))

@[simp] theorem dispatchTile_fuses (k i : Nat) (o : Op) (s : State) (x : Target) : fusesOf (dispatchTile k i o s x).ks = fusesOf s.ks := by
  unfold dispatchTile
  (try dsimp only)
  repeat' split
  all_goals (first | done | (simp [apply_ite (fun x : State => fusesOf x.ks)]; done) | rfl | (simp; rfl) | (refine foldl_fuses _ ?_ _ _; intro a x; dsimp only; repeat' split; all_goals (first | done | simp | rfl)))

@[simp] theorem mcGroupsOf_fuses (s : State) (k : Nat) (xs : List Target) : fusesOf (mcGroupsOf s k xs).ks = fusesOf s.ks := by
  unfold mcGroupsOf
  (try dsimp only)
  repeat' split
  all_goals (first | done | (simp [apply_ite (fun x : State => fusesOf x.ks)]; done) | rfl | (simp; rfl) | (refine foldl_fuses _ ?_ _ _; intro a x; dsimp only; repeat' split; all_goals (first | done | simp | rfl)))

@[simp] theorem dropGroups_fuses (s : State) (k : Nat) : fusesOf (dropGroups s k).ks = fusesOf s.ks := by
  unfold dropGroups
  (try dsimp only)
  repeat' split
  all_goals (first | done | (simp [apply_ite (fun x : State => fusesOf x.ks)]; done) | rfl | (simp; rfl) | (refine foldl_fuses _ ?_ _ _; intro a x; dsimp only; repeat' split; all_goals (first | done | simp | rfl)))

@[simp] theorem resetStaging_fuses (s : State) (xs : List Target) : fusesOf (resetStaging s xs).ks = fusesOf s.ks := by
  unfold resetStaging
  (try dsimp only)
  repeat' split
  all_goals (first | done | (simp [apply_ite (fun x : State => fusesOf x.ks)]; done) | rfl | (simp; rfl) | (refine foldl_fuses _ ?_ _ _; intro a x; dsimp only; repeat' split; all_goals (first | done | simp | rfl)))

@[simp] theorem dispatchKernel_fuses (s : State) (k i : Nat) (o : Op) : fusesOf (dispatchKernel s k i o).ks = fusesOf s.ks := by
  unfold dispatchKernel
  (try dsimp only)
  repeat' split
  all_goals (first | done | (simp [apply_ite (fun x : State => fusesOf x.ks)]; done) | rfl | (simp; rfl) | (refine foldl_fuses _ ?_ _ _; intro a x; dsimp only; repeat' split; all_goals (first | done | simp | rfl)))

@[simp] theorem startKernel_fuses (s : State) (k : Nat) (o : Op) : fusesOf (startKernel s k o).ks = fusesOf s.ks := by
  unfold startKernel
  (try dsimp only)
  repeat' split
  all_goals (first | done | (simp [apply_ite (fun x : State => fusesOf x.ks)]; done) | rfl | (simp; rfl) | (refine foldl_fuses _ ?_ _ _; intro a x; dsimp only; repeat' split; all_goals (first | done | simp | rfl)))

@[simp] theorem modFtn_fuses (s : State) (d : Nat) (f : Fountain → Fountain) : fusesOf (modFtn s d f).ks = fusesOf s.ks := by
  unfold modFtn
  (try dsimp only)
  repeat' split
  all_goals (first | done | (simp [apply_ite (fun x : State => fusesOf x.ks)]; done) | rfl | (simp; rfl) | (refine foldl_fuses _ ?_ _ _; intro a x; dsimp only; repeat' split; all_goals (first | done | simp | rfl)))

@[simp] theorem leaveFtn_fuses (s : State) (d k : Nat) : fusesOf (leaveFtn s d k).ks = fusesOf s.ks := by
  unfold leaveFtn
  (try dsimp only)
  repeat' split
  all_goals (first | done | (simp [apply_ite (fun x : State => fusesOf x.ks)]; done) | rfl | (simp; rfl) | (refine foldl_fuses _ ?_ _ _; intro a x; dsimp only; repeat' split; all_goals (first | done | simp | rfl)))

@[simp] theorem enterFtn_fuses (s : State) (d k : Nat) : fusesOf (enterFtn s d k).ks = fusesOf s.ks := by
  unfold enterFtn
  (try dsimp only)
  repeat' split
  all_goals (first | done | (simp [apply_ite (fun x : State => fusesOf x.ks)]; done) | rfl | (simp; rfl) | (refine foldl_fuses _ ?_ _ _; intro a x; dsimp only; repeat' split; all_goals (first | done | simp | rfl)))

@[simp] theorem failFtn_fuses (s : State) (d k : Nat) (code : Status) (addr ed : Nat) : fusesOf (failFtn s d k code addr ed).ks = fusesOf s.ks := by
  unfold failFtn
  (try dsimp only)
  repeat' split
  all_goals (first | done | (simp [apply_ite (fun x : State => fusesOf x.ks)]; done) | rfl | (simp; rfl) | (refine foldl_fuses _ ?_ _ _; intro a x; dsimp only; repeat' split; all_goals (first | done | simp | rfl)))

@[simp] theorem runGenerate_fuses (s : State) (k d : Nat) (o : Op) : fusesOf (runGenerate s k d o).ks = fusesOf s.ks := by
  unfold runGenerate
  (try dsimp only)
  repeat' split
  all_goals (first | done | (simp [apply_ite (fun x : State => fusesOf x.ks)]; done) | rfl | (simp; rfl) | (refine foldl_fuses _ ?_ _ _; intro a x; dsimp only; repeat' split; all_goals (first | done | simp | rfl)))

@[simp] theorem someLines_fuses (s : State) (k : Nat) (o : Op) : fusesOf (someLines s k o).ks = fusesOf s.ks := by
  unfold someLines
  (try dsimp only)
  repeat' split
  all_goals (first | done | (simp [apply_ite (fun x : State => fusesOf x.ks)]; done) | rfl | (simp; rfl) | (refine foldl_fuses _ ?_ _ _; intro a x; dsimp only; repeat' split; all_goals (first | done | simp | rfl)))

@[simp] theorem drawnE_fuses (s : State) (k : Nat) (o : Op) : fusesOf (drawnE s k o).1.ks = fusesOf s.ks := by
  unfold drawnE
  (try dsimp only)
  repeat' split
  all_goals (first | done | (simp [apply_ite (fun x : State => fusesOf x.ks)]; done) | rfl | (simp; rfl) | (refine foldl_fuses _ ?_ _ _; intro a x; dsimp only; repeat' split; all_goals (first | done | simp | rfl)))

@[simp] theorem sampleOne_fuses (s : State) (k d : Nat) : fusesOf (sampleOne s k d).ks = fusesOf s.ks := by
  unfold sampleOne
  (try dsimp only)
  repeat' split
  all_goals (first | done | (simp [apply_ite (fun x : State => fusesOf x.ks)]; done) | rfl | (simp; rfl) | (refine foldl_fuses _ ?_ _ _; intro a x; dsimp only; repeat' split; all_goals (first | done | simp | rfl)))

@[simp] theorem sampleMany_fuses (s : State) (k d n : Nat) : fusesOf (sampleMany s k d n).ks = fusesOf s.ks := by
  induction n generalizing s with
  | zero => rfl
  | succ n ih =>
    unfold sampleMany; (try dsimp only); repeat' split
    all_goals (first | rfl | simp [ih])

@[simp] theorem dispatchFtn_fuses (s : State) (k : Nat) (o : Op) (pos : Nat) : fusesOf (dispatchFtn s k o pos).ks = fusesOf s.ks := by
  unfold dispatchFtn
  (try dsimp only)
  repeat' split
  all_goals (first | done | (simp [apply_ite (fun x : State => fusesOf x.ks)]; done) | rfl | (simp; rfl) | (refine foldl_fuses _ ?_ _ _; intro a x; dsimp only; repeat' split; all_goals (first | done | simp | rfl)))

@[simp] theorem writeDigest_fuses (s : State) (k : Nat) (o : Op) (code : BitVec 8) : fusesOf (writeDigest s k o code).ks = fusesOf s.ks := by
  unfold writeDigest
  (try dsimp only)
  repeat' split
  all_goals (first | done | (simp [apply_ite (fun x : State => fusesOf x.ks)]; done) | rfl | (simp; rfl) | (refine foldl_fuses _ ?_ _ _; intro a x; dsimp only; repeat' split; all_goals (first | done | simp | rfl)))

@[simp] theorem commitOp_fuses (s : State) (k : Nat) (o : Op) (code : BitVec 8) (f : RecInfo → RecInfo) : fusesOf (commitOp s k o code f).ks = fusesOf s.ks := by
  unfold commitOp
  (try dsimp only)
  repeat' split
  all_goals (first | done | (simp [apply_ite (fun x : State => fusesOf x.ks)]; done) | rfl | (simp; rfl) | (refine foldl_fuses _ ?_ _ _; intro a x; dsimp only; repeat' split; all_goals (first | done | simp | rfl)))

@[simp] theorem restoreHeld_fuses (s : State) (k : Nat) (o : Op) : fusesOf (restoreHeld s k o).ks = fusesOf s.ks := by
  unfold restoreHeld
  (try dsimp only)
  repeat' split
  all_goals (first | done | (simp [apply_ite (fun x : State => fusesOf x.ks)]; done) | rfl | (simp; rfl) | (refine foldl_fuses _ ?_ _ _; intro a x; dsimp only; repeat' split; all_goals (first | done | simp | rfl)))

@[simp] theorem failHeld_fuses (s : State) (k : Nat) (o : Op) (own : Bool) : fusesOf (failHeld s k o own).ks = fusesOf s.ks := by
  unfold failHeld
  (try dsimp only)
  repeat' split
  all_goals (first | done | (simp [apply_ite (fun x : State => fusesOf x.ks)]; done) | rfl | (simp; rfl) | (refine foldl_fuses _ ?_ _ _; intro a x; dsimp only; repeat' split; all_goals (first | done | simp | rfl)))

@[simp] theorem holdOp_fuses (s : State) (k : Nat) (rs : List RunRec) : fusesOf (holdOp s k rs).ks = fusesOf s.ks := by
  unfold holdOp
  (try dsimp only)
  repeat' split
  all_goals (first | done | (simp [apply_ite (fun x : State => fusesOf x.ks)]; done) | rfl | (simp; rfl) | (refine foldl_fuses _ ?_ _ _; intro a x; dsimp only; repeat' split; all_goals (first | done | simp | rfl)))

@[simp] theorem dropContrib_fuses (s : State) (c : PartCtx) (d old : Nat) : fusesOf (dropContrib s c d old).ks = fusesOf s.ks := by
  unfold dropContrib
  (try dsimp only)
  repeat' split
  all_goals (first | done | (simp [apply_ite (fun x : State => fusesOf x.ks)]; done) | rfl | (simp; rfl) | (refine foldl_fuses _ ?_ _ _; intro a x; dsimp only; repeat' split; all_goals (first | done | simp | rfl)))

@[simp] theorem moveContribs_fuses (s : State) (k : Nat) (o : Op) : fusesOf (moveContribs s k o).ks = fusesOf s.ks := by
  unfold moveContribs
  split
  · rfl
  · refine foldl_fuses _ (fun a e => ?_) _ _
    split <;> simp

@[simp] theorem decide'_fuses (s : State) (k : Nat) (o : Op) : fusesOf (decide' s k o).ks = fusesOf s.ks := by
  unfold decide'
  (try dsimp only)
  repeat' split
  all_goals (first | done | (simp [apply_ite (fun x : State => fusesOf x.ks)]; done) | rfl | (simp; rfl) | (refine foldl_fuses _ ?_ _ _; intro a x; dsimp only; repeat' split; all_goals (first | done | simp | rfl)))

@[simp] theorem startReplayOn_fuses (s : State) (k d : Nat) (o : Op) : fusesOf (startReplayOn s k d o).ks = fusesOf s.ks := by
  unfold startReplayOn
  (try dsimp only)
  repeat' split
  all_goals (first | done | (simp [apply_ite (fun x : State => fusesOf x.ks)]; done) | rfl | (simp; rfl) | (refine foldl_fuses _ ?_ _ _; intro a x; dsimp only; repeat' split; all_goals (first | done | simp | rfl)))

@[simp] theorem replayStep_fuses (s : State) (launch : Nat) (o : Op) : fusesOf (replayStep s launch o).ks = fusesOf s.ks := by
  unfold replayStep
  (try dsimp only)
  repeat' split
  all_goals (first | done | (simp [apply_ite (fun x : State => fusesOf x.ks)]; done) | rfl | (simp; rfl) | (refine foldl_fuses _ ?_ _ _; intro a x; dsimp only; repeat' split; all_goals (first | done | simp | rfl)))

@[simp] theorem startEpoch_fuses (s : State) (pn : Nat) : fusesOf (startEpoch s pn).ks = fusesOf s.ks := by
  unfold startEpoch
  (try dsimp only)
  repeat' split
  all_goals (first | done | (simp [apply_ite (fun x : State => fusesOf x.ks)]; done) | rfl | (simp; rfl) | (refine foldl_fuses _ ?_ _ _; intro a x; dsimp only; repeat' split; all_goals (first | done | simp | rfl)))

@[simp] theorem copyWeights_fuses (s : State) (p : Partition) (src dst : Nat) : fusesOf (copyWeights s p src dst).ks = fusesOf s.ks := by
  unfold copyWeights
  (try dsimp only)
  repeat' split
  all_goals (first | done | (simp [apply_ite (fun x : State => fusesOf x.ks)]; done) | rfl | (simp; rfl) | (refine foldl_fuses _ ?_ _ _; intro a x; dsimp only; repeat' split; all_goals (first | done | simp | rfl)))

@[simp] theorem reportDivergence_fuses (s : State) (xmod : Bool) (a b : LsRec) : fusesOf (reportDivergence s xmod a b).ks = fusesOf s.ks := by
  unfold reportDivergence
  (try dsimp only)
  repeat' split
  all_goals (first | done | (simp [apply_ite (fun x : State => fusesOf x.ks)]; done) | rfl | (simp; rfl) | (refine foldl_fuses _ ?_ _ _; intro a x; dsimp only; repeat' split; all_goals (first | done | simp | rfl)))

@[simp] theorem emptyRegion_fuses (s : State) (d r : Nat) : fusesOf (emptyRegion s d r).ks = fusesOf s.ks := by
  unfold emptyRegion
  (try dsimp only)
  repeat' split
  all_goals (first | done | (simp [apply_ite (fun x : State => fusesOf x.ks)]; done) | rfl | (simp; rfl) | (refine foldl_fuses _ ?_ _ _; intro a x; dsimp only; repeat' split; all_goals (first | done | simp | rfl)))

@[simp] theorem dropLoad_fuses (s : State) (d k : Nat) : fusesOf (dropLoad s d k).ks = fusesOf s.ks := by
  unfold dropLoad
  (try dsimp only)
  repeat' split
  all_goals (first | done | (simp [apply_ite (fun x : State => fusesOf x.ks)]; done) | rfl | (simp; rfl) | (refine foldl_fuses _ ?_ _ _; intro a x; dsimp only; repeat' split; all_goals (first | done | simp | rfl)))

@[simp] theorem stopLoad_fuses (s : State) (k : Nat) (code : BitVec 8) : fusesOf (stopLoad s k code).ks = fusesOf s.ks := by
  unfold stopLoad
  (try dsimp only)
  repeat' split
  all_goals (first | done | (simp [apply_ite (fun x : State => fusesOf x.ks)]; done) | rfl | (simp; rfl) | (refine foldl_fuses _ ?_ _ _; intro a x; dsimp only; repeat' split; all_goals (first | done | simp | rfl)))

@[simp] theorem stopCritical_fuses (s : State) (k : Nat) (code : BitVec 8) : fusesOf (stopCritical s k code).ks = fusesOf s.ks := by
  unfold stopCritical
  (try dsimp only)
  repeat' split
  all_goals (first | done | (simp [apply_ite (fun x : State => fusesOf x.ks)]; done) | rfl | (simp; rfl) | (refine foldl_fuses _ ?_ _ _; intro a x; dsimp only; repeat' split; all_goals (first | done | simp | rfl)))

@[simp] theorem endRunning_fuses (s : State) (k : Nat) (code : BitVec 8) (o : Op) : fusesOf (endRunning s k code o).ks = fusesOf s.ks := by
  unfold endRunning
  (try dsimp only)
  repeat' split
  all_goals (first | done | (simp [apply_ite (fun x : State => fusesOf x.ks)]; done) | rfl | (simp; rfl) | (refine foldl_fuses _ ?_ _ _; intro a x; dsimp only; repeat' split; all_goals (first | done | simp | rfl)))

@[simp] theorem cancelOp_fuses (s : State) (k : Nat) (code : BitVec 8) : fusesOf (cancelOp s k code).ks = fusesOf s.ks := by
  unfold cancelOp
  (try dsimp only)
  repeat' split
  all_goals (first | done | (simp [apply_ite (fun x : State => fusesOf x.ks)]; done) | rfl | (simp; rfl) | (refine foldl_fuses _ ?_ _ _; intro a x; dsimp only; repeat' split; all_goals (first | done | simp | rfl)))

@[simp] theorem cancelWaiting_fuses (s : State) (n : Nat) : fusesOf (cancelWaiting s n).ks = fusesOf s.ks := by
  unfold cancelWaiting
  (try dsimp only)
  repeat' split
  all_goals (first | done | (simp [apply_ite (fun x : State => fusesOf x.ks)]; done) | rfl | (simp; rfl) | (refine foldl_fuses _ ?_ _ _; intro a x; dsimp only; repeat' split; all_goals (first | done | simp | rfl)))

@[simp] theorem ringFault_fuses (s : State) (n cause : Nat) : fusesOf (ringFault s n cause).ks = fusesOf s.ks := by
  unfold ringFault
  (try dsimp only)
  repeat' split
  all_goals (first | done | (simp [apply_ite (fun x : State => fusesOf x.ks)]; done) | rfl | (simp; rfl) | (refine foldl_fuses _ ?_ _ _; intro a x; dsimp only; repeat' split; all_goals (first | done | simp | rfl)))

@[simp] theorem drainContext_fuses (s : State) (n : Nat) : fusesOf (drainContext s n).ks = fusesOf s.ks := by
  unfold drainContext
  (try dsimp only)
  repeat' split
  all_goals (first | done | (simp [apply_ite (fun x : State => fusesOf x.ks)]; done) | rfl | (simp; rfl) | (refine foldl_fuses _ ?_ _ _; intro a x; dsimp only; repeat' split; all_goals (first | done | simp | rfl)))

@[simp] theorem enableContext_fuses (s : State) (n : Nat) : fusesOf (enableContext s n).ks = fusesOf s.ks := by
  unfold enableContext
  (try dsimp only)
  repeat' split
  all_goals (first | done | (simp [apply_ite (fun x : State => fusesOf x.ks)]; done) | rfl | (simp; rfl) | (refine foldl_fuses _ ?_ _ _; intro a x; dsimp only; repeat' split; all_goals (first | done | simp | rfl)))

@[simp] theorem sendIrq_fuses (s : State) (n : Nat) : fusesOf (sendIrq s n).ks = fusesOf s.ks := by
  unfold sendIrq
  (try dsimp only)
  repeat' split
  all_goals (first | done | (simp [apply_ite (fun x : State => fusesOf x.ks)]; done) | rfl | (simp; rfl) | (refine foldl_fuses _ ?_ _ _; intro a x; dsimp only; repeat' split; all_goals (first | done | simp | rfl)))

@[simp] theorem signalIrq_fuses (s : State) (n : Nat) : fusesOf (signalIrq s n).ks = fusesOf s.ks := by
  unfold signalIrq
  (try dsimp only)
  repeat' split
  all_goals (first | done | (simp [apply_ite (fun x : State => fusesOf x.ks)]; done) | rfl | (simp; rfl) | (refine foldl_fuses _ ?_ _ _; intro a x; dsimp only; repeat' split; all_goals (first | done | simp | rfl)))

@[simp] theorem countRecord_fuses (s : State) (n : Nat) : fusesOf (countRecord s n).ks = fusesOf s.ks := by
  unfold countRecord
  (try dsimp only)
  repeat' split
  all_goals (first | done | (simp [apply_ite (fun x : State => fusesOf x.ks)]; done) | rfl | (simp; rfl) | (refine foldl_fuses _ ?_ _ _; intro a x; dsimp only; repeat' split; all_goals (first | done | simp | rfl)))

@[simp] theorem putRecord_fuses (s : State) (n : Nat) (b : List Byte) : fusesOf (putRecord s n b).ks = fusesOf s.ks := by
  unfold putRecord
  (try dsimp only)
  repeat' split
  all_goals (first | done | (simp [apply_ite (fun x : State => fusesOf x.ks)]; done) | rfl | (simp; rfl) | (refine foldl_fuses _ ?_ _ _; intro a x; dsimp only; repeat' split; all_goals (first | done | simp | rfl)))

@[simp] theorem keepCode_fuses (s : State) (o : Op) : fusesOf (keepCode s o).ks = fusesOf s.ks := by
  unfold keepCode
  (try dsimp only)
  repeat' split
  all_goals (first | done | (simp [apply_ite (fun x : State => fusesOf x.ks)]; done) | rfl | (simp; rfl) | (refine foldl_fuses _ ?_ _ _; intro a x; dsimp only; repeat' split; all_goals (first | done | simp | rfl)))

@[simp] theorem retireOp_fuses (s : State) (k : Nat) (o : Op) : fusesOf (retireOp s k o).ks = fusesOf s.ks := by
  unfold retireOp
  (try dsimp only)
  repeat' split
  all_goals (first | done | (simp [apply_ite (fun x : State => fusesOf x.ks)]; done) | rfl | (simp; rfl) | (refine foldl_fuses _ ?_ _ _; intro a x; dsimp only; repeat' split; all_goals (first | done | simp | rfl)))

@[simp] theorem finishRecord_fuses (s : State) (n k : Nat) (o : Op) (ok : Bool) : fusesOf (finishRecord s n k o ok).ks = fusesOf s.ks := by
  unfold finishRecord
  (try dsimp only)
  repeat' split
  all_goals (first | done | (simp [apply_ite (fun x : State => fusesOf x.ks)]; done) | rfl | (simp; rfl) | (refine foldl_fuses _ ?_ _ _; intro a x; dsimp only; repeat' split; all_goals (first | done | simp | rfl)))

@[simp] theorem refill_fuses (s : State) (n : Nat) : fusesOf (refill s n).ks = fusesOf s.ks := by
  unfold refill
  (try dsimp only)
  repeat' split
  all_goals (first | done | (simp [apply_ite (fun x : State => fusesOf x.ks)]; done) | rfl | (simp; rfl) | (refine foldl_fuses _ ?_ _ _; intro a x; dsimp only; repeat' split; all_goals (first | done | simp | rfl)))

@[simp] theorem checkPairs_fuses (s : State) (b : List Byte) : fusesOf ((checkPairs s b).2).ks = fusesOf s.ks := by
  unfold checkPairs
  have h : ∀ (g : Bool × State → Nat × List Byte → Bool × State), (∀ a e, fusesOf (g a e).2.ks = fusesOf a.2.ks) →
      ∀ (l : List (Nat × List Byte)) (a : Bool × State), fusesOf (l.foldl g a).2.ks = fusesOf a.2.ks := by
    intro g hg l
    induction l with
    | nil => intro a; rfl
    | cons e r ih => intro a; exact (ih (g a e)).trans (hg a e)
  refine h _ ?_ _ _
  intro a e
  dsimp only
  split <;> simp

@[simp] theorem bootWrite_fuses (s : State) (a : Nat) (b : List Byte) : fusesOf (bootWrite s a b).ks = fusesOf s.ks := by
  unfold bootWrite
  (try dsimp only)
  repeat' split
  all_goals (first | done | (simp [apply_ite (fun x : State => fusesOf x.ks)]; done) | rfl | (simp; rfl) | (refine foldl_fuses _ ?_ _ _; intro a x; dsimp only; repeat' split; all_goals (first | done | simp | rfl)))

@[simp] theorem loadBase_fuses (s : State) (t : Nat) : fusesOf ((loadBase s t).2).ks = fusesOf s.ks := by
  unfold loadBase
  (try dsimp only)
  repeat' split
  all_goals (first | done | (simp [apply_ite (fun x : State => fusesOf x.ks)]; done) | rfl | (simp; rfl) | (refine foldl_fuses _ ?_ _ _; intro a x; dsimp only; repeat' split; all_goals (first | done | simp | rfl)))

@[simp] theorem ksComplete_fuses (s : State) (c : KsCmd) (code : BitVec 8) : fusesOf (ksComplete s c code).ks = fusesOf s.ks := by
  unfold ksComplete
  (try dsimp only)
  repeat' split
  all_goals (first | done | (simp [apply_ite (fun x : State => fusesOf x.ks)]; done) | rfl | (simp; rfl) | (refine foldl_fuses _ ?_ _ _; intro a x; dsimp only; repeat' split; all_goals (first | done | simp | rfl)))

@[simp] theorem ksFinish_fuses (s : State) (id : Nat) (code : BitVec 8) : fusesOf (ksFinish s id code).ks = fusesOf s.ks := by
  unfold ksFinish
  (try dsimp only)
  repeat' split
  all_goals (first | done | (simp [apply_ite (fun x : State => fusesOf x.ks)]; done) | rfl | (simp; rfl) | (refine foldl_fuses _ ?_ _ _; intro a x; dsimp only; repeat' split; all_goals (first | done | simp | rfl)))

@[simp] theorem loopPkt_fuses (s : State) (d : Nat) (p : Pkt) : fusesOf (loopPkt s d p).ks = fusesOf s.ks := by
  unfold loopPkt
  (try dsimp only)
  repeat' split
  all_goals (first | done | (simp [apply_ite (fun x : State => fusesOf x.ks)]; done) | rfl | (simp; rfl) | (refine foldl_fuses _ ?_ _ _; intro a x; dsimp only; repeat' split; all_goals (first | done | simp | rfl)))

theorem routePkt_fuses {s t : State} {d : Nat} {p : Pkt} (h : routePkt s d p = some t) : fusesOf t.ks = fusesOf s.ks := by
  unfold routePkt at h
  split at h
  · cases h; simp
  · cases hr : (routeOf s d p.dmod p.hops).filter (fun n => 3 < p.typ || !(portOf s n).refuse) with
    | none => rw [hr] at h; cases h
    | some n =>
      rw [hr] at h
      simp only [Option.map_some, Option.some.injEq] at h
      rw [← h]; split <;> simp
@[simp] theorem respond_fuses (s : State) (d : Nat) (q : Pkt) (st : Status) (x : List Line) : fusesOf (respond s d q st x).ks = fusesOf s.ks := by
  unfold respond
  cases h : routePkt s d (answerOf s d q st x) with
  | none => simp
  | some t => exact routePkt_fuses h

theorem issueReq_fuses {s : State} {d : Nat} {p : Pkt} {r : TagRec} {t : State × Bool} (h : issueReq s d p r = some t) : fusesOf t.1.ks = fusesOf s.ks := by
  unfold issueReq at h
  dsimp only at h
  split at h
  · cases h
  · split at h
    · cases h; rfl
    · next hr => cases h; simp [routePkt_fuses hr]

@[simp] theorem retireTag_fuses (s : State) (d n : Nat) : fusesOf (retireTag s d n).ks = fusesOf s.ks := by
  unfold retireTag
  (try dsimp only)
  repeat' split
  all_goals (first | done | (simp [apply_ite (fun x : State => fusesOf x.ks)]; done) | rfl | (simp; rfl) | (refine foldl_fuses _ ?_ _ _; intro a x; dsimp only; repeat' split; all_goals (first | done | simp | rfl)))

@[simp] theorem failTag_fuses (s : State) (d n : Nat) (code : BitVec 8) : fusesOf (failTag s d n code).ks = fusesOf s.ks := by
  unfold failTag
  (try dsimp only)
  repeat' split
  all_goals (first | done | (simp [apply_ite (fun x : State => fusesOf x.ks)]; done) | rfl | (simp; rfl) | (refine foldl_fuses _ ?_ _ _; intro a x; dsimp only; repeat' split; all_goals (first | done | simp | rfl)))

@[simp] theorem cpDone_fuses (s : State) (k n : Nat) : fusesOf (cpDone s k n).ks = fusesOf s.ks := by
  unfold cpDone
  (try dsimp only)
  repeat' split
  all_goals (first | done | (simp [apply_ite (fun x : State => fusesOf x.ks)]; done) | rfl | (simp; rfl) | (refine foldl_fuses _ ?_ _ _; intro a x; dsimp only; repeat' split; all_goals (first | done | simp | rfl)))

theorem cpStore_fuses {s t : State} {k i : Nat} {o : Op} {xs : List Line} {ms : List Byte} (h : cpStore s k i o xs ms = some t) : fusesOf (t).ks = fusesOf s.ks := by
  unfold cpStore at h
  dsimp only at h
  split at h
  · cases h; split <;> simp
  · split at h
    · cases h; simp
    · cases h; split <;> simp
  · cases hr : issueReq s o.runDie (cpPkt s o true i xs.length xs) ⟨0, 0, 0, some k, i, xs.length, true, false⟩ with
    | none => rw [hr] at h; cases h
    | some r =>
      rw [hr] at h
      simp only [Option.map_some, Option.some.injEq] at h
      rw [← h]; split <;> simp [issueReq_fuses hr]

@[simp] theorem cpStep_fuses (s : State) (k n : Nat) (o : Op) : fusesOf (cpStep s k n o).ks = fusesOf s.ks := by
  unfold cpStep
  extract_lets i n sent
  split
  · rfl
  · split
    · next b _ _ _ =>
        cases h : cpStore s k i o (toLines b) b with
        | none => rfl
        | some t => simp [sent, cpStore_fuses h]
    · split
      · simp
      · extract_lets r own
        split
        · cases h : cpStore s k i o r.2 (mirrorBytes s o.part _ (cpAddr o false + i) 0 (64 * n) own) with
          | none => rfl
          | some t => simp [sent, cpStore_fuses h]
        · simp
    · split
      · rfl
      · next h => split <;> simp [sent, issueReq_fuses h]

@[simp] theorem eccSuspect_fuses (s : State) (d : Nat) (code : Status) : fusesOf (eccSuspect s d code).ks = fusesOf s.ks := by
  unfold eccSuspect
  (try dsimp only)
  repeat' split
  all_goals (first | done | (simp [apply_ite (fun x : State => fusesOf x.ks)]; done) | rfl | (simp; rfl) | (refine foldl_fuses _ ?_ _ _; intro a x; dsimp only; repeat' split; all_goals (first | done | simp | rfl)))

@[simp] theorem serveRead_fuses (s : State) (d : Nat) (q : Pkt) : fusesOf (serveRead s d q).ks = fusesOf s.ks := by
  unfold serveRead
  (try dsimp only)
  repeat' split
  all_goals (first | done | (simp [apply_ite (fun x : State => fusesOf x.ks)]; done) | rfl | (simp; rfl) | (refine foldl_fuses _ ?_ _ _; intro a x; dsimp only; repeat' split; all_goals (first | done | simp | rfl)))

@[simp] theorem serveWrite_fuses (s : State) (d : Nat) (q : Pkt) : fusesOf (serveWrite s d q).ks = fusesOf s.ks := by
  unfold serveWrite
  (try dsimp only)
  repeat' split
  all_goals (first | done | (simp [apply_ite (fun x : State => fusesOf x.ks)]; done) | rfl | (simp; rfl) | (refine foldl_fuses _ ?_ _ _; intro a x; dsimp only; repeat' split; all_goals (first | done | simp | rfl)))

@[simp] theorem serveMessage_fuses (s : State) (d : Nat) (q : Pkt) : fusesOf (serveMessage s d q).ks = fusesOf s.ks := by
  unfold serveMessage
  (try dsimp only)
  repeat' split
  all_goals (first | done | (simp [apply_ite (fun x : State => fusesOf x.ks)]; done) | rfl | (simp; rfl) | (refine foldl_fuses _ ?_ _ _; intro a x; dsimp only; repeat' split; all_goals (first | done | simp | rfl)))

theorem takePkt_fuses {s : State} {d vl typ : Nat} {loc : Bool} {t : Pkt × State} (h : takePkt s d vl typ loc = some t) : fusesOf t.2.ks = fusesOf s.ks := by
  unfold takePkt at h
  split at h
  · split at h
    · dsimp only at h; split at h
      · cases h; simp
      · cases h
    · cases h
  · split at h
    · split at h
      · cases h; simp
      · cases h
    · cases h

theorem applyAnswer_fuses {s t : State} {d : Nat} {r : TagRec} {p : Pkt} (h : applyAnswer s d r p = some t) : fusesOf t.ks = fusesOf s.ks := by
  unfold applyAnswer at h
  split at h
  · cases h; rfl
  · split at h
    · cases h; rfl
    · split at h
      · cases h; rfl
      · split at h
        · cases h; simp
        · split at h
          · cases h; simp
          · split at h
            · cases h; simp
            · exact cpStore_fuses h

theorem takeAnswer_fuses {s t : State} {p : Pkt} (h : takeAnswer s p = some t) : fusesOf t.ks = fusesOf s.ks := by
  unfold takeAnswer at h
  dsimp only at h
  split at h
  · split at h
    · rw [applyAnswer_fuses h]; simp
    · cases h; simp
  · cases h; simp

@[simp] theorem unrelay_fuses (s : State) (d : Nat) (p : Pkt) : fusesOf (unrelay s d p).ks = fusesOf s.ks := by
  unfold unrelay
  (try dsimp only)
  repeat' split
  all_goals (first | done | (simp [apply_ite (fun x : State => fusesOf x.ks)]; done) | rfl | (simp; rfl) | (refine foldl_fuses _ ?_ _ _; intro a x; dsimp only; repeat' split; all_goals (first | done | simp | rfl)))

@[simp] theorem takeStepMsg_fuses (s : State) (b : List Byte) : fusesOf (takeStepMsg s b).ks = fusesOf s.ks := by
  unfold takeStepMsg
  (try dsimp only)
  repeat' split
  all_goals (first | done | (simp [apply_ite (fun x : State => fusesOf x.ks)]; done) | rfl | (simp; rfl) | (refine foldl_fuses _ ?_ _ _; intro a x; dsimp only; repeat' split; all_goals (first | done | simp | rfl)))

@[simp] theorem takeMgmt_fuses (s : State) (p : Pkt) : fusesOf (takeMgmt s p).ks = fusesOf s.ks := by
  unfold takeMgmt
  (try dsimp only)
  repeat' split
  all_goals (first | done | (simp [apply_ite (fun x : State => fusesOf x.ks)]; done) | rfl | (simp; rfl) | (refine foldl_fuses _ ?_ _ _; intro a x; dsimp only; repeat' split; all_goals (first | done | simp | rfl)))

@[simp] theorem takeReport_fuses (s : State) (num : Nat) (b : List Byte) : fusesOf (takeReport s num b).ks = fusesOf s.ks := by
  unfold takeReport
  (try dsimp only)
  repeat' split
  all_goals (first | done | (simp [apply_ite (fun x : State => fusesOf x.ks)]; done) | rfl | (simp; rfl) | (refine foldl_fuses _ ?_ _ _; intro a x; dsimp only; repeat' split; all_goals (first | done | simp | rfl)))

@[simp] theorem sendReport_fuses (s : State) (d n : Nat) (b : List Byte) : fusesOf (sendReport s d n b).ks = fusesOf s.ks := by
  unfold sendReport
  split
  · rfl
  · split
    · simp
    · cases h : routePkt s d (surveyPkt s d _ 0 1 n b) with
      | none => simp
      | some t => exact routePkt_fuses h

@[simp] theorem takeFlood_fuses (s : State) (num org hops : Nat) (src : Option Nat) : fusesOf (takeFlood s num org hops src).ks = fusesOf s.ks := by
  unfold takeFlood
  (try dsimp only)
  repeat' split
  all_goals (first | done | (simp [apply_ite (fun x : State => fusesOf x.ks)]; done) | rfl | (simp; rfl) | (refine foldl_fuses _ ?_ _ _; intro a x; dsimp only; repeat' split; all_goals (first | done | simp | rfl)))

@[simp] theorem modRegion_fuses (s : State) (d r : Nat) (f : Region → Region) : fusesOf (modRegion s d r f).ks = fusesOf s.ks := by
  unfold modRegion
  (try dsimp only)
  repeat' split
  all_goals (first | done | (simp [apply_ite (fun x : State => fusesOf x.ks)]; done) | rfl | (simp; rfl) | (refine foldl_fuses _ ?_ _ _; intro a x; dsimp only; repeat' split; all_goals (first | done | simp | rfl)))

@[simp] theorem modHeadLoad_fuses (s : State) (d : Nat) (f : RegionLoad → RegionLoad) : fusesOf (modHeadLoad s d f).ks = fusesOf s.ks := by
  unfold modHeadLoad
  (try dsimp only)
  repeat' split
  all_goals (first | done | (simp [apply_ite (fun x : State => fusesOf x.ks)]; done) | rfl | (simp; rfl) | (refine foldl_fuses _ ?_ _ _; intro a x; dsimp only; repeat' split; all_goals (first | done | simp | rfl)))

@[simp] theorem isolateRegion_fuses (s : State) (d r : Nat) (ph : RegionPhase) : fusesOf (isolateRegion s d r ph).ks = fusesOf s.ks := by
  unfold isolateRegion
  (try dsimp only)
  repeat' split
  all_goals (first | done | (simp [apply_ite (fun x : State => fusesOf x.ks)]; done) | rfl | (simp; rfl) | (refine foldl_fuses _ ?_ _ _; intro a x; dsimp only; repeat' split; all_goals (first | done | simp | rfl)))

@[simp] theorem stopLoads_fuses (s : State) (d : Nat) (f : RegionLoad → Bool) : fusesOf (stopLoads s d f).ks = fusesOf s.ks := by
  unfold stopLoads
  (try dsimp only)
  repeat' split
  all_goals (first | done | (simp [apply_ite (fun x : State => fusesOf x.ks)]; done) | rfl | (simp; rfl) | (refine foldl_fuses _ ?_ _ _; intro a x; dsimp only; repeat' split; all_goals (first | done | simp | rfl)))

@[simp] theorem modHbm_fuses (s : State) (d : Nat) (f : Hbm → Hbm) : fusesOf (modHbm s d f).ks = fusesOf s.ks := by
  unfold modHbm
  (try dsimp only)
  repeat' split
  all_goals (first | done | (simp [apply_ite (fun x : State => fusesOf x.ks)]; done) | rfl | (simp; rfl) | (refine foldl_fuses _ ?_ _ _; intro a x; dsimp only; repeat' split; all_goals (first | done | simp | rfl)))

@[simp] theorem splitSlots_fuses (s : State) (d : Nat) : fusesOf (splitSlots s d).ks = fusesOf s.ks := by
  unfold splitSlots
  (try dsimp only)
  repeat' split
  all_goals (first | done | (simp [apply_ite (fun x : State => fusesOf x.ks)]; done) | rfl | (simp; rfl) | (refine foldl_fuses _ ?_ _ _; intro a x; dsimp only; repeat' split; all_goals (first | done | simp | rfl)))

@[simp] theorem activate_fuses (s : State) (d pc bank row : Nat) : fusesOf (activate s d pc bank row).ks = fusesOf s.ks := by
  unfold activate
  (try dsimp only)
  repeat' split
  all_goals (first | done | (simp [apply_ite (fun x : State => fusesOf x.ks)]; done) | rfl | (simp; rfl) | (refine foldl_fuses _ ?_ _ _; intro a x; dsimp only; repeat' split; all_goals (first | done | simp | rfl)))

@[simp] theorem logHbm_fuses (s : State) (d : Nat) (ce : Bool) (pc bank row col : Nat) : fusesOf (logHbm s d ce pc bank row col).ks = fusesOf s.ks := by
  unfold logHbm
  (try dsimp only)
  repeat' split
  all_goals (first | done | (simp [apply_ite (fun x : State => fusesOf x.ks)]; done) | rfl | (simp; rfl) | (refine foldl_fuses _ ?_ _ _; intro a x; dsimp only; repeat' split; all_goals (first | done | simp | rfl)))

@[simp] theorem correctedErr_fuses (s : State) (d pc bank row col : Nat) : fusesOf (correctedErr s d pc bank row col).ks = fusesOf s.ks := by
  unfold correctedErr
  (try dsimp only)
  repeat' split
  all_goals (first | done | (simp [apply_ite (fun x : State => fusesOf x.ks)]; done) | rfl | (simp; rfl) | (refine foldl_fuses _ ?_ _ _; intro a x; dsimp only; repeat' split; all_goals (first | done | simp | rfl)))

@[simp] theorem uncorrectable_fuses (s : State) (d pc bank row col : Nat) : fusesOf (uncorrectable s d pc bank row col).ks = fusesOf s.ks := by
  unfold uncorrectable
  (try dsimp only)
  repeat' split
  all_goals (first | done | (simp [apply_ite (fun x : State => fusesOf x.ks)]; done) | rfl | (simp; rfl) | (refine foldl_fuses _ ?_ _ _; intro a x; dsimp only; repeat' split; all_goals (first | done | simp | rfl)))

@[simp] theorem readPlace_fuses (s : State) (d : Nat) (q : HbmReq) (err : ReadErr) : fusesOf (readPlace s d q err).1.ks = fusesOf s.ks := by
  unfold readPlace
  (try dsimp only)
  repeat' split
  all_goals (first | done | (simp [apply_ite (fun x : State => fusesOf x.ks)]; done) | rfl | (simp; rfl) | (refine foldl_fuses _ ?_ _ _; intro a x; dsimp only; repeat' split; all_goals (first | done | simp | rfl)))

@[simp] theorem answerHbm_fuses (s : State) (d id : Nat) (r : Status × Line) : fusesOf (answerHbm s d id r).ks = fusesOf s.ks := by
  unfold answerHbm
  (try dsimp only)
  repeat' split
  all_goals (first | done | (simp [apply_ite (fun x : State => fusesOf x.ks)]; done) | rfl | (simp; rfl) | (refine foldl_fuses _ ?_ _ _; intro a x; dsimp only; repeat' split; all_goals (first | done | simp | rfl)))

@[simp] theorem issueHbm_fuses (s : State) (d : Nat) (q : HbmReq) (err : ReadErr) : fusesOf (issueHbm s d q err).ks = fusesOf s.ks := by
  unfold issueHbm
  (try dsimp only)
  repeat' split
  all_goals (first | done | (simp [apply_ite (fun x : State => fusesOf x.ks)]; done) | rfl | (simp; rfl) | (refine foldl_fuses _ ?_ _ _; intro a x; dsimp only; repeat' split; all_goals (first | done | simp | rfl)))

@[simp] theorem startRepair_fuses (s : State) (d : Nat) : fusesOf (startRepair s d).ks = fusesOf s.ks := by
  unfold startRepair
  (try dsimp only)
  repeat' split
  all_goals (first | done | (simp [apply_ite (fun x : State => fusesOf x.ks)]; done) | rfl | (simp; rfl) | (refine foldl_fuses _ ?_ _ _; intro a x; dsimp only; repeat' split; all_goals (first | done | simp | rfl)))

@[simp] theorem endRepair_fuses (s : State) (d : Nat) (bad : BitVec 16) : fusesOf (endRepair s d bad).ks = fusesOf s.ks := by
  unfold endRepair
  (try dsimp only)
  repeat' split
  all_goals (first | done | (simp [apply_ite (fun x : State => fusesOf x.ks)]; done) | rfl | (simp; rfl) | (refine foldl_fuses _ ?_ _ _; intro a x; dsimp only; repeat' split; all_goals (first | done | simp | rfl)))

@[simp] theorem hardRepairs_fuses (s : State) (d : Nat) : fusesOf (hardRepairs s d).ks = fusesOf s.ks := by
  unfold hardRepairs
  (try dsimp only)
  repeat' split
  all_goals (first | done | (simp [apply_ite (fun x : State => fusesOf x.ks)]; done) | rfl | (simp; rfl) | (refine foldl_fuses _ ?_ _ _; intro a x; dsimp only; repeat' split; all_goals (first | done | simp | rfl)))

@[simp] theorem withdrawRegion_fuses (s : State) (pn d r : Nat) : fusesOf (withdrawRegion s pn d r).ks = fusesOf s.ks := by
  unfold withdrawRegion
  (try dsimp only)
  repeat' split
  all_goals (first | done | (simp [apply_ite (fun x : State => fusesOf x.ks)]; done) | rfl | (simp; rfl) | (refine foldl_fuses _ ?_ _ _; intro a x; dsimp only; repeat' split; all_goals (first | done | simp | rfl)))

@[simp] theorem withdrawRegions_fuses (s : State) (pn : Nat) (now : PartBlock) : fusesOf (withdrawRegions s pn now).ks = fusesOf s.ks := by
  unfold withdrawRegions
  (try dsimp only)
  repeat' split
  all_goals (first | done | (simp [apply_ite (fun x : State => fusesOf x.ks)]; done) | rfl | (simp; rfl) | (refine foldl_fuses _ ?_ _ _; intro a x; dsimp only; repeat' split; all_goals (first | done | simp | rfl)))

@[simp] theorem settlePart_fuses (s : State) (pn : Nat) : fusesOf (settlePart s pn).ks = fusesOf s.ks := by
  unfold settlePart
  (try dsimp only)
  repeat' split
  all_goals (first | done | (simp [apply_ite (fun x : State => fusesOf x.ks)]; done) | rfl | (simp; rfl) | (refine foldl_fuses _ ?_ _ _; intro a x; dsimp only; repeat' split; all_goals (first | done | simp | rfl)))

@[simp] theorem wantBoundary_fuses (s : State) (pn : Nat) : fusesOf (wantBoundary s pn).ks = fusesOf s.ks := by
  unfold wantBoundary
  (try dsimp only)
  repeat' split
  all_goals (first | done | (simp [apply_ite (fun x : State => fusesOf x.ks)]; done) | rfl | (simp; rfl) | (refine foldl_fuses _ ?_ _ _; intro a x; dsimp only; repeat' split; all_goals (first | done | simp | rfl)))

@[simp] theorem wantBoundaries_fuses (s : State) : fusesOf (wantBoundaries s).ks = fusesOf s.ks := by
  unfold wantBoundaries
  (try dsimp only)
  repeat' split
  all_goals (first | done | (simp [apply_ite (fun x : State => fusesOf x.ks)]; done) | rfl | (simp; rfl) | (refine foldl_fuses _ ?_ _ _; intro a x; dsimp only; repeat' split; all_goals (first | done | simp | rfl)))

@[simp] theorem mapLt_fuses (s : State) (d lt pt : Nat) : fusesOf (mapLt s d lt pt).ks = fusesOf s.ks := by
  unfold mapLt
  (try dsimp only)
  repeat' split
  all_goals (first | done | (simp [apply_ite (fun x : State => fusesOf x.ks)]; done) | rfl | (simp; rfl) | (refine foldl_fuses _ ?_ _ _; intro a x; dsimp only; repeat' split; all_goals (first | done | simp | rfl)))

@[simp] theorem unmapLt_fuses (s : State) (d lt : Nat) : fusesOf (unmapLt s d lt).ks = fusesOf s.ks := by
  unfold unmapLt
  (try dsimp only)
  repeat' split
  all_goals (first | done | (simp [apply_ite (fun x : State => fusesOf x.ks)]; done) | rfl | (simp; rfl) | (refine foldl_fuses _ ?_ _ _; intro a x; dsimp only; repeat' split; all_goals (first | done | simp | rfl)))

@[simp] theorem mapLts_fuses (s : State) (d : Nat) (lts : List Nat) : fusesOf (mapLts s d lts).ks = fusesOf s.ks := by
  unfold mapLts
  (try dsimp only)
  repeat' split
  all_goals (first | done | (simp [apply_ite (fun x : State => fusesOf x.ks)]; done) | rfl | (simp; rfl) | (refine foldl_fuses _ ?_ _ _; intro a x; dsimp only; repeat' split; all_goals (first | done | simp | rfl)))

@[simp] theorem makeGrade_fuses (s : State) (g : GradeChange) : fusesOf (makeGrade s g).ks = fusesOf s.ks := by
  unfold makeGrade
  (try dsimp only)
  repeat' split
  all_goals (first | done | (simp [apply_ite (fun x : State => fusesOf x.ks)]; done) | rfl | (simp; rfl) | (refine foldl_fuses _ ?_ _ _; intro a x; dsimp only; repeat' split; all_goals (first | done | simp | rfl)))

@[simp] theorem gradesFuel_fuses (n : Nat) (s : State) : fusesOf (gradesFuel n s).ks = fusesOf s.ks := by
  induction n generalizing s with
  | zero => rfl
  | succ n ih =>
    unfold gradesFuel; (try dsimp only); repeat' split
    all_goals (first | rfl | (simp [ih]; done) | (simp [ih]; rfl))

@[simp] theorem applyGrades_fuses (s : State) (pn : Nat) : fusesOf (applyGrades s pn).ks = fusesOf s.ks := by
  unfold applyGrades
  (try dsimp only)
  repeat' split
  all_goals (first | done | (simp [apply_ite (fun x : State => fusesOf x.ks)]; done) | rfl | (simp; rfl) | (refine foldl_fuses _ ?_ _ _; intro a x; dsimp only; repeat' split; all_goals (first | done | simp | rfl)))

@[simp] theorem unbind_fuses (s : State) (pn : Nat) : fusesOf (unbind s pn).ks = fusesOf s.ks := by
  unfold unbind
  (try dsimp only)
  repeat' split
  all_goals (first | done | (simp [apply_ite (fun x : State => fusesOf x.ks)]; done) | rfl | (simp; rfl) | (refine foldl_fuses _ ?_ _ _; intro a x; dsimp only; repeat' split; all_goals (first | done | simp | rfl)))

@[simp] theorem endPartOps_fuses (s : State) (pn : Nat) : fusesOf (endPartOps s pn).ks = fusesOf s.ks := by
  unfold endPartOps
  refine foldl_fuses _ ?_ _ _
  intro a x; (try dsimp only); repeat' split
  all_goals (first | rfl | simp)

@[simp] theorem splitAll_fuses (s : State) : fusesOf (splitAll s).ks = fusesOf s.ks := by
  unfold splitAll
  (try dsimp only)
  repeat' split
  all_goals (first | done | (simp [apply_ite (fun x : State => fusesOf x.ks)]; done) | rfl | (simp; rfl) | (refine foldl_fuses _ ?_ _ _; intro a x; dsimp only; repeat' split; all_goals (first | done | simp | rfl)))

@[simp] theorem dropPart_fuses (s : State) (pn : Nat) : fusesOf (dropPart s pn).ks = fusesOf s.ks := by
  unfold dropPart
  (try dsimp only)
  repeat' split
  all_goals (first | done | (simp [apply_ite (fun x : State => fusesOf x.ks)]; done) | rfl | (simp; rfl) | (refine foldl_fuses _ ?_ _ _; intro a x; dsimp only; repeat' split; all_goals (first | done | simp | rfl)))

@[simp] theorem releaseDie_fuses (s : State) (pn d : Nat) : fusesOf (releaseDie s pn d).ks = fusesOf s.ks := by
  unfold releaseDie
  (try dsimp only)
  repeat' split
  all_goals (first | done | (simp [apply_ite (fun x : State => fusesOf x.ks)]; done) | rfl | (simp; rfl) | (refine foldl_fuses _ ?_ _ _; intro a x; dsimp only; repeat' split; all_goals (first | done | simp | rfl)))

@[simp] theorem clearBanks_fuses (s : State) (d mask : Nat) : fusesOf (clearBanks s d mask).ks = fusesOf s.ks := by
  unfold clearBanks
  (try dsimp only)
  repeat' split
  all_goals (first | done | (simp [apply_ite (fun x : State => fusesOf x.ks)]; done) | rfl | (simp; rfl) | (refine foldl_fuses _ ?_ _ _; intro a x; dsimp only; repeat' split; all_goals (first | done | simp | rfl)))

@[simp] theorem copyRange_fuses (s : State) (p : Partition) (src dst : Nat) : fusesOf (copyRange s p src dst).ks = fusesOf s.ks := by
  unfold copyRange
  (try dsimp only)
  repeat' split
  all_goals (first | done | (simp [apply_ite (fun x : State => fusesOf x.ks)]; done) | rfl | (simp; rfl) | (refine foldl_fuses _ ?_ _ _; intro a x; dsimp only; repeat' split; all_goals (first | done | simp | rfl)))

@[simp] theorem digestMoves_fuses (s : State) (pn : Nat) : fusesOf (digestMoves s pn).ks = fusesOf s.ks := by
  unfold digestMoves
  (try dsimp only)
  repeat' split
  all_goals (first | done | (simp [apply_ite (fun x : State => fusesOf x.ks)]; done) | rfl | (simp; rfl) | (refine foldl_fuses _ ?_ _ _; intro a x; dsimp only; repeat' split; all_goals (first | done | simp | rfl)))

@[simp] theorem movesAt_fuses (s : State) (pn : Nat) : fusesOf (movesAt s pn).ks = fusesOf s.ks := by
  unfold movesAt
  (try dsimp only)
  repeat' split
  all_goals (first | done | (simp [apply_ite (fun x : State => fusesOf x.ks)]; done) | rfl | (simp; rfl) | (refine foldl_fuses _ ?_ _ _; intro a x; dsimp only; repeat' split; all_goals (first | done | simp | rfl)))

@[simp] theorem atBoundary_fuses (s : State) (pn : Nat) (counted : Bool) : fusesOf (atBoundary s pn counted).ks = fusesOf s.ks := by
  unfold atBoundary
  extract_lets s1 s2 s3 n due
  have h3 : fusesOf (s3).ks = fusesOf s.ks := by simp [s3, s2, s1]
  rw [settlePart_fuses, wantBoundaries_fuses]
  split
  · rw [startEpoch_fuses, h3]
  · exact h3

@[simp] theorem beginTest_fuses (s : State) (d : Nat) (j : TapJob) : fusesOf (beginTest s d j).ks = fusesOf s.ks := by
  unfold beginTest
  (try dsimp only)
  repeat' split
  all_goals (first | done | (simp [apply_ite (fun x : State => fusesOf x.ks)]; done) | rfl | (simp; rfl) | (refine foldl_fuses _ ?_ _ _; intro a x; dsimp only; repeat' split; all_goals (first | done | simp | rfl)))

@[simp] theorem tapMoved_fuses (s : State) (d : Nat) : fusesOf (tapMoved s d).ks = fusesOf s.ks := by
  unfold tapMoved
  (try dsimp only)
  repeat' split
  all_goals (first | done | (simp [apply_ite (fun x : State => fusesOf x.ks)]; done) | rfl | (simp; rfl) | (refine foldl_fuses _ ?_ _ _; intro a x; dsimp only; repeat' split; all_goals (first | done | simp | rfl)))

@[simp] theorem tapRefused_fuses (s : State) (d : Nat) : fusesOf (tapRefused s d).ks = fusesOf s.ks := by
  unfold tapRefused
  (try dsimp only)
  repeat' split
  all_goals (first | done | (simp [apply_ite (fun x : State => fusesOf x.ks)]; done) | rfl | (simp; rfl) | (refine foldl_fuses _ ?_ _ _; intro a x; dsimp only; repeat' split; all_goals (first | done | simp | rfl)))

@[simp] theorem moveFor_fuses (s : State) (d lt new : Nat) : fusesOf (moveFor s d lt new).ks = fusesOf s.ks := by
  unfold moveFor
  (try dsimp only)
  repeat' split
  all_goals (first | done | (simp [apply_ite (fun x : State => fusesOf x.ks)]; done) | rfl | (simp; rfl) | (refine foldl_fuses _ ?_ _ _; intro a x; dsimp only; repeat' split; all_goals (first | done | simp | rfl)))

@[simp] theorem startTap_fuses (s : State) (d : Nat) (j : TapJob) : fusesOf (startTap s d j).ks = fusesOf s.ks := by
  unfold startTap
  (try dsimp only)
  repeat' split
  all_goals (first | done | (simp [apply_ite (fun x : State => fusesOf x.ks)]; done) | rfl | (simp; rfl) | (refine foldl_fuses _ ?_ _ _; intro a x; dsimp only; repeat' split; all_goals (first | done | simp | rfl)))

@[simp] theorem askTap_fuses (s : State) (d : Nat) (j : TapJob) : fusesOf (askTap s d j).ks = fusesOf s.ks := by
  unfold askTap
  (try dsimp only)
  repeat' split
  all_goals (first | done | (simp [apply_ite (fun x : State => fusesOf x.ks)]; done) | rfl | (simp; rfl) | (refine foldl_fuses _ ?_ _ _; intro a x; dsimp only; repeat' split; all_goals (first | done | simp | rfl)))

@[simp] theorem nextTap_fuses (n : Nat) (s : State) (d : Nat) : fusesOf (nextTap n s d).ks = fusesOf s.ks := by
  induction n generalizing s d with
  | zero => rfl
  | succ n ih =>
    unfold nextTap; (try dsimp only); repeat' split
    all_goals (first | rfl | simp [ih])

@[simp] theorem abandonTap_fuses (s : State) (d : Nat) : fusesOf (abandonTap s d).ks = fusesOf s.ks := by
  unfold abandonTap
  (try dsimp only)
  repeat' split
  all_goals (first | done | (simp [apply_ite (fun x : State => fusesOf x.ks)]; done) | rfl | (simp; rfl) | (refine foldl_fuses _ ?_ _ _; intro a x; dsimp only; repeat' split; all_goals (first | done | simp | rfl)))

@[simp] theorem endThrough_fuses (s : State) (d : Nat) : fusesOf (endThrough s d).ks = fusesOf s.ks := by
  unfold endThrough
  (try dsimp only)
  repeat' split
  all_goals (first | done | (simp [apply_ite (fun x : State => fusesOf x.ks)]; done) | rfl | (simp; rfl) | (refine foldl_fuses _ ?_ _ _; intro a x; dsimp only; repeat' split; all_goals (first | done | simp | rfl)))

@[simp] theorem resetPort_fuses (s : State) (d : Nat) (ph : PortPhase) : fusesOf (resetPort s d ph).ks = fusesOf s.ks := by
  unfold resetPort
  (try dsimp only)
  repeat' split
  all_goals (first | done | (simp [apply_ite (fun x : State => fusesOf x.ks)]; done) | rfl | (simp; rfl) | (refine foldl_fuses _ ?_ _ _; intro a x; dsimp only; repeat' split; all_goals (first | done | simp | rfl)))

@[simp] theorem withdrawRoutes_fuses (s : State) (port : Nat) : fusesOf (withdrawRoutes s port).ks = fusesOf s.ks := by
  unfold withdrawRoutes
  (try dsimp only)
  repeat' split
  all_goals (first | done | (simp [apply_ite (fun x : State => fusesOf x.ks)]; done) | rfl | (simp; rfl) | (refine foldl_fuses _ ?_ _ _; intro a x; dsimp only; repeat' split; all_goals (first | done | simp | rfl)))

@[simp] theorem losePort_fuses (s : State) (d : Nat) : fusesOf (losePort s d).ks = fusesOf s.ks := by
  unfold losePort
  extract_lets p gs s1 s2 s3 s4
  have h3 : fusesOf s3.ks = fusesOf s2.ks := foldl_fuses _ (by intro a x; simp) _ _
  have h2 : fusesOf s2.ks = fusesOf s.ks := by simp [s2, s1]
  rw [withdrawRoutes_fuses, moduleEvent_fuses, faultSig_fuses, h3, h2]

@[simp] theorem endRetire_fuses (s : State) (d : Nat) : fusesOf (endRetire s d).ks = fusesOf s.ks := by
  unfold endRetire
  (try dsimp only)
  repeat' split
  all_goals (first | done | (simp [apply_ite (fun x : State => fusesOf x.ks)]; done) | rfl | (simp; rfl) | (refine foldl_fuses _ ?_ _ _; intro a x; dsimp only; repeat' split; all_goals (first | done | simp | rfl)))

@[simp] theorem startRetire_fuses (s : State) (d : Nat) : fusesOf (startRetire s d).ks = fusesOf s.ks := by
  unfold startRetire
  (try dsimp only)
  repeat' split
  all_goals (first | done | (simp [apply_ite (fun x : State => fusesOf x.ks)]; done) | rfl | (simp; rfl) | (refine foldl_fuses _ ?_ _ _; intro a x; dsimp only; repeat' split; all_goals (first | done | simp | rfl)))

@[simp] theorem bringUp_fuses (s : State) (d : Nat) (fresh : Bool) : fusesOf (bringUp s d fresh).ks = fusesOf s.ks := by
  unfold bringUp
  (try dsimp only)
  repeat' split
  all_goals (first | done | (simp [apply_ite (fun x : State => fusesOf x.ks)]; done) | rfl | (simp; rfl) | (refine foldl_fuses _ ?_ _ _; intro a x; dsimp only; repeat' split; all_goals (first | done | simp | rfl)))

@[simp] theorem doorbell_fuses (s : State) (link : Fin 2) (page : Fin 4096) (val : W32) (whole : Bool) (size : Nat → Nat) (put : Nat → Tc → Tc) : fusesOf (doorbell s link page val whole size put).ks = fusesOf s.ks := by
  unfold doorbell
  (try dsimp only)
  repeat' split
  all_goals (first | done | (simp [apply_ite (fun x : State => fusesOf x.ks)]; done) | rfl | (simp; rfl) | (refine foldl_fuses _ ?_ _ _; intro a x; dsimp only; repeat' split; all_goals (first | done | simp | rfl)))

@[simp] theorem createOp_fuses (s : State) (n : Nat) (express : Bool) (b : List Byte) : fusesOf (createOp s n express b).ks = fusesOf s.ks := by
  unfold createOp
  (try dsimp only)
  repeat' split
  all_goals (first | done | (simp [apply_ite (fun x : State => fusesOf x.ks)]; done) | rfl | (simp; rfl) | (refine foldl_fuses _ ?_ _ _; intro a x; dsimp only; repeat' split; all_goals (first | done | simp | rfl)))

@[simp] theorem finishMessage_fuses (s : State) (n : Nat) (ok : Bool) : fusesOf (finishMessage s n ok).ks = fusesOf s.ks := by
  unfold finishMessage
  (try dsimp only)
  repeat' split
  all_goals (first | done | (simp [apply_ite (fun x : State => fusesOf x.ks)]; done) | rfl | (simp; rfl) | (refine foldl_fuses _ ?_ _ _; intro a x; dsimp only; repeat' split; all_goals (first | done | simp | rfl)))

@[simp] theorem linkReset_fuses (s : State) (link : Nat) : fusesOf (linkReset s link).ks = fusesOf s.ks := by
  unfold linkReset
  (try dsimp only)
  repeat' split
  all_goals (first | done | (simp [apply_ite (fun x : State => fusesOf x.ks)]; done) | rfl | (simp; rfl) | (refine foldl_fuses _ ?_ _ _; intro a x; dsimp only; repeat' split; all_goals (first | done | simp | rfl)))

@[simp] theorem negotiate_fuses (s : State) (link : Nat) : fusesOf (negotiate s link).ks = fusesOf s.ks := by
  unfold negotiate
  (try dsimp only)
  repeat' split
  all_goals (first | done | (simp [apply_ite (fun x : State => fusesOf x.ks)]; done) | rfl | (simp; rfl) | (refine foldl_fuses _ ?_ _ _; intro a x; dsimp only; repeat' split; all_goals (first | done | simp | rfl)))

@[simp] theorem tickClock_fuses (s : State) : fusesOf (tickClock s).ks = fusesOf s.ks := by
  unfold tickClock
  (try dsimp only)
  repeat' split
  all_goals (first | done | (simp [apply_ite (fun x : State => fusesOf x.ks)]; done) | rfl | (simp; rfl) | (refine foldl_fuses _ ?_ _ _; intro a x; dsimp only; repeat' split; all_goals (first | done | simp | rfl)))

@[simp] theorem broadcast_fuses (s : State) (c : CounterChange) : fusesOf (broadcast s c).ks = fusesOf s.ks := by
  unfold broadcast
  (try dsimp only)
  repeat' split
  all_goals (first | done | (simp [apply_ite (fun x : State => fusesOf x.ks)]; done) | rfl | (simp; rfl) | (refine foldl_fuses _ ?_ _ _; intro a x; dsimp only; repeat' split; all_goals (first | done | simp | rfl)))

@[simp] theorem applyChange_fuses (s : State) (c : CounterChange) : fusesOf (applyChange s c).ks = fusesOf s.ks := by
  cases c <;> (unfold applyChange; (try dsimp only); repeat' split) <;> first | rfl | simp

@[simp] theorem elect_fuses (s : State) : fusesOf (elect s).ks = fusesOf s.ks := by
  unfold elect
  (try dsimp only)
  repeat' split
  all_goals (first | done | (simp [apply_ite (fun x : State => fusesOf x.ks)]; done) | rfl | (simp; rfl) | (refine foldl_fuses _ ?_ _ _; intro a x; dsimp only; repeat' split; all_goals (first | done | simp | rfl)))

@[simp] theorem sourceLoss_fuses (s : State) : fusesOf (sourceLoss s).ks = fusesOf s.ks := by
  unfold sourceLoss
  (try dsimp only)
  repeat' split
  all_goals (first | done | (simp [apply_ite (fun x : State => fusesOf x.ks)]; done) | rfl | (simp; rfl) | (refine foldl_fuses _ ?_ _ _; intro a x; dsimp only; repeat' split; all_goals (first | done | simp | rfl)))

@[simp] theorem showTheta_fuses (s : State) (th : Int) : fusesOf (showTheta s th).ks = fusesOf s.ks := by
  unfold showTheta
  (try dsimp only)
  repeat' split
  all_goals (first | done | (simp [apply_ite (fun x : State => fusesOf x.ks)]; done) | rfl | (simp; rfl) | (refine foldl_fuses _ ?_ _ _; intro a x; dsimp only; repeat' split; all_goals (first | done | simp | rfl)))

@[simp] theorem lockedBy_fuses (s : State) (th : Int) : fusesOf (lockedBy s th).ks = fusesOf s.ks := by
  unfold lockedBy
  (try dsimp only)
  repeat' split
  all_goals (first | done | (simp [apply_ite (fun x : State => fusesOf x.ks)]; done) | rfl | (simp; rfl) | (refine foldl_fuses _ ?_ _ _; intro a x; dsimp only; repeat' split; all_goals (first | done | simp | rfl)))

@[simp] theorem raiseStep_fuses (s : State) (th : Int) : fusesOf (raiseStep s th).ks = fusesOf s.ks := by
  unfold raiseStep
  (try dsimp only)
  repeat' split
  all_goals (first | done | (simp [apply_ite (fun x : State => fusesOf x.ks)]; done) | rfl | (simp; rfl) | (refine foldl_fuses _ ?_ _ _; intro a x; dsimp only; repeat' split; all_goals (first | done | simp | rfl)))

@[simp] theorem endSlew_fuses (s : State) : fusesOf (endSlew s).ks = fusesOf s.ks := by
  unfold endSlew
  (try dsimp only)
  repeat' split
  all_goals (first | done | (simp [apply_ite (fun x : State => fusesOf x.ks)]; done) | rfl | (simp; rfl) | (refine foldl_fuses _ ?_ _ _; intro a x; dsimp only; repeat' split; all_goals (first | done | simp | rfl)))

@[simp] theorem correct_fuses (s : State) (root : Bool) (th : Int) (re : Epoch) : fusesOf (correct s root th re).ks = fusesOf s.ks := by
  unfold correct
  (try dsimp only)
  repeat' split
  all_goals (first | done | (simp [apply_ite (fun x : State => fusesOf x.ks)]; done) | rfl | (simp; rfl) | (refine foldl_fuses _ ?_ _ _; intro a x; dsimp only; repeat' split; all_goals (first | done | simp | rfl)))

@[simp] theorem beginEpoch_fuses (s : State) : fusesOf (beginEpoch s).ks = fusesOf s.ks := by
  unfold beginEpoch
  (try dsimp only)
  repeat' split
  all_goals (first | done | (simp [apply_ite (fun x : State => fusesOf x.ks)]; done) | rfl | (simp; rfl) | (refine foldl_fuses _ ?_ _ _; intro a x; dsimp only; repeat' split; all_goals (first | done | simp | rfl)))

@[simp] theorem takeEpoch_fuses (s : State) (tlv : List Byte) : fusesOf (takeEpoch s tlv).ks = fusesOf s.ks := by
  unfold takeEpoch
  (try dsimp only)
  repeat' split
  all_goals (first | done | (simp [apply_ite (fun x : State => fusesOf x.ks)]; done) | rfl | (simp; rfl) | (refine foldl_fuses _ ?_ _ _; intro a x; dsimp only; repeat' split; all_goals (first | done | simp | rfl)))

@[simp] theorem setGo_fuses (s : State) : fusesOf (setGo s).ks = fusesOf s.ks := by
  unfold setGo
  (try dsimp only)
  repeat' split
  all_goals (first | done | (simp [apply_ite (fun x : State => fusesOf x.ks)]; done) | rfl | (simp; rfl) | (refine foldl_fuses _ ?_ _ _; intro a x; dsimp only; repeat' split; all_goals (first | done | simp | rfl)))

@[simp] theorem recordCdc_fuses (s : State) (die : Nat) (dom : Nat) : fusesOf (recordCdc s die dom).ks = fusesOf s.ks := by
  unfold recordCdc
  (try dsimp only)
  repeat' split
  all_goals (first | done | (simp [apply_ite (fun x : State => fusesOf x.ks)]; done) | rfl | (simp; rfl) | (refine foldl_fuses _ ?_ _ _; intro a x; dsimp only; repeat' split; all_goals (first | done | simp | rfl)))

@[simp] theorem powerLoss_fuses (s : State) : fusesOf (powerLoss s).ks = fusesOf s.ks := by
  unfold powerLoss; rw [setFlag_ks]; rfl

@[simp] theorem setN_fuses (s : State) (n : Nat) : fusesOf (setN s n).ks = fusesOf s.ks := by
  unfold setN
  (try dsimp only)
  repeat' split
  all_goals (first | done | (simp [apply_ite (fun x : State => fusesOf x.ks)]; done) | rfl | (simp; rfl) | (refine foldl_fuses _ ?_ _ _; intro a x; dsimp only; repeat' split; all_goals (first | done | simp | rfl)))

@[simp] theorem clkDone_fuses (s : State) : fusesOf (clkDone s).ks = fusesOf s.ks := by
  unfold clkDone
  (try dsimp only)
  repeat' split
  all_goals (first | done | (simp [apply_ite (fun x : State => fusesOf x.ks)]; done) | rfl | (simp; rfl) | (refine foldl_fuses _ ?_ _ _; intro a x; dsimp only; repeat' split; all_goals (first | done | simp | rfl)))

@[simp] theorem recordTemp_fuses (s : State) (i : Nat) (tj hbm : Nat) : fusesOf (recordTemp s i tj hbm).ks = fusesOf s.ks := by
  unfold recordTemp
  (try dsimp only)
  repeat' split
  all_goals (first | done | (simp [apply_ite (fun x : State => fusesOf x.ks)]; done) | rfl | (simp; rfl) | (refine foldl_fuses _ ?_ _ _; intro a x; dsimp only; repeat' split; all_goals (first | done | simp | rfl)))

@[simp] theorem thermSuspect_fuses (s : State) (d tj hbm : Nat) : fusesOf (thermSuspect s d tj hbm).ks = fusesOf s.ks := by
  unfold thermSuspect
  (try dsimp only)
  repeat' split
  all_goals (first | done | (simp [apply_ite (fun x : State => fusesOf x.ks)]; done) | rfl | (simp; rfl) | (refine foldl_fuses _ ?_ _ _; intro a x; dsimp only; repeat' split; all_goals (first | done | simp | rfl)))

@[simp] theorem recordSample_fuses (s : State) (x : PwrSample) : fusesOf (recordSample s x).ks = fusesOf s.ks := by
  unfold recordSample
  (try dsimp only)
  repeat' split
  all_goals (first | done | (simp [apply_ite (fun x : State => fusesOf x.ks)]; done) | rfl | (simp; rfl) | (refine foldl_fuses _ ?_ _ _; intro a x; dsimp only; repeat' split; all_goals (first | done | simp | rfl)))

@[simp] theorem fastClamp_fuses (s : State) (cause : Nat) : fusesOf (fastClamp s cause).ks = fusesOf s.ks := by
  unfold fastClamp
  (try dsimp only)
  repeat' split
  all_goals (first | done | (simp [apply_ite (fun x : State => fusesOf x.ks)]; done) | rfl | (simp; rfl) | (refine foldl_fuses _ ?_ _ _; intro a x; dsimp only; repeat' split; all_goals (first | done | simp | rfl)))

@[simp] theorem fenceOps_fuses (s : State) (d : Nat) : fusesOf (fenceOps s d).ks = fusesOf s.ks := by
  unfold fenceOps
  extract_lets hit s1
  have h1 : fusesOf s1.ks = fusesOf s.ks := by
    refine foldl_fuses _ ?_ _ _
    intro a x; dsimp only; repeat' split
    all_goals (first | rfl | simp)
  rw [foldl_fuses _ (by intro a x; simp) _ _, h1]

@[simp] theorem fenceNow_fuses (s : State) (d : Nat) (cause : FenceCause) : fusesOf (fenceNow s d cause).ks = fusesOf s.ks := by
  unfold fenceNow
  (try dsimp only)
  repeat' split
  all_goals (first | done | (simp [apply_ite (fun x : State => fusesOf x.ks)]; done) | rfl | (simp; rfl) | (refine foldl_fuses _ ?_ _ _; intro a x; dsimp only; repeat' split; all_goals (first | done | simp | rfl)))

@[simp] theorem fenceDie_fuses (s : State) (d : Nat) (cause : FenceCause) : fusesOf (fenceDie s d cause).ks = fusesOf s.ks := by
  unfold fenceDie
  (try dsimp only)
  repeat' split
  all_goals (first | done | (simp [apply_ite (fun x : State => fusesOf x.ks)]; done) | rfl | (simp; rfl) | (refine foldl_fuses _ ?_ _ _; intro a x; dsimp only; repeat' split; all_goals (first | done | simp | rfl)))

@[simp] theorem reviveDie_fuses (s : State) (d : Nat) (good : List Nat) : fusesOf (reviveDie s d good).ks = fusesOf s.ks := by
  unfold reviveDie
  (try dsimp only)
  repeat' split
  all_goals (first | done | (simp [apply_ite (fun x : State => fusesOf x.ks)]; done) | rfl | (simp; rfl) | (refine foldl_fuses _ ?_ _ _; intro a x; dsimp only; repeat' split; all_goals (first | done | simp | rfl)))

@[simp] theorem clocklessOps_fuses (s : State) (d : Nat) : fusesOf (clocklessOps s d).ks = fusesOf s.ks := by
  unfold clocklessOps
  (try dsimp only)
  repeat' split
  all_goals (first | done | (simp [apply_ite (fun x : State => fusesOf x.ks)]; done) | rfl | (simp; rfl) | (refine foldl_fuses _ ?_ _ _; intro a x; dsimp only; repeat' split; all_goals (first | done | simp | rfl)))

@[simp] theorem domainOutcome_fuses (s : State) (die : Fin 17) (dom : Nat) : fusesOf (domainOutcome s die dom).ks = fusesOf s.ks := by
  unfold domainOutcome
  (try dsimp only)
  repeat' split
  all_goals (first | done | (simp [apply_ite (fun x : State => fusesOf x.ks)]; done) | rfl | (simp; rfl) | (refine foldl_fuses _ ?_ _ _; intro a x; dsimp only; repeat' split; all_goals (first | done | simp | rfl)))

@[simp] theorem writeBank_fuses (s : State) (typ : Nat) (b : List Byte) : fusesOf (writeBank s typ b).ks = fusesOf s.ks := by
  unfold writeBank
  (try dsimp only)
  repeat' split
  all_goals (first | done | (simp [apply_ite (fun x : State => fusesOf x.ks)]; done) | rfl | (simp; rfl) | (refine foldl_fuses _ ?_ _ _; intro a x; dsimp only; repeat' split; all_goals (first | done | simp | rfl)))

@[simp] theorem writeDir_fuses (s : State) (typ : Nat) (b : List Byte) : fusesOf (writeDir s typ b).ks = fusesOf s.ks := by
  unfold writeDir
  (try dsimp only)
  repeat' split
  all_goals (first | done | (simp [apply_ite (fun x : State => fusesOf x.ks)]; done) | rfl | (simp; rfl) | (refine foldl_fuses _ ?_ _ _; intro a x; dsimp only; repeat' split; all_goals (first | done | simp | rfl)))

@[simp] theorem fwStat_fuses (s : State) (phase die typ : Nat) : fusesOf (fwStat s phase die typ).ks = fusesOf s.ks := by
  unfold fwStat
  (try dsimp only)
  repeat' split
  all_goals (first | done | (simp [apply_ite (fun x : State => fusesOf x.ks)]; done) | rfl | (simp; rfl) | (refine foldl_fuses _ ?_ _ _; intro a x; dsimp only; repeat' split; all_goals (first | done | simp | rfl)))

@[simp] theorem fwEnd_fuses (s : State) (j : FwJob) (code : BitVec 8) (written : Bool) : fusesOf (fwEnd s j code written).ks = fusesOf s.ks := by
  unfold fwEnd
  (try dsimp only)
  repeat' split
  all_goals (first | done | (simp [apply_ite (fun x : State => fusesOf x.ks)]; done) | rfl | (simp; rfl) | (refine foldl_fuses _ ?_ _ _; intro a x; dsimp only; repeat' split; all_goals (first | done | simp | rfl)))

@[simp] theorem fwLater_fuses (s : State) (j : FwJob) : fusesOf (fwLater s j).ks = fusesOf s.ks := by
  unfold fwLater
  (try dsimp only)
  repeat' split
  all_goals (first | done | (simp [apply_ite (fun x : State => fusesOf x.ks)]; done) | rfl | (simp; rfl) | (refine foldl_fuses _ ?_ _ _; intro a x; dsimp only; repeat' split; all_goals (first | done | simp | rfl)))

@[simp] theorem fwRun_fuses (s : State) (j : FwJob) : fusesOf (fwRun s j).ks = fusesOf s.ks := by
  unfold fwRun
  (try dsimp only)
  repeat' split
  all_goals (first | done | (simp [apply_ite (fun x : State => fusesOf x.ks)]; done) | rfl | (simp; rfl) | (refine foldl_fuses _ ?_ _ _; intro a x; dsimp only; repeat' split; all_goals (first | done | simp | rfl)))

@[simp] theorem rejoin_fuses (s : State) (d : Nat) : fusesOf (rejoin s d).ks = fusesOf s.ks := by
  unfold rejoin
  (try dsimp only)
  repeat' split
  all_goals (first | done | (simp [apply_ite (fun x : State => fusesOf x.ks)]; done) | rfl | (simp; rfl) | (refine foldl_fuses _ ?_ _ _; intro a x; dsimp only; repeat' split; all_goals (first | done | simp | rfl)))

@[simp] theorem rollStep_fuses (s : State) (j : FwJob) (fails : List PT) : fusesOf (rollStep s j fails).ks = fusesOf s.ks := by
  unfold rollStep
  (try dsimp only)
  repeat' split
  all_goals (first | done | (simp [apply_ite (fun x : State => fusesOf x.ks)]; done) | rfl | (simp; rfl) | (refine foldl_fuses _ ?_ _ _; intro a x; dsimp only; repeat' split; all_goals (first | done | simp | rfl)))

@[simp] theorem readCal_fuses (s : State) : fusesOf (readCal s).ks = fusesOf s.ks := by
  unfold readCal
  (try dsimp only)
  repeat' split
  all_goals (first | done | (simp [apply_ite (fun x : State => fusesOf x.ks)]; done) | rfl | (simp; rfl) | (refine foldl_fuses _ ?_ _ _; intro a x; dsimp only; repeat' split; all_goals (first | done | simp | rfl)))

@[simp] theorem readDir_fuses (s : State) (octal : Bool) : fusesOf (readDir s octal).ks = fusesOf s.ks := by
  unfold readDir
  (try dsimp only)
  repeat' split
  all_goals (first | done | (simp [apply_ite (fun x : State => fusesOf x.ks)]; done) | rfl | (simp; rfl) | (refine foldl_fuses _ ?_ _ _; intro a x; dsimp only; repeat' split; all_goals (first | done | simp | rfl)))

@[simp] theorem loadFirst_fuses (s : State) (octal : Bool) : fusesOf (loadFirst s octal).2.2.ks = fusesOf s.ks := by
  unfold loadFirst
  (try dsimp only)
  repeat' split
  all_goals (first | done | (simp [apply_ite (fun x : State => fusesOf x.ks)]; done) | rfl | (simp; rfl) | (refine foldl_fuses _ ?_ _ _; intro a x; dsimp only; repeat' split; all_goals (first | done | simp | rfl)))

@[simp] theorem stamp_fuses (s : State) (i : Nat) : fusesOf (stamp s i).ks = fusesOf s.ks := by
  unfold stamp
  (try dsimp only)
  repeat' split
  all_goals (first | done | (simp [apply_ite (fun x : State => fusesOf x.ks)]; done) | rfl | (simp; rfl) | (refine foldl_fuses _ ?_ _ _; intro a x; dsimp only; repeat' split; all_goals (first | done | simp | rfl)))

@[simp] theorem loadLater_fuses (s : State) (t : Nat) : fusesOf ((loadLater s t).2).ks = fusesOf s.ks := by
  have hb := loadBase_fuses s t
  unfold loadLater
  split
  · next h => rw [h] at hb; exact hb
  · next h => rw [h] at hb; split <;> simp [← hb]

@[simp] theorem bootFence_fuses (s : State) (d : Nat) : fusesOf (bootFence s d).ks = fusesOf s.ks := by
  unfold bootFence
  (try dsimp only)
  repeat' split
  all_goals (first | done | (simp [apply_ite (fun x : State => fusesOf x.ks)]; done) | rfl | (simp; rfl) | (refine foldl_fuses _ ?_ _ _; intro a x; dsimp only; repeat' split; all_goals (first | done | simp | rfl)))

@[simp] theorem dieStepB_fuses (s : State) (d : Nat) (bad : Bool) (fails : List PT) : fusesOf (dieStepB s d bad fails).ks = fusesOf s.ks := by
  unfold dieStepB
  (try dsimp only)
  repeat' split
  all_goals (first | done | (simp [apply_ite (fun x : State => fusesOf x.ks)]; done) | rfl | (simp; rfl) | (refine foldl_fuses _ ?_ _ _; intro a x; dsimp only; repeat' split; all_goals (first | done | simp | rfl)))

@[simp] theorem enterB_fuses (s : State) : fusesOf (enterB s).ks = fusesOf s.ks := by
  unfold enterB
  (try dsimp only)
  repeat' split
  all_goals (first | done | (simp [apply_ite (fun x : State => fusesOf x.ks)]; done) | rfl | (simp; rfl) | (refine foldl_fuses _ ?_ _ _; intro a x; dsimp only; repeat' split; all_goals (first | done | simp | rfl)))

@[simp] theorem fillDie_fuses (s : State) (d : Nat) (fails : List PT) : fusesOf (fillDie s d fails).ks = fusesOf s.ks := by
  unfold fillDie
  (try dsimp only)
  repeat' split
  all_goals (first | done | (simp [apply_ite (fun x : State => fusesOf x.ks)]; done) | rfl | (simp; rfl) | (refine foldl_fuses _ ?_ _ _; intro a x; dsimp only; repeat' split; all_goals (first | done | simp | rfl)))

@[simp] theorem plumbAdd_fuses (s : State) (d : Nat) (q : PlumbRun) (ab ba : List Int) : fusesOf (plumbAdd s d q ab ba).ks = fusesOf s.ks := by
  unfold plumbAdd
  (try dsimp only)
  repeat' split
  all_goals (first | done | (simp [apply_ite (fun x : State => fusesOf x.ks)]; done) | rfl | (simp; rfl) | (refine foldl_fuses _ ?_ _ _; intro a x; dsimp only; repeat' split; all_goals (first | done | simp | rfl)))

@[simp] theorem clearRead_fuses (s : State) (k : Nat) : fusesOf (clearRead s k).ks = fusesOf s.ks := by
  unfold clearRead
  (try dsimp only)
  repeat' split
  all_goals (first | done | (simp [apply_ite (fun x : State => fusesOf x.ks)]; done) | rfl | (simp; rfl) | (refine foldl_fuses _ ?_ _ _; intro a x; dsimp only; repeat' split; all_goals (first | done | simp | rfl)))

@[simp] theorem putReg_fuses (s : State) (k : Nat) (v : W32) : fusesOf (putReg s k v).ks = fusesOf s.ks := by
  unfold putReg
  (try dsimp only)
  repeat' split
  all_goals (first | done | (simp [apply_ite (fun x : State => fusesOf x.ks)]; done) | rfl | (simp; rfl) | (refine foldl_fuses _ ?_ _ _; intro a x; dsimp only; repeat' split; all_goals (first | done | simp | rfl)))

@[simp] theorem writeTcCtrl_fuses (s : State) (n : Nat) (v : W32) : fusesOf (writeTcCtrl s n v).ks = fusesOf s.ks := by
  unfold writeTcCtrl
  (try dsimp only)
  repeat' split
  all_goals (first | done | (simp [apply_ite (fun x : State => fusesOf x.ks)]; done) | rfl | (simp; rfl) | (refine foldl_fuses _ ?_ _ _; intro a x; dsimp only; repeat' split; all_goals (first | done | simp | rfl)))

@[simp] theorem writeWeirCap_fuses (s : State) (n : Nat) (v : W32) : fusesOf (writeWeirCap s n v).ks = fusesOf s.ks := by
  unfold writeWeirCap
  (try dsimp only)
  repeat' split
  all_goals (first | done | (simp [apply_ite (fun x : State => fusesOf x.ks)]; done) | rfl | (simp; rfl) | (refine foldl_fuses _ ?_ _ _; intro a x; dsimp only; repeat' split; all_goals (first | done | simp | rfl)))

@[simp] theorem writeTc_fuses (s : State) (n o : Nat) (v : W32) : fusesOf (writeTc s n o v).ks = fusesOf s.ks := by
  unfold writeTc
  (try dsimp only)
  repeat' split
  all_goals (first | done | (simp [apply_ite (fun x : State => fusesOf x.ks)]; done) | rfl | (simp; rfl) | (refine foldl_fuses _ ?_ _ _; intro a x; dsimp only; repeat' split; all_goals (first | done | simp | rfl)))

@[simp] theorem writeVlCtrl_fuses (s : State) (d : Nat) (v : W32) : fusesOf (writeVlCtrl s d v).ks = fusesOf s.ks := by
  unfold writeVlCtrl
  (try dsimp only)
  repeat' split
  all_goals (first | done | (simp [apply_ite (fun x : State => fusesOf x.ks)]; done) | rfl | (simp; rfl) | (refine foldl_fuses _ ?_ _ _; intro a x; dsimp only; repeat' split; all_goals (first | done | simp | rfl)))

@[simp] theorem writeBitslip_fuses (s : State) (d : Nat) (v : W32) : fusesOf (writeBitslip s d v).ks = fusesOf s.ks := by
  unfold writeBitslip
  (try dsimp only)
  repeat' split
  all_goals (first | done | (simp [apply_ite (fun x : State => fusesOf x.ks)]; done) | rfl | (simp; rfl) | (refine foldl_fuses _ ?_ _ _; intro a x; dsimp only; repeat' split; all_goals (first | done | simp | rfl)))

@[simp] theorem writeClkdiv_fuses (s : State) (d : Nat) (v : W32) : fusesOf (writeClkdiv s d v).ks = fusesOf s.ks := by
  unfold writeClkdiv
  (try dsimp only)
  repeat' split
  all_goals (first | done | (simp [apply_ite (fun x : State => fusesOf x.ks)]; done) | rfl | (simp; rfl) | (refine foldl_fuses _ ?_ _ _; intro a x; dsimp only; repeat' split; all_goals (first | done | simp | rfl)))

@[simp] theorem writeDie_fuses (s : State) (d o : Nat) (v : W32) : fusesOf (writeDie s d o v).ks = fusesOf s.ks := by
  unfold writeDie
  (try dsimp only)
  repeat' split
  all_goals (first | done | (simp [apply_ite (fun x : State => fusesOf x.ks)]; done) | rfl | (simp; rfl) | (refine foldl_fuses _ ?_ _ _; intro a x; dsimp only; repeat' split; all_goals (first | done | simp | rfl)))

@[simp] theorem writeSeq_fuses (s : State) (d o : Nat) (v : W32) : fusesOf (writeSeq s d o v).ks = fusesOf s.ks := by
  unfold writeSeq
  (try dsimp only)
  repeat' split
  all_goals (first | done | (simp [apply_ite (fun x : State => fusesOf x.ks)]; done) | rfl | (simp; rfl) | (refine foldl_fuses _ ?_ _ _; intro a x; dsimp only; repeat' split; all_goals (first | done | simp | rfl)))

@[simp] theorem wideReq_fuses (s : State) (req : Nat) : fusesOf (wideReq s req).ks = fusesOf s.ks := by
  unfold wideReq
  (try dsimp only)
  repeat' split
  all_goals (first | done | (simp [apply_ite (fun x : State => fusesOf x.ks)]; done) | rfl | (simp; rfl) | (refine foldl_fuses _ ?_ _ _; intro a x; dsimp only; repeat' split; all_goals (first | done | simp | rfl)))

@[simp] theorem writeOwn_fuses (s : State) (req o : Nat) (v : W32) : fusesOf (writeOwn s req o v).ks = fusesOf s.ks := by
  unfold writeOwn
  (try dsimp only)
  repeat' split
  all_goals (first | done | (simp [apply_ite (fun x : State => fusesOf x.ks)]; done) | rfl | (simp; rfl) | (refine foldl_fuses _ ?_ _ _; intro a x; dsimp only; repeat' split; all_goals (first | done | simp | rfl)))

@[simp] theorem busError_fuses (s : State) (req off : Nat) (write : Bool) (cause ind : Nat) : fusesOf (busError s req off write cause ind).ks = fusesOf s.ks := by
  unfold busError
  (try dsimp only)
  repeat' split
  all_goals (first | done | (simp [apply_ite (fun x : State => fusesOf x.ks)]; done) | rfl | (simp; rfl) | (refine foldl_fuses _ ?_ _ _; intro a x; dsimp only; repeat' split; all_goals (first | done | simp | rfl)))

end Sys2Proof.Machine
end

