-- ==== Sys2Proof/Laws/FramePending.lean ====
section
/-! SUPPORT. Frames: no operation of the model changes the queue of the commands that wait. -/

namespace Sys2Proof.Machine

@[simp] theorem foldl_pending {β : Type} (g : State → β → State) (h : ∀ a x, (g a x).pending = a.pending) (l : List β) (s : State) :
    (l.foldl g s).pending = s.pending := by
  induction l generalizing s with
  | nil => rfl
  | cons e r ih => exact (ih (g s e)).trans (h s e)

@[simp] theorem msix_pending (s : State) (link vec : Nat) : (msix s link vec).pending = s.pending := by
  unfold msix
  (try dsimp only)
  repeat' split
  all_goals (first | done | (simp [apply_ite (fun x : State => x.pending)]; done) | rfl | (simp; rfl) | (refine foldl_pending _ ?_ _ _; intro a x; dsimp only; repeat' split; all_goals (first | done | simp | rfl)))

@[simp] theorem moduleEvent_pending (s : State) (n : Nat) : (moduleEvent s n).pending = s.pending := by
  unfold moduleEvent
  (try dsimp only)
  repeat' split
  all_goals (first | done | (simp [apply_ite (fun x : State => x.pending)]; done) | rfl | (simp; rfl) | (refine foldl_pending _ ?_ _ _; intro a x; dsimp only; repeat' split; all_goals (first | done | simp | rfl)))

@[simp] theorem suspect_pending (s : State) (d src : Nat) : (suspect s d src).pending = s.pending := by
  unfold suspect
  (try dsimp only)
  repeat' split
  all_goals (first | done | (simp [apply_ite (fun x : State => x.pending)]; done) | rfl | (simp; rfl) | (refine foldl_pending _ ?_ _ _; intro a x; dsimp only; repeat' split; all_goals (first | done | simp | rfl)))

@[simp] theorem storeAt_pending (s : State) (d : Nat) (pl : Place) (x : Line) : (storeAt s d pl x).pending = s.pending := by
  unfold storeAt
  (try dsimp only)
  repeat' split
  all_goals (first | done | (simp [apply_ite (fun x : State => x.pending)]; done) | rfl | (simp; rfl) | (refine foldl_pending _ ?_ _ _; intro a x; dsimp only; repeat' split; all_goals (first | done | simp | rfl)))

@[simp] theorem dirtyWeights_pending (s : State) (pn addr : Nat) : (dirtyWeights s pn addr).pending = s.pending := by
  unfold dirtyWeights
  (try dsimp only)
  repeat' split
  all_goals (first | done | (simp [apply_ite (fun x : State => x.pending)]; done) | rfl | (simp; rfl) | (refine foldl_pending _ ?_ _ _; intro a x; dsimp only; repeat' split; all_goals (first | done | simp | rfl)))

@[simp] theorem writeLine_pending (s : State) (pn d addr : Nat) (x : Line) : ((writeLine s pn d addr x).2).pending = s.pending := by
  unfold writeLine
  (try dsimp only)
  repeat' split
  all_goals (first | done | (simp [apply_ite (fun x : State => x.pending)]; done) | rfl | (simp; rfl) | (refine foldl_pending _ ?_ _ _; intro a x; dsimp only; repeat' split; all_goals (first | done | simp | rfl)))

@[simp] theorem storeLines_pending (s : State) (pn d addr : Nat) (xs : List Line) : (storeLines s pn d addr xs).pending = s.pending := by
  induction xs generalizing s addr with
  | nil => rfl
  | cons x r ih => simp [storeLines, ih]

@[simp] theorem writeLines_pending (s : State) (pn d addr : Nat) (xs : List Line) : ((writeLines s pn d addr xs).2).pending = s.pending := by
  unfold writeLines
  (try dsimp only)
  repeat' split
  all_goals (first | done | (simp [apply_ite (fun x : State => x.pending)]; done) | rfl | (simp; rfl) | (refine foldl_pending _ ?_ _ _; intro a x; dsimp only; repeat' split; all_goals (first | done | simp | rfl)))

@[simp] theorem hostWrite_pending (s : State) (a : Nat) (b : List Byte) : (hostWrite s a b).pending = s.pending := by
  unfold hostWrite
  (try dsimp only)
  repeat' split
  all_goals (first | done | (simp [apply_ite (fun x : State => x.pending)]; done) | rfl | (simp; rfl) | (refine foldl_pending _ ?_ _ _; intro a x; dsimp only; repeat' split; all_goals (first | done | simp | rfl)))

@[simp] theorem sectorErase_pending (s : State) (sector : Nat) : (sectorErase s sector).pending = s.pending := by
  unfold sectorErase
  (try dsimp only)
  repeat' split
  all_goals (first | done | (simp [apply_ite (fun x : State => x.pending)]; done) | rfl | (simp; rfl) | (refine foldl_pending _ ?_ _ _; intro a x; dsimp only; repeat' split; all_goals (first | done | simp | rfl)))

@[simp] theorem pageProgram_pending (s : State) (a : Nat) (b : List Byte) : (pageProgram s a b).pending = s.pending := by
  unfold pageProgram
  (try dsimp only)
  repeat' split
  all_goals (first | done | (simp [apply_ite (fun x : State => x.pending)]; done) | rfl | (simp; rfl) | (refine foldl_pending _ ?_ _ _; intro a x; dsimp only; repeat' split; all_goals (first | done | simp | rfl)))

@[simp] theorem flashWrite_pending (s : State) (a : Nat) (b : List Byte) : (flashWrite s a b).pending = s.pending := by
  unfold flashWrite
  (try dsimp only)
  repeat' split
  all_goals (first | done | (simp [apply_ite (fun x : State => x.pending)]; done) | rfl | (simp; rfl) | (refine foldl_pending _ ?_ _ _; intro a x; dsimp only; repeat' split; all_goals (first | done | simp | rfl)))

@[simp] theorem faultSig_pending (s : State) (a : FaultArgs) : (faultSig s a).pending = s.pending := by
  unfold faultSig
  (try dsimp only)
  repeat' split
  all_goals (first | done | (simp [apply_ite (fun x : State => x.pending)]; done) | rfl | (simp; rfl) | (refine foldl_pending _ ?_ _ _; intro a x; dsimp only; repeat' split; all_goals (first | done | simp | rfl)))

@[simp] theorem sendCodeword_pending (s : State) (d g : Nat) (frame : Nat) : (sendCodeword s d g frame).pending = s.pending := by
  unfold sendCodeword
  (try dsimp only)
  repeat' split
  all_goals (first | done | (simp [apply_ite (fun x : State => x.pending)]; done) | rfl | (simp; rfl) | (refine foldl_pending _ ?_ _ _; intro a x; dsimp only; repeat' split; all_goals (first | done | simp | rfl)))

@[simp] theorem sendNull_pending (s : State) (d : Nat) : (sendNull s d).pending = s.pending := by
  unfold sendNull
  (try dsimp only)
  repeat' split
  all_goals (first | done | (simp [apply_ite (fun x : State => x.pending)]; done) | rfl | (simp; rfl) | (refine foldl_pending _ ?_ _ _; intro a x; dsimp only; repeat' split; all_goals (first | done | simp | rfl)))

@[simp] theorem resendFrame_pending (s : State) (d i : Nat) (k : Kept) : (resendFrame s d i k).pending = s.pending := by
  unfold resendFrame
  (try dsimp only)
  repeat' split
  all_goals (first | done | (simp [apply_ite (fun x : State => x.pending)]; done) | rfl | (simp; rfl) | (refine foldl_pending _ ?_ _ _; intro a x; dsimp only; repeat' split; all_goals (first | done | simp | rfl)))

@[simp] theorem sendNew_pending (s : State) (d : Nat) : (sendNew s d).pending = s.pending := by
  unfold sendNew
  (try dsimp only)
  repeat' split
  all_goals (first | done | (simp [apply_ite (fun x : State => x.pending)]; done) | rfl | (simp; rfl) | (refine foldl_pending _ ?_ _ _; intro a x; dsimp only; repeat' split; all_goals (first | done | simp | rfl)))

@[simp] theorem sendFrame_pending (s : State) (d : Nat) : (sendFrame s d).pending = s.pending := by
  unfold sendFrame
  (try dsimp only)
  repeat' split
  all_goals (first | done | (simp [apply_ite (fun x : State => x.pending)]; done) | rfl | (simp; rfl) | (refine foldl_pending _ ?_ _ _; intro a x; dsimp only; repeat' split; all_goals (first | done | simp | rfl)))

@[simp] theorem countErrors_pending (s : State) (d g : Nat) (got fixed : List Nat) : (countErrors s d g got fixed).pending = s.pending := by
  unfold countErrors
  refine foldl_pending _ ?_ _ _
  intro a x; dsimp only; split <;> first | rfl | simp

@[simp] theorem startRecovery_pending (s : State) (d : Nat) : (startRecovery s d).pending = s.pending := by
  unfold startRecovery
  (try dsimp only)
  repeat' split
  all_goals (first | done | (simp [apply_ite (fun x : State => x.pending)]; done) | rfl | (simp; rfl) | (refine foldl_pending _ ?_ _ _; intro a x; dsimp only; repeat' split; all_goals (first | done | simp | rfl)))

@[simp] theorem startReplay_pending (s : State) (d : Nat) : (startReplay s d).pending = s.pending := by
  unfold startReplay
  (try dsimp only)
  repeat' split
  all_goals (first | done | (simp [apply_ite (fun x : State => x.pending)]; done) | rfl | (simp; rfl) | (refine foldl_pending _ ?_ _ _; intro a x; dsimp only; repeat' split; all_goals (first | done | simp | rfl)))

@[simp] theorem takeAck_pending (s : State) (d : Nat) (f : Frame) : (takeAck s d f).pending = s.pending := by
  unfold takeAck
  (try dsimp only)
  repeat' split
  all_goals (first | done | (simp [apply_ite (fun x : State => x.pending)]; done) | rfl | (simp; rfl) | (refine foldl_pending _ ?_ _ _; intro a x; dsimp only; repeat' split; all_goals (first | done | simp | rfl)))

@[simp] theorem outFlits_pending (s : State) (d vl n : Nat) : (outFlits s d vl n).pending = s.pending := by
  unfold outFlits
  (try dsimp only)
  repeat' split
  all_goals (first | done | (simp [apply_ite (fun x : State => x.pending)]; done) | rfl | (simp; rfl) | (refine foldl_pending _ ?_ _ _; intro a x; dsimp only; repeat' split; all_goals (first | done | simp | rfl)))

@[simp] theorem dropUnlistedN_pending (n d vl : Nat) (s : State) : (dropUnlistedN n d vl s).pending = s.pending := by
  induction n generalizing s with
  | zero => rfl
  | succ n ih =>
    unfold dropUnlistedN; (try dsimp only); repeat' split
    all_goals (first | rfl | simp [ih])

@[simp] theorem dropUnlisted_pending (s : State) (d vl : Nat) : (dropUnlisted s d vl).pending = s.pending := by
  unfold dropUnlisted
  (try dsimp only)
  repeat' split
  all_goals (first | done | (simp [apply_ite (fun x : State => x.pending)]; done) | rfl | (simp; rfl) | (refine foldl_pending _ ?_ _ _; intro a x; dsimp only; repeat' split; all_goals (first | done | simp | rfl)))

@[simp] theorem deliver_pending (s : State) (d : Nat) (f : Frame) : (deliver s d f).pending = s.pending := by
  unfold deliver
  exact (foldl_pending _ (fun a x => dropUnlisted_pending a d x) _ _).trans (by simp)

@[simp] theorem discardFrame_pending (s : State) (d : Nat) (missing : Bool) : (discardFrame s d missing).pending = s.pending := by
  unfold discardFrame
  (try dsimp only)
  repeat' split
  all_goals (first | done | (simp [apply_ite (fun x : State => x.pending)]; done) | rfl | (simp; rfl) | (refine foldl_pending _ ?_ _ _; intro a x; dsimp only; repeat' split; all_goals (first | done | simp | rfl)))

@[simp] theorem takeFrame_pending (s : State) (d : Nat) (f : Frame) : (takeFrame s d f).pending = s.pending := by
  unfold takeFrame
  (try dsimp only)
  repeat' split
  all_goals (first | done | (simp [apply_ite (fun x : State => x.pending)]; done) | rfl | (simp; rfl) | (refine foldl_pending _ ?_ _ _; intro a x; dsimp only; repeat' split; all_goals (first | done | simp | rfl)))

@[simp] theorem huntFrame_pending (s : State) (d g : Nat) (good : Bool) : (huntFrame s d g good).pending = s.pending := by
  unfold huntFrame
  (try dsimp only)
  repeat' split
  all_goals (first | done | (simp [apply_ite (fun x : State => x.pending)]; done) | rfl | (simp; rfl) | (refine foldl_pending _ ?_ _ _; intro a x; dsimp only; repeat' split; all_goals (first | done | simp | rfl)))

@[simp] theorem popFlits_pending (s : State) (d vl n : Nat) : (popFlits s d vl n).pending = s.pending := by
  unfold popFlits
  (try dsimp only)
  repeat' split
  all_goals (first | done | (simp [apply_ite (fun x : State => x.pending)]; done) | rfl | (simp; rfl) | (refine foldl_pending _ ?_ _ _; intro a x; dsimp only; repeat' split; all_goals (first | done | simp | rfl)))

@[simp] theorem beginTraining_pending (s : State) (d : Nat) (fast : Bool) (ph : PortPhase) : (beginTraining s d fast ph).pending = s.pending := by
  unfold beginTraining
  (try dsimp only)
  repeat' split
  all_goals (first | done | (simp [apply_ite (fun x : State => x.pending)]; done) | rfl | (simp; rfl) | (refine foldl_pending _ ?_ _ _; intro a x; dsimp only; repeat' split; all_goals (first | done | simp | rfl)))

@[simp] theorem retryTraining_pending (s : State) (d : Nat) : (retryTraining s d).pending = s.pending := by
  unfold retryTraining
  (try dsimp only)
  repeat' split
  all_goals (first | done | (simp [apply_ite (fun x : State => x.pending)]; done) | rfl | (simp; rfl) | (refine foldl_pending _ ?_ _ _; intro a x; dsimp only; repeat' split; all_goals (first | done | simp | rfl)))

@[simp] theorem mapLanes_pending (s : State) (d : Nat) : (mapLanes s d).pending = s.pending := by
  unfold mapLanes
  (try dsimp only)
  repeat' split
  all_goals (first | done | (simp [apply_ite (fun x : State => x.pending)]; done) | rfl | (simp; rfl) | (refine foldl_pending _ ?_ _ _; intro a x; dsimp only; repeat' split; all_goals (first | done | simp | rfl)))

@[simp] theorem compareVersions_pending (s : State) (d ver : Nat) : (compareVersions s d ver).pending = s.pending := by
  unfold compareVersions
  (try dsimp only)
  repeat' split
  all_goals (first | done | (simp [apply_ite (fun x : State => x.pending)]; done) | rfl | (simp; rfl) | (refine foldl_pending _ ?_ _ _; intro a x; dsimp only; repeat' split; all_goals (first | done | simp | rfl)))

@[simp] theorem seedLanes_pending (s : State) (d : Nat) : (seedLanes s d).pending = s.pending := by
  unfold seedLanes
  (try dsimp only)
  repeat' split
  all_goals (first | done | (simp [apply_ite (fun x : State => x.pending)]; done) | rfl | (simp; rfl) | (refine foldl_pending _ ?_ _ _; intro a x; dsimp only; repeat' split; all_goals (first | done | simp | rfl)))

@[simp] theorem trainAdvance_pending (s : State) (d : Nat) : (trainAdvance s d).pending = s.pending := by
  unfold trainAdvance
  (try dsimp only)
  repeat' split
  all_goals (first | done | (simp [apply_ite (fun x : State => x.pending)]; done) | rfl | (simp; rfl) | (refine foldl_pending _ ?_ _ _; intro a x; dsimp only; repeat' split; all_goals (first | done | simp | rfl)))

@[simp] theorem bitSlip_pending (s : State) (d : Nat) : (bitSlip s d).pending = s.pending := by
  unfold bitSlip
  (try dsimp only)
  repeat' split
  all_goals (first | done | (simp [apply_ite (fun x : State => x.pending)]; done) | rfl | (simp; rfl) | (refine foldl_pending _ ?_ _ _; intro a x; dsimp only; repeat' split; all_goals (first | done | simp | rfl)))

@[simp] theorem recovered_pending (s : State) (d : Nat) : (recovered s d).pending = s.pending := by
  unfold recovered
  (try dsimp only)
  repeat' split
  all_goals (first | done | (simp [apply_ite (fun x : State => x.pending)]; done) | rfl | (simp; rfl) | (refine foldl_pending _ ?_ _ _; intro a x; dsimp only; repeat' split; all_goals (first | done | simp | rfl)))

@[simp] theorem askLp_pending (s : State) (d st : Nat) : (askLp s d st).pending = s.pending := by
  unfold askLp
  (try dsimp only)
  repeat' split
  all_goals (first | done | (simp [apply_ite (fun x : State => x.pending)]; done) | rfl | (simp; rfl) | (refine foldl_pending _ ?_ _ _; intro a x; dsimp only; repeat' split; all_goals (first | done | simp | rfl)))

@[simp] theorem wakePort_pending (s : State) (d : Nat) (tone : Bool) : (wakePort s d tone).pending = s.pending := by
  unfold wakePort
  (try dsimp only)
  repeat' split
  all_goals (first | done | (simp [apply_ite (fun x : State => x.pending)]; done) | rfl | (simp; rfl) | (refine foldl_pending _ ?_ _ _; intro a x; dsimp only; repeat' split; all_goals (first | done | simp | rfl)))

@[simp] theorem startPlumb_pending (s : State) (d : Nat) (surveys : List Nat) : (startPlumb s d surveys).pending = s.pending := by
  unfold startPlumb
  (try dsimp only)
  repeat' split
  all_goals (first | done | (simp [apply_ite (fun x : State => x.pending)]; done) | rfl | (simp; rfl) | (refine foldl_pending _ ?_ _ _; intro a x; dsimp only; repeat' split; all_goals (first | done | simp | rfl)))

@[simp] theorem sendTs_pending (s : State) (d : Nat) : (sendTs s d).pending = s.pending := by
  unfold sendTs
  (try dsimp only)
  repeat' split
  all_goals (first | done | (simp [apply_ite (fun x : State => x.pending)]; done) | rfl | (simp; rfl) | (refine foldl_pending _ ?_ _ _; intro a x; dsimp only; repeat' split; all_goals (first | done | simp | rfl)))

@[simp] theorem queuePkt_pending (s : State) (d : Nat) (p : Pkt) : (queuePkt s d p).pending = s.pending := by
  unfold queuePkt
  (try dsimp only)
  repeat' split
  all_goals (first | done | (simp [apply_ite (fun x : State => x.pending)]; done) | rfl | (simp; rfl) | (refine foldl_pending _ ?_ _ _; intro a x; dsimp only; repeat' split; all_goals (first | done | simp | rfl)))

@[simp] theorem noRoute_pending (s : State) (d : Nat) : (noRoute s d).pending = s.pending := by
  unfold noRoute
  (try dsimp only)
  repeat' split
  all_goals (first | done | (simp [apply_ite (fun x : State => x.pending)]; done) | rfl | (simp; rfl) | (refine foldl_pending _ ?_ _ _; intro a x; dsimp only; repeat' split; all_goals (first | done | simp | rfl)))

@[simp] theorem sendMgmt_pending (s : State) (d : Nat) (body : List Byte) : (sendMgmt s d body).pending = s.pending := by
  unfold sendMgmt
  (try dsimp only)
  repeat' split
  all_goals (first | done | (simp [apply_ite (fun x : State => x.pending)]; done) | rfl | (simp; rfl) | (refine foldl_pending _ ?_ _ _; intro a x; dsimp only; repeat' split; all_goals (first | done | simp | rfl)))

@[simp] theorem stopTiles_pending (s : State) (k : Nat) (keep : Nat → Bool) : (stopTiles s k keep).pending = s.pending := by
  unfold stopTiles
  (try dsimp only)
  repeat' split
  all_goals (first | done | (simp [apply_ite (fun x : State => x.pending)]; done) | rfl | (simp; rfl) | (refine foldl_pending _ ?_ _ _; intro a x; dsimp only; repeat' split; all_goals (first | done | simp | rfl)))

@[simp] theorem foldFlags_pending (s : State) (k : Nat) : (foldFlags s k).pending = s.pending := by
  unfold foldFlags
  (try dsimp only)
  repeat' split
  all_goals (first | done | (simp [apply_ite (fun x : State => x.pending)]; done) | rfl | (simp; rfl) | (refine foldl_pending _ ?_ _ _; intro a x; dsimp only; repeat' split; all_goals (first | done | simp | rfl)))

@[simp] theorem endOp_pending (s : State) (k : Nat) (code : BitVec 8) (f : RecInfo → RecInfo) : (endOp s k code f).pending = s.pending := by
  unfold endOp
  (try dsimp only)
  repeat' split
  all_goals (first | done | (simp [apply_ite (fun x : State => x.pending)]; done) | rfl | (simp; rfl) | (refine foldl_pending _ ?_ _ _; intro a x; dsimp only; repeat' split; all_goals (first | done | simp | rfl)))

@[simp] theorem freeTiles_pending (s : State) (k : Nat) : (freeTiles s k).pending = s.pending := by
  unfold freeTiles
  (try dsimp only)
  repeat' split
  all_goals (first | done | (simp [apply_ite (fun x : State => x.pending)]; done) | rfl | (simp; rfl) | (refine foldl_pending _ ?_ _ _; intro a x; dsimp only; repeat' split; all_goals (first | done | simp | rfl)))

@[simp] theorem startOp_pending (s : State) (k d : Nat) : (startOp s k d).pending = s.pending := by
  unfold startOp
  (try dsimp only)
  repeat' split
  all_goals (first | done | (simp [apply_ite (fun x : State => x.pending)]; done) | rfl | (simp; rfl) | (refine foldl_pending _ ?_ _ _; intro a x; dsimp only; repeat' split; all_goals (first | done | simp | rfl)))

@[simp] theorem finishOp_pending (s : State) (k : Nat) : (finishOp s k).pending = s.pending := by
  unfold finishOp
  (try dsimp only)
  repeat' split
  all_goals (first | done | (simp [apply_ite (fun x : State => x.pending)]; done) | rfl | (simp; rfl) | (refine foldl_pending _ ?_ _ _; intro a x; dsimp only; repeat' split; all_goals (first | done | simp | rfl)))

@[simp] theorem completeOp_pending (s : State) (k : Nat) (code : BitVec 8) : (completeOp s k code).pending = s.pending := by
  unfold completeOp
  (try dsimp only)
  repeat' split
  all_goals (first | done | (simp [apply_ite (fun x : State => x.pending)]; done) | rfl | (simp; rfl) | (refine foldl_pending _ ?_ _ _; intro a x; dsimp only; repeat' split; all_goals (first | done | simp | rfl)))

@[simp] theorem endAddr_pending (s : State) (k : Nat) (code : BitVec 8) (addr d : Nat) : (endAddr s k code addr d).pending = s.pending := by
  unfold endAddr
  (try dsimp only)
  repeat' split
  all_goals (first | done | (simp [apply_ite (fun x : State => x.pending)]; done) | rfl | (simp; rfl) | (refine foldl_pending _ ?_ _ _; intro a x; dsimp only; repeat' split; all_goals (first | done | simp | rfl)))

@[simp] theorem opFlags_pending (s : State) (k : Nat) (f : FlagSet) : (opFlags s k f).pending = s.pending := by
  unfold opFlags
  (try dsimp only)
  repeat' split
  all_goals (first | done | (simp [apply_ite (fun x : State => x.pending)]; done) | rfl | (simp; rfl) | (refine foldl_pending _ ?_ _ _; intro a x; dsimp only; repeat' split; all_goals (first | done | simp | rfl)))

@[simp] theorem writeBytesFuel_pending (s : State) (pn d n a o : Nat) (b : List Byte) : ((writeBytesFuel s pn d n a o b).2).pending = s.pending := by
  induction n generalizing s a o b with
  | zero => rfl
  | succ n ih =>
    unfold writeBytesFuel; (try dsimp only); repeat' split
    all_goals (first | rfl | simp [ih])

@[simp] theorem writeBoth_pending (s : State) (pn d addr off : Nat) (b bm : List Byte) : ((writeBoth s pn d addr off b bm).2).pending = s.pending := by
  unfold writeBoth
  dsimp only
  split
  · split
    · simp
    · split <;> simp
  · rfl

@[simp] theorem writeBytes_pending (s : State) (pn d addr off : Nat) (b : List Byte) : ((writeBytes s pn d addr off b).2).pending = s.pending := by
  unfold writeBytes
  (try dsimp only)
  repeat' split
  all_goals (first | done | (simp [apply_ite (fun x : State => x.pending)]; done) | rfl | (simp; rfl) | (refine foldl_pending _ ?_ _ _; intro a x; dsimp only; repeat' split; all_goals (first | done | simp | rfl)))

@[simp] theorem addDest_pending (s : State) (k : Nat) (x : OutRange) : (addDest s k x).pending = s.pending := by
  unfold addDest
  (try dsimp only)
  repeat' split
  all_goals (first | done | (simp [apply_ite (fun x : State => x.pending)]; done) | rfl | (simp; rfl) | (refine foldl_pending _ ?_ _ _; intro a x; dsimp only; repeat' split; all_goals (first | done | simp | rfl)))

@[simp] theorem loosen_pending (s : State) (x : OutRange) : (loosen s x).pending = s.pending := by
  unfold loosen
  exact writeBytesFuel_pending ..

@[simp] theorem looseDests_pending (s : State) (k : Nat) : (looseDests s k).pending = s.pending := by
  unfold looseDests
  (try dsimp only)
  repeat' split
  all_goals (first | done | (simp [apply_ite (fun x : State => x.pending)]; done) | rfl | (simp; rfl) | (refine foldl_pending _ ?_ _ _; intro a x; dsimp only; repeat' split; all_goals (first | done | simp | rfl)))

@[simp] theorem modGroup_pending (s : State) (g : Nat) (f : Group → Group) : (modGroup s g f).pending = s.pending := by
  unfold modGroup
  (try dsimp only)
  repeat' split
  all_goals (first | done | (simp [apply_ite (fun x : State => x.pending)]; done) | rfl | (simp; rfl) | (refine foldl_pending _ ?_ _ _; intro a x; dsimp only; repeat' split; all_goals (first | done | simp | rfl)))

@[simp] theorem modStep_pending (s : State) (g step : Nat) (f : CStep → CStep) : (modStep s g step f).pending = s.pending := by
  unfold modStep
  (try dsimp only)
  repeat' split
  all_goals (first | done | (simp [apply_ite (fun x : State => x.pending)]; done) | rfl | (simp; rfl) | (refine foldl_pending _ ?_ _ _; intro a x; dsimp only; repeat' split; all_goals (first | done | simp | rfl)))

@[simp] theorem releaseRegions_pending (s : State) (g : Group) (st : Station) : (releaseRegions s g st).pending = s.pending := by
  unfold releaseRegions
  refine foldl_pending _ ?_ _ _
  intro a x; dsimp only; split <;> first | rfl | simp

@[simp] theorem dropStep_pending (s : State) (g step : Nat) : (dropStep s g step).pending = s.pending := by
  unfold dropStep
  (try dsimp only)
  repeat' split
  all_goals (first | done | (simp [apply_ite (fun x : State => x.pending)]; done) | rfl | (simp; rfl) | (refine foldl_pending _ ?_ _ _; intro a x; dsimp only; repeat' split; all_goals (first | done | simp | rfl)))

@[simp] theorem abortStep_pending (s : State) (g step : Nat) (code : BitVec 8) : (abortStep s g step code).pending = s.pending := by
  unfold abortStep
  (try dsimp only)
  repeat' split
  all_goals (first | done | (simp [apply_ite (fun x : State => x.pending)]; done) | rfl | (simp; rfl) | (refine foldl_pending _ ?_ _ _; intro a x; dsimp only; repeat' split; all_goals (first | done | simp | rfl)))

@[simp] theorem sendOn_pending (s : State) (g : Group) (origin : Nat) (body : List Byte) : (sendOn s g origin body).pending = s.pending := by
  unfold sendOn
  (try dsimp only)
  repeat' split
  all_goals (first | done | (simp [apply_ite (fun x : State => x.pending)]; done) | rfl | (simp; rfl) | (refine foldl_pending _ ?_ _ _; intro a x; dsimp only; repeat' split; all_goals (first | done | simp | rfl)))

@[simp] theorem applyVerdict_pending (s : State) (c : CStep) (v : Verdict) : (applyVerdict s c v).pending = s.pending := by
  unfold applyVerdict
  (try dsimp only)
  repeat' split
  all_goals (first | done | (simp [apply_ite (fun x : State => x.pending)]; done) | rfl | (simp; rfl) | (refine foldl_pending _ ?_ _ _; intro a x; dsimp only; repeat' split; all_goals (first | done | simp | rfl)))

@[simp] theorem judgeStep_pending (s : State) (g : Group) (c : CStep) (v : Verdict) : (judgeStep s g c v).pending = s.pending := by
  unfold judgeStep
  (try dsimp only)
  repeat' split
  all_goals (first | done | (simp [apply_ite (fun x : State => x.pending)]; done) | rfl | (simp; rfl) | (refine foldl_pending _ ?_ _ _; intro a x; dsimp only; repeat' split; all_goals (first | done | simp | rfl)))

@[simp] theorem endStep_pending (s : State) (gn step : Nat) (code : BitVec 8) : (endStep s gn step code).pending = s.pending := by
  unfold endStep
  (try dsimp only)
  repeat' split
  all_goals (first | done | (simp [apply_ite (fun x : State => x.pending)]; done) | rfl | (simp; rfl) | (refine foldl_pending _ ?_ _ _; intro a x; dsimp only; repeat' split; all_goals (first | done | simp | rfl)))

@[simp] theorem cancelStep_pending (s : State) (gn step : Nat) (code : BitVec 8) : (cancelStep s gn step code).pending = s.pending := by
  unfold cancelStep
  (try dsimp only)
  repeat' split
  all_goals (first | done | (simp [apply_ite (fun x : State => x.pending)]; done) | rfl | (simp; rfl) | (refine foldl_pending _ ?_ _ _; intro a x; dsimp only; repeat' split; all_goals (first | done | simp | rfl)))

@[simp] theorem cscFlag_pending (s : State) (g : Group) (bit : Nat) : (cscFlag s g bit).pending = s.pending := by
  unfold cscFlag
  (try dsimp only)
  repeat' split
  all_goals (first | done | (simp [apply_ite (fun x : State => x.pending)]; done) | rfl | (simp; rfl) | (refine foldl_pending _ ?_ _ _; intro a x; dsimp only; repeat' split; all_goals (first | done | simp | rfl)))

@[simp] theorem stale_pending (s : State) (d : Nat) : (stale s d).pending = s.pending := by
  unfold stale
  (try dsimp only)
  repeat' split
  all_goals (first | done | (simp [apply_ite (fun x : State => x.pending)]; done) | rfl | (simp; rfl) | (refine foldl_pending _ ?_ _ _; intro a x; dsimp only; repeat' split; all_goals (first | done | simp | rfl)))

@[simp] theorem failEpoch_pending (s : State) (gn : Nat) (lost : List Nat) : (failEpoch s gn lost).pending = s.pending := by
  unfold failEpoch
  (try dsimp only)
  repeat' split
  all_goals (first | done | (simp [apply_ite (fun x : State => x.pending)]; done) | rfl | (simp; rfl) | (refine foldl_pending _ ?_ _ _; intro a x; dsimp only; repeat' split; all_goals (first | done | simp | rfl)))

@[simp] theorem launchPiece_pending (s : State) (g : Group) (c : CStep) (p : Piece) : (launchPiece s g c p).pending = s.pending := by
  unfold launchPiece
  (try dsimp only)
  repeat' split
  all_goals (first | done | (simp [apply_ite (fun x : State => x.pending)]; done) | rfl | (simp; rfl) | (refine foldl_pending _ ?_ _ _; intro a x; dsimp only; repeat' split; all_goals (first | done | simp | rfl)))

@[simp] theorem answerPiece_pending (s : State) (g : Group) (c : CStep) (p : Piece) (kind : Byte) : (answerPiece s g c p kind).pending = s.pending := by
  unfold answerPiece
  (try dsimp only)
  repeat' split
  all_goals (first | done | (simp [apply_ite (fun x : State => x.pending)]; done) | rfl | (simp; rfl) | (refine foldl_pending _ ?_ _ _; intro a x; dsimp only; repeat' split; all_goals (first | done | simp | rfl)))

@[simp] theorem pieceBack_pending (s : State) (g : Group) (c : CStep) (k : Nat) (sat : Bool) : (pieceBack s g c k sat).pending = s.pending := by
  unfold pieceBack
  (try dsimp only)
  repeat' split
  all_goals (first | done | (simp [apply_ite (fun x : State => x.pending)]; done) | rfl | (simp; rfl) | (refine foldl_pending _ ?_ _ _; intro a x; dsimp only; repeat' split; all_goals (first | done | simp | rfl)))

@[simp] theorem takePiece_pending (s : State) (g : Group) (c : CStep) (st : Station) (p : Piece) : (takePiece s g c st p).pending = s.pending := by
  unfold takePiece
  (try dsimp only)
  repeat' split
  all_goals (first | done | (simp [apply_ite (fun x : State => x.pending)]; done) | rfl | (simp; rfl) | (refine foldl_pending _ ?_ _ _; intro a x; dsimp only; repeat' split; all_goals (first | done | simp | rfl)))

@[simp] theorem badPiece_pending (s : State) (g : Group) (c : CStep) (st : Station) (p : Piece) : (badPiece s g c st p).pending = s.pending := by
  unfold badPiece
  (try dsimp only)
  repeat' split
  all_goals (first | done | (simp [apply_ite (fun x : State => x.pending)]; done) | rfl | (simp; rfl) | (refine foldl_pending _ ?_ _ _; intro a x; dsimp only; repeat' split; all_goals (first | done | simp | rfl)))

@[simp] theorem writeResult_pending (s : State) (g : Group) (c : CStep) (pos : Nat) (st : Station) : ((writeResult s g c pos st).2).pending = s.pending := by
  unfold writeResult
  (try dsimp only)
  repeat' split
  all_goals (first | done | (simp [apply_ite (fun x : State => x.pending)]; done) | rfl | (simp; rfl) | (refine foldl_pending _ ?_ _ _; intro a x; dsimp only; repeat' split; all_goals (first | done | simp | rfl)))

@[simp] theorem completeStep_pending (s : State) (g : Group) (c : CStep) (ms : List Nat) : (completeStep s g c ms).pending = s.pending := by
  unfold completeStep
  (try dsimp only)
  repeat' split
  all_goals (first | done | (simp [apply_ite (fun x : State => x.pending)]; done) | rfl | (simp; rfl) | (refine foldl_pending _ ?_ _ _; intro a x; dsimp only; repeat' split; all_goals (first | done | simp | rfl)))

@[simp] theorem markStation_pending (s : State) (gn step pos : Nat) : (markStation s gn step pos).pending = s.pending := by
  unfold markStation
  (try dsimp only)
  repeat' split
  all_goals (first | done | (simp [apply_ite (fun x : State => x.pending)]; done) | rfl | (simp; rfl) | (refine foldl_pending _ ?_ _ _; intro a x; dsimp only; repeat' split; all_goals (first | done | simp | rfl)))

theorem arrive_pending {s t : State} {p : Piece} {ok : Bool} (h : arrive s p ok = some t) : (t).pending = s.pending := by
  unfold arrive at h
  (try dsimp only at h)
  repeat' (split at h)
  all_goals (cases h <;> first | rfl | simp)
@[simp] theorem arrive_getD_pending (s : State) (p : Piece) (ok : Bool) : ((arrive s p ok).getD s).pending = s.pending := by
  cases h : arrive s p ok with
  | none => rfl
  | some t => exact arrive_pending h

@[simp] theorem retryHeld_pending (s : State) (gn : Nat) : (retryHeld s gn).pending = s.pending := by
  unfold retryHeld
  split
  · rfl
  · refine foldl_pending _ (fun a e => ?_) _ _
    split
    · next h => simp [arrive_pending h]
    · rfl

@[simp] theorem receiveLocal_pending (s : State) (g step pos k : Nat) (final ok : Bool) : (receiveLocal s g step pos k final ok).pending = s.pending := by
  unfold receiveLocal
  (try dsimp only)
  repeat' split
  all_goals (first | done | (simp [apply_ite (fun x : State => x.pending)]; done) | rfl | (simp; rfl) | (refine foldl_pending _ ?_ _ _; intro a x; dsimp only; repeat' split; all_goals (first | done | simp | rfl)))

@[simp] theorem receivePort_pending (s : State) (d : Nat) : (receivePort s d).pending = s.pending := by
  unfold receivePort; dsimp only
  split
  · rfl
  · split
    · rfl
    · split
      · next h => simp [arrive_pending h]
      · rfl

@[simp] theorem commitHere_pending (s : State) (gn step : Nat) (old : Group) : (commitHere s gn step old).pending = s.pending := by
  unfold commitHere
  (try dsimp only)
  repeat' split
  all_goals (first | done | (simp [apply_ite (fun x : State => x.pending)]; done) | rfl | (simp; rfl) | (refine foldl_pending _ ?_ _ _; intro a x; dsimp only; repeat' split; all_goals (first | done | simp | rfl)))

@[simp] theorem renewStep_pending (gn : Nat) (old : Group) (known : List W32) (s : State) (c : CStep) : (renewStep gn old known s c).pending = s.pending := by
  unfold renewStep
  (try dsimp only)
  repeat' split
  all_goals (first | done | (simp [apply_ite (fun x : State => x.pending)]; done) | rfl | (simp; rfl) | (refine foldl_pending _ ?_ _ _; intro a x; dsimp only; repeat' split; all_goals (first | done | simp | rfl)))

@[simp] theorem restartStep_pending (gn : Nat) (s : State) (c : CStep) : (restartStep gn s c).pending = s.pending := by
  unfold restartStep
  (try dsimp only)
  repeat' split
  all_goals (first | done | (simp [apply_ite (fun x : State => x.pending)]; done) | rfl | (simp; rfl) | (refine foldl_pending _ ?_ _ _; intro a x; dsimp only; repeat' split; all_goals (first | done | simp | rfl)))

@[simp] theorem newEpoch_pending (s : State) (gn : Nat) (old g : Group) (known : List W32) : (newEpoch s gn old g known).pending = s.pending := by
  unfold newEpoch
  extract_lets steps s1 last s2
  rw [moduleEvent_pending, retryHeld_pending, foldl_pending (restartStep gn) (fun a x => restartStep_pending ..)]
  exact foldl_pending (renewStep gn old known) (fun a x => renewStep_pending ..) steps s

@[simp] theorem modRun_pending (s : State) (d : Nat) (f : Runnel → Runnel) : (modRun s d f).pending = s.pending := by
  unfold modRun
  (try dsimp only)
  repeat' split
  all_goals (first | done | (simp [apply_ite (fun x : State => x.pending)]; done) | rfl | (simp; rfl) | (refine foldl_pending _ ?_ _ _; intro a x; dsimp only; repeat' split; all_goals (first | done | simp | rfl)))

@[simp] theorem statAll_pending (s : State) (d init : Nat) (l : List (Nat × Nat)) (f : RunStat → RunStat) : (statAll s d init l f).pending = s.pending := by
  unfold statAll
  (try dsimp only)
  repeat' split
  all_goals (first | done | (simp [apply_ite (fun x : State => x.pending)]; done) | rfl | (simp; rfl) | (refine foldl_pending _ ?_ _ _; intro a x; dsimp only; repeat' split; all_goals (first | done | simp | rfl)))

@[simp] theorem snapshot_pending (s : State) (d : Nat) : (snapshot s d).pending = s.pending := by
  unfold snapshot
  (try dsimp only)
  repeat' split
  all_goals (first | done | (simp [apply_ite (fun x : State => x.pending)]; done) | rfl | (simp; rfl) | (refine foldl_pending _ ?_ _ _; intro a x; dsimp only; repeat' split; all_goals (first | done | simp | rfl)))

@[simp] theorem sendReq_pending (s : State) (d : Nat) (q : RunReq) : (sendReq s d q).pending = s.pending := by
  unfold sendReq
  (try dsimp only)
  repeat' split
  all_goals (first | done | (simp [apply_ite (fun x : State => x.pending)]; done) | rfl | (simp; rfl) | (refine foldl_pending _ ?_ _ _; intro a x; dsimp only; repeat' split; all_goals (first | done | simp | rfl)))

@[simp] theorem grantFuel_pending (n : Nat) (s : State) (d : Nat) : (grantFuel n s d).pending = s.pending := by
  induction n generalizing s with
  | zero => rfl
  | succ n ih =>
    unfold grantFuel; (try dsimp only); repeat' split
    all_goals (first | rfl | simp [ih])

@[simp] theorem grantWaiting_pending (s : State) (d : Nat) : (grantWaiting s d).pending = s.pending := by
  unfold grantWaiting
  exact grantFuel_pending ..

@[simp] theorem serve_pending (s : State) (d : Nat) (q : RunReq) : (serve s d q).1.pending = s.pending := by
  unfold serve
  (try dsimp only)
  repeat' split
  all_goals (first | done | (simp [apply_ite (fun x : State => x.pending)]; done) | rfl | (simp; rfl) | (refine foldl_pending _ ?_ _ _; intro a x; dsimp only; repeat' split; all_goals (first | done | simp | rfl)))

@[simp] theorem countErr_pending (s : State) (d init : Nat) (st : Status) : (countErr s d init st).pending = s.pending := by
  unfold countErr
  (try dsimp only)
  repeat' split
  all_goals (first | done | (simp [apply_ite (fun x : State => x.pending)]; done) | rfl | (simp; rfl) | (refine foldl_pending _ ?_ _ _; intro a x; dsimp only; repeat' split; all_goals (first | done | simp | rfl)))

@[simp] theorem raiseSluices_pending (s : State) (d : Nat) (ports : List Nat) : (raiseSluices s d ports).pending = s.pending := by
  unfold raiseSluices
  (try dsimp only)
  repeat' split
  all_goals (first | done | (simp [apply_ite (fun x : State => x.pending)]; done) | rfl | (simp; rfl) | (refine foldl_pending _ ?_ _ _; intro a x; dsimp only; repeat' split; all_goals (first | done | simp | rfl)))

@[simp] theorem endDrain_pending (s : State) (d : Nat) (ended : Nat → Bool) : (endDrain s d ended).pending = s.pending := by
  unfold endDrain
  (try dsimp only)
  repeat' split
  all_goals (first | done | (simp [apply_ite (fun x : State => x.pending)]; done) | rfl | (simp; rfl) | (refine foldl_pending _ ?_ _ _; intro a x; dsimp only; repeat' split; all_goals (first | done | simp | rfl)))

@[simp] theorem hubDrain_pending (s : State) (d : Nat) : (hubDrain s d).pending = s.pending := by
  unfold hubDrain
  (try dsimp only)
  repeat' split
  all_goals (first | done | (simp [apply_ite (fun x : State => x.pending)]; done) | rfl | (simp; rfl) | (refine foldl_pending _ ?_ _ _; intro a x; dsimp only; repeat' split; all_goals (first | done | simp | rfl)))

@[simp] theorem powerDownDie_pending (s : State) (d : Nat) : (powerDownDie s d).pending = s.pending := by
  unfold powerDownDie
  (try dsimp only)
  repeat' split
  all_goals (first | done | (simp [apply_ite (fun x : State => x.pending)]; done) | rfl | (simp; rfl) | (refine foldl_pending _ ?_ _ _; intro a x; dsimp only; repeat' split; all_goals (first | done | simp | rfl)))

@[simp] theorem sluiceSafe_pending (s : State) (die : Nat) : (sluiceSafe s die).pending = s.pending := by
  unfold sluiceSafe
  (try dsimp only)
  repeat' split
  all_goals (first | done | (simp [apply_ite (fun x : State => x.pending)]; done) | rfl | (simp; rfl) | (refine foldl_pending _ ?_ _ _; intro a x; dsimp only; repeat' split; all_goals (first | done | simp | rfl)))

@[simp] theorem openSluice_pending (s : State) (d port : Nat) : (openSluice s d port).pending = s.pending := by
  unfold openSluice
  (try dsimp only)
  repeat' split
  all_goals (first | done | (simp [apply_ite (fun x : State => x.pending)]; done) | rfl | (simp; rfl) | (refine foldl_pending _ ?_ _ _; intro a x; dsimp only; repeat' split; all_goals (first | done | simp | rfl)))

@[simp] theorem redirect_pending (s : State) (d old new : Nat) : (redirect s d old new).pending = s.pending := by
  unfold redirect
  (try dsimp only)
  repeat' split
  all_goals (first | done | (simp [apply_ite (fun x : State => x.pending)]; done) | rfl | (simp; rfl) | (refine foldl_pending _ ?_ _ _; intro a x; dsimp only; repeat' split; all_goals (first | done | simp | rfl)))

@[simp] theorem sentRead_pending (s : State) (d p : Nat) (c : PartCtx) (l : List Nat) : (sentRead s d p c l).pending = s.pending := by
  unfold sentRead
  (try dsimp only)
  repeat' split
  all_goals (first | done | (simp [apply_ite (fun x : State => x.pending)]; done) | rfl | (simp; rfl) | (refine foldl_pending _ ?_ _ _; intro a x; dsimp only; repeat' split; all_goals (first | done | simp | rfl)))

@[simp] theorem receivedLine_pending (s : State) (d p : Nat) (c : PartCtx) (r : FetchReq) (a : Nat) : (receivedLine s d p c r a).pending = s.pending := by
  unfold receivedLine
  (try dsimp only)
  repeat' split
  all_goals (first | done | (simp [apply_ite (fun x : State => x.pending)]; done) | rfl | (simp; rfl) | (refine foldl_pending _ ?_ _ _; intro a x; dsimp only; repeat' split; all_goals (first | done | simp | rfl)))

@[simp] theorem failTile_pending (s : State) (d : Nat) (c : PartCtx) (code : BitVec 8) (addr : Nat) : (failTile s d c code addr).pending = s.pending := by
  unfold failTile
  (try dsimp only)
  repeat' split
  all_goals (first | done | (simp [apply_ite (fun x : State => x.pending)]; done) | rfl | (simp; rfl) | (refine foldl_pending _ ?_ _ _; intro a x; dsimp only; repeat' split; all_goals (first | done | simp | rfl)))

@[simp] theorem endByTile_pending (s : State) (d p : Nat) (code : BitVec 8) (cause : Nat) (xaddr : Nat) : (endByTile s d p code cause xaddr).pending = s.pending := by
  unfold endByTile
  (try dsimp only)
  repeat' split
  all_goals (first | done | (simp [apply_ite (fun x : State => x.pending)]; done) | rfl | (simp; rfl) | (refine foldl_pending _ ?_ _ _; intro a x; dsimp only; repeat' split; all_goals (first | done | simp | rfl)))

@[simp] theorem modStaging_pending (s : State) (d pn : Nat) (f : Staging → Staging) : (modStaging s d pn f).pending = s.pending := by
  unfold modStaging
  (try dsimp only)
  repeat' split
  all_goals (first | done | (simp [apply_ite (fun x : State => x.pending)]; done) | rfl | (simp; rfl) | (refine foldl_pending _ ?_ _ _; intro a x; dsimp only; repeat' split; all_goals (first | done | simp | rfl)))

@[simp] theorem askList_pending (s : State) (d p : Nat) : (askList s d p).pending = s.pending := by
  unfold askList
  (try dsimp only)
  repeat' split
  all_goals (first | done | (simp [apply_ite (fun x : State => x.pending)]; done) | rfl | (simp; rfl) | (refine foldl_pending _ ?_ _ _; intro a x; dsimp only; repeat' split; all_goals (first | done | simp | rfl)))

@[simp] theorem modPending_pending (s : State) (d p : Nat) (f : List FetchReq → List FetchReq) : (modPending s d p f).pending = s.pending := by
  unfold modPending
  (try dsimp only)
  repeat' split
  all_goals (first | done | (simp [apply_ite (fun x : State => x.pending)]; done) | rfl | (simp; rfl) | (refine foldl_pending _ ?_ _ _; intro a x; dsimp only; repeat' split; all_goals (first | done | simp | rfl)))

@[simp] theorem absorbRead_pending (s : State) (d p : Nat) (k : FetchReq → Bool) : (absorbRead s d p k).pending = s.pending := by
  unfold absorbRead
  (try dsimp only)
  repeat' split
  all_goals (first | done | (simp [apply_ite (fun x : State => x.pending)]; done) | rfl | (simp; rfl) | (refine foldl_pending _ ?_ _ _; intro a x; dsimp only; repeat' split; all_goals (first | done | simp | rfl)))

@[simp] theorem failRead_pending (s : State) (d : Nat) (c : PartCtx) (e : Status) (a : Nat) : (failRead s d c e a).pending = s.pending := by
  unfold failRead
  (try dsimp only)
  repeat' split
  all_goals (first | done | (simp [apply_ite (fun x : State => x.pending)]; done) | rfl | (simp; rfl) | (refine foldl_pending _ ?_ _ _; intro a x; dsimp only; repeat' split; all_goals (first | done | simp | rfl)))

@[simp] theorem freePieces_pending (s : State) (d pn : Nat) : (freePieces s d pn).pending = s.pending := by
  unfold freePieces
  (try dsimp only)
  repeat' split
  all_goals (first | done | (simp [apply_ite (fun x : State => x.pending)]; done) | rfl | (simp; rfl) | (refine foldl_pending _ ?_ _ _; intro a x; dsimp only; repeat' split; all_goals (first | done | simp | rfl)))

@[simp] theorem fetchMulticast_pending (s : State) (d pn pt : Nat) (p : Partition) (t : Tile) (c : PartCtx) (e : Nat × Nat) : (fetchMulticast s d pn pt p t c e).pending = s.pending := by
  unfold fetchMulticast
  (try dsimp only)
  repeat' split
  all_goals (first | done | (simp [apply_ite (fun x : State => x.pending)]; done) | rfl | (simp; rfl) | (refine foldl_pending _ ?_ _ _; intro a x; dsimp only; repeat' split; all_goals (first | done | simp | rfl)))

@[simp] theorem sendRead_pending (s : State) (d p : Nat) : (sendRead s d p).pending = s.pending := by
  unfold sendRead
  (try dsimp only)
  repeat' split
  all_goals (first | done | (simp [apply_ite (fun x : State => x.pending)]; done) | rfl | (simp; rfl) | (refine foldl_pending _ ?_ _ _; intro a x; dsimp only; repeat' split; all_goals (first | done | simp | rfl)))

@[simp] theorem sendReads_pending (s : State) (d p : Nat) : (sendReads s d p).pending = s.pending := by
  unfold sendReads
  (try dsimp only)
  repeat' split
  all_goals (first | done | (simp [apply_ite (fun x : State => x.pending)]; done) | rfl | (simp; rfl) | (refine foldl_pending _ ?_ _ _; intro a x; dsimp only; repeat' split; all_goals (first | done | simp | rfl)))

@[simp] theorem deliverExpress_pending (s : State) (d : Nat) (x : Line) : (deliverExpress s d x).pending = s.pending := by
  unfold deliverExpress
  (try dsimp only)
  repeat' split
  all_goals (first | done | (simp [apply_ite (fun x : State => x.pending)]; done) | rfl | (simp; rfl) | (refine foldl_pending _ ?_ _ _; intro a x; dsimp only; repeat' split; all_goals (first | done | simp | rfl)))

@[simp] theorem routeExpress_pending (s : State) (d : Nat) (x : Line) : (routeExpress s d x).pending = s.pending := by
  unfold routeExpress
  (try dsimp only)
  repeat' split
  all_goals (first | done | (simp [apply_ite (fun x : State => x.pending)]; done) | rfl | (simp; rfl) | (refine foldl_pending _ ?_ _ _; intro a x; dsimp only; repeat' split; all_goals (first | done | simp | rfl)))

@[simp] theorem sendLsRec_pending (s : State) (d : Nat) (q : LockPair) (r : LsRec) : (sendLsRec s d q r).pending = s.pending := by
  unfold sendLsRec
  (try dsimp only)
  repeat' split
  all_goals (first | done | (simp [apply_ite (fun x : State => x.pending)]; done) | rfl | (simp; rfl) | (refine foldl_pending _ ?_ _ _; intro a x; dsimp only; repeat' split; all_goals (first | done | simp | rfl)))

@[simp] theorem reportEnd_pending (s : State) (d p : Nat) (t : Tile) : (reportEnd s d p t).pending = s.pending := by
  unfold reportEnd
  (try dsimp only)
  repeat' split
  all_goals (first | done | (simp [apply_ite (fun x : State => x.pending)]; done) | rfl | (simp; rfl) | (refine foldl_pending _ ?_ _ _; intro a x; dsimp only; repeat' split; all_goals (first | done | simp | rfl)))

@[simp] theorem sentWb_pending (s u : State) (d p : Nat) (t t1 : Tile) : (sentWb s u d p t t1).pending = (u).pending := by
  unfold sentWb
  split <;> simp

@[simp] theorem tileErr_pending (s : State) (d p : Nat) (err : TileErr) : (tileErr s d p err).pending = s.pending := by
  unfold tileErr
  (try dsimp only)
  repeat' split
  all_goals (first | done | (simp [apply_ite (fun x : State => x.pending)]; done) | rfl | (simp; rfl) | (refine foldl_pending _ ?_ _ _; intro a x; dsimp only; repeat' split; all_goals (first | done | simp | rfl)))

@[simp] theorem checksumFailed_pending (s : State) (d p n : Nat) : (checksumFailed s d p n).pending = s.pending := by
  unfold checksumFailed
  (try dsimp only)
  repeat' split
  all_goals (first | done | (simp [apply_ite (fun x : State => x.pending)]; done) | rfl | (simp; rfl) | (refine foldl_pending _ ?_ _ _; intro a x; dsimp only; repeat' split; all_goals (first | done | simp | rfl)))

@[simp] theorem wbLatency_pending (s : State) (d p : Nat) (c : PartCtx) (b : WbOp) : (wbLatency s d p c b).pending = s.pending := by
  unfold wbLatency
  (try dsimp only)
  repeat' split
  all_goals (first | done | (simp [apply_ite (fun x : State => x.pending)]; done) | rfl | (simp; rfl) | (refine foldl_pending _ ?_ _ _; intro a x; dsimp only; repeat' split; all_goals (first | done | simp | rfl)))

@[simp] theorem toTile_pending (s : State) (d p : Nat) (f : Tile → Tile) : (toTile s d p f).pending = s.pending := by
  unfold toTile
  (try dsimp only)
  repeat' split
  all_goals (first | done | (simp [apply_ite (fun x : State => x.pending)]; done) | rfl | (simp; rfl) | (refine foldl_pending _ ?_ _ _; intro a x; dsimp only; repeat' split; all_goals (first | done | simp | rfl)))

@[simp] theorem writeArea_pending (s : State) (d : Nat) (pn : Option Nat) (area : Nat) (xs : List Line) : ((writeArea s d pn area xs).2).pending = s.pending := by
  unfold writeArea
  (try dsimp only)
  repeat' split
  all_goals (first | done | (simp [apply_ite (fun x : State => x.pending)]; done) | rfl | (simp; rfl) | (refine foldl_pending _ ?_ _ _; intro a x; dsimp only; repeat' split; all_goals (first | done | simp | rfl)))

@[simp] theorem saveComplete_pending (s : State) (d p : Nat) : (saveComplete s d p).pending = s.pending := by
  unfold saveComplete
  (try dsimp only)
  repeat' split
  all_goals (first | done | (simp [apply_ite (fun x : State => x.pending)]; done) | rfl | (simp; rfl) | (refine foldl_pending _ ?_ _ _; intro a x; dsimp only; repeat' split; all_goals (first | done | simp | rfl)))

@[simp] theorem orphanReads_pending (s : State) (d p : Nat) : (orphanReads s d p).pending = s.pending := by
  unfold orphanReads
  (try dsimp only)
  repeat' split
  all_goals (first | done | (simp [apply_ite (fun x : State => x.pending)]; done) | rfl | (simp; rfl) | (refine foldl_pending _ ?_ _ _; intro a x; dsimp only; repeat' split; all_goals (first | done | simp | rfl)))

@[simp] theorem moveTile_pending (s : State) (d lt old gen new : Nat) (t : Tile) : (moveTile s d lt old gen new t).pending = s.pending := by
  unfold moveTile
  (try dsimp only)
  repeat' split
  all_goals (first | done | (simp [apply_ite (fun x : State => x.pending)]; done) | rfl | (simp; rfl) | (refine foldl_pending _ ?_ _ _; intro a x; dsimp only; repeat' split; all_goals (first | done | simp | rfl)))

@[simp] theorem resumeAt_pending (s : State) (d p : Nat) (t : Tile) : (resumeAt s d p t).pending = s.pending := by
  unfold resumeAt
  (try dsimp only)
  repeat' split
  all_goals (first | done | (simp [apply_ite (fun x : State => x.pending)]; done) | rfl | (simp; rfl) | (refine foldl_pending _ ?_ _ _; intro a x; dsimp only; repeat' split; all_goals (first | done | simp | rfl)))

@[simp] theorem tryMove_pending (s : State) (d lt new : Nat) : (tryMove s d lt new).pending = s.pending := by
  unfold tryMove
  (try dsimp only)
  repeat' split
  all_goals (first | done | (simp [apply_ite (fun x : State => x.pending)]; done) | rfl | (simp; rfl) | (refine foldl_pending _ ?_ _ _; intro a x; dsimp only; repeat' split; all_goals (first | done | simp | rfl)))

@[simp] theorem dispatchTile_pending (k i : Nat) (o : Op) (s : State) (x : Target) : (dispatchTile k i o s x).pending = s.pending := by
  unfold dispatchTile
  (try dsimp only)
  repeat' split
  all_goals (first | done | (simp [apply_ite (fun x : State => x.pending)]; done) | rfl | (simp; rfl) | (refine foldl_pending _ ?_ _ _; intro a x; dsimp only; repeat' split; all_goals (first | done | simp | rfl)))

@[simp] theorem mcGroupsOf_pending (s : State) (k : Nat) (xs : List Target) : (mcGroupsOf s k xs).pending = s.pending := by
  unfold mcGroupsOf
  (try dsimp only)
  repeat' split
  all_goals (first | done | (simp [apply_ite (fun x : State => x.pending)]; done) | rfl | (simp; rfl) | (refine foldl_pending _ ?_ _ _; intro a x; dsimp only; repeat' split; all_goals (first | done | simp | rfl)))

@[simp] theorem dropGroups_pending (s : State) (k : Nat) : (dropGroups s k).pending = s.pending := by
  unfold dropGroups
  (try dsimp only)
  repeat' split
  all_goals (first | done | (simp [apply_ite (fun x : State => x.pending)]; done) | rfl | (simp; rfl) | (refine foldl_pending _ ?_ _ _; intro a x; dsimp only; repeat' split; all_goals (first | done | simp | rfl)))

@[simp] theorem resetStaging_pending (s : State) (xs : List Target) : (resetStaging s xs).pending = s.pending := by
  unfold resetStaging
  (try dsimp only)
  repeat' split
  all_goals (first | done | (simp [apply_ite (fun x : State => x.pending)]; done) | rfl | (simp; rfl) | (refine foldl_pending _ ?_ _ _; intro a x; dsimp only; repeat' split; all_goals (first | done | simp | rfl)))

@[simp] theorem dispatchKernel_pending (s : State) (k i : Nat) (o : Op) : (dispatchKernel s k i o).pending = s.pending := by
  unfold dispatchKernel
  (try dsimp only)
  repeat' split
  all_goals (first | done | (simp [apply_ite (fun x : State => x.pending)]; done) | rfl | (simp; rfl) | (refine foldl_pending _ ?_ _ _; intro a x; dsimp only; repeat' split; all_goals (first | done | simp | rfl)))

@[simp] theorem startKernel_pending (s : State) (k : Nat) (o : Op) : (startKernel s k o).pending = s.pending := by
  unfold startKernel
  (try dsimp only)
  repeat' split
  all_goals (first | done | (simp [apply_ite (fun x : State => x.pending)]; done) | rfl | (simp; rfl) | (refine foldl_pending _ ?_ _ _; intro a x; dsimp only; repeat' split; all_goals (first | done | simp | rfl)))

@[simp] theorem modFtn_pending (s : State) (d : Nat) (f : Fountain → Fountain) : (modFtn s d f).pending = s.pending := by
  unfold modFtn
  (try dsimp only)
  repeat' split
  all_goals (first | done | (simp [apply_ite (fun x : State => x.pending)]; done) | rfl | (simp; rfl) | (refine foldl_pending _ ?_ _ _; intro a x; dsimp only; repeat' split; all_goals (first | done | simp | rfl)))

@[simp] theorem leaveFtn_pending (s : State) (d k : Nat) : (leaveFtn s d k).pending = s.pending := by
  unfold leaveFtn
  (try dsimp only)
  repeat' split
  all_goals (first | done | (simp [apply_ite (fun x : State => x.pending)]; done) | rfl | (simp; rfl) | (refine foldl_pending _ ?_ _ _; intro a x; dsimp only; repeat' split; all_goals (first | done | simp | rfl)))

@[simp] theorem enterFtn_pending (s : State) (d k : Nat) : (enterFtn s d k).pending = s.pending := by
  unfold enterFtn
  (try dsimp only)
  repeat' split
  all_goals (first | done | (simp [apply_ite (fun x : State => x.pending)]; done) | rfl | (simp; rfl) | (refine foldl_pending _ ?_ _ _; intro a x; dsimp only; repeat' split; all_goals (first | done | simp | rfl)))

@[simp] theorem failFtn_pending (s : State) (d k : Nat) (code : Status) (addr ed : Nat) : (failFtn s d k code addr ed).pending = s.pending := by
  unfold failFtn
  (try dsimp only)
  repeat' split
  all_goals (first | done | (simp [apply_ite (fun x : State => x.pending)]; done) | rfl | (simp; rfl) | (refine foldl_pending _ ?_ _ _; intro a x; dsimp only; repeat' split; all_goals (first | done | simp | rfl)))

@[simp] theorem runGenerate_pending (s : State) (k d : Nat) (o : Op) : (runGenerate s k d o).pending = s.pending := by
  unfold runGenerate
  (try dsimp only)
  repeat' split
  all_goals (first | done | (simp [apply_ite (fun x : State => x.pending)]; done) | rfl | (simp; rfl) | (refine foldl_pending _ ?_ _ _; intro a x; dsimp only; repeat' split; all_goals (first | done | simp | rfl)))

@[simp] theorem someLines_pending (s : State) (k : Nat) (o : Op) : (someLines s k o).pending = s.pending := by
  unfold someLines
  (try dsimp only)
  repeat' split
  all_goals (first | done | (simp [apply_ite (fun x : State => x.pending)]; done) | rfl | (simp; rfl) | (refine foldl_pending _ ?_ _ _; intro a x; dsimp only; repeat' split; all_goals (first | done | simp | rfl)))

@[simp] theorem drawnE_pending (s : State) (k : Nat) (o : Op) : (drawnE s k o).1.pending = s.pending := by
  unfold drawnE
  (try dsimp only)
  repeat' split
  all_goals (first | done | (simp [apply_ite (fun x : State => x.pending)]; done) | rfl | (simp; rfl) | (refine foldl_pending _ ?_ _ _; intro a x; dsimp only; repeat' split; all_goals (first | done | simp | rfl)))

@[simp] theorem sampleOne_pending (s : State) (k d : Nat) : (sampleOne s k d).pending = s.pending := by
  unfold sampleOne
  (try dsimp only)
  repeat' split
  all_goals (first | done | (simp [apply_ite (fun x : State => x.pending)]; done) | rfl | (simp; rfl) | (refine foldl_pending _ ?_ _ _; intro a x; dsimp only; repeat' split; all_goals (first | done | simp | rfl)))

@[simp] theorem sampleMany_pending (s : State) (k d n : Nat) : (sampleMany s k d n).pending = s.pending := by
  induction n generalizing s with
  | zero => rfl
  | succ n ih =>
    unfold sampleMany; (try dsimp only); repeat' split
    all_goals (first | rfl | simp [ih])

@[simp] theorem dispatchFtn_pending (s : State) (k : Nat) (o : Op) (pos : Nat) : (dispatchFtn s k o pos).pending = s.pending := by
  unfold dispatchFtn
  (try dsimp only)
  repeat' split
  all_goals (first | done | (simp [apply_ite (fun x : State => x.pending)]; done) | rfl | (simp; rfl) | (refine foldl_pending _ ?_ _ _; intro a x; dsimp only; repeat' split; all_goals (first | done | simp | rfl)))

@[simp] theorem writeDigest_pending (s : State) (k : Nat) (o : Op) (code : BitVec 8) : (writeDigest s k o code).pending = s.pending := by
  unfold writeDigest
  (try dsimp only)
  repeat' split
  all_goals (first | done | (simp [apply_ite (fun x : State => x.pending)]; done) | rfl | (simp; rfl) | (refine foldl_pending _ ?_ _ _; intro a x; dsimp only; repeat' split; all_goals (first | done | simp | rfl)))

@[simp] theorem commitOp_pending (s : State) (k : Nat) (o : Op) (code : BitVec 8) (f : RecInfo → RecInfo) : (commitOp s k o code f).pending = s.pending := by
  unfold commitOp
  (try dsimp only)
  repeat' split
  all_goals (first | done | (simp [apply_ite (fun x : State => x.pending)]; done) | rfl | (simp; rfl) | (refine foldl_pending _ ?_ _ _; intro a x; dsimp only; repeat' split; all_goals (first | done | simp | rfl)))

@[simp] theorem restoreHeld_pending (s : State) (k : Nat) (o : Op) : (restoreHeld s k o).pending = s.pending := by
  unfold restoreHeld
  (try dsimp only)
  repeat' split
  all_goals (first | done | (simp [apply_ite (fun x : State => x.pending)]; done) | rfl | (simp; rfl) | (refine foldl_pending _ ?_ _ _; intro a x; dsimp only; repeat' split; all_goals (first | done | simp | rfl)))

@[simp] theorem failHeld_pending (s : State) (k : Nat) (o : Op) (own : Bool) : (failHeld s k o own).pending = s.pending := by
  unfold failHeld
  (try dsimp only)
  repeat' split
  all_goals (first | done | (simp [apply_ite (fun x : State => x.pending)]; done) | rfl | (simp; rfl) | (refine foldl_pending _ ?_ _ _; intro a x; dsimp only; repeat' split; all_goals (first | done | simp | rfl)))

@[simp] theorem holdOp_pending (s : State) (k : Nat) (rs : List RunRec) : (holdOp s k rs).pending = s.pending := by
  unfold holdOp
  (try dsimp only)
  repeat' split
  all_goals (first | done | (simp [apply_ite (fun x : State => x.pending)]; done) | rfl | (simp; rfl) | (refine foldl_pending _ ?_ _ _; intro a x; dsimp only; repeat' split; all_goals (first | done | simp | rfl)))

@[simp] theorem dropContrib_pending (s : State) (c : PartCtx) (d old : Nat) : (dropContrib s c d old).pending = s.pending := by
  unfold dropContrib
  (try dsimp only)
  repeat' split
  all_goals (first | done | (simp [apply_ite (fun x : State => x.pending)]; done) | rfl | (simp; rfl) | (refine foldl_pending _ ?_ _ _; intro a x; dsimp only; repeat' split; all_goals (first | done | simp | rfl)))

@[simp] theorem moveContribs_pending (s : State) (k : Nat) (o : Op) : (moveContribs s k o).pending = s.pending := by
  unfold moveContribs
  split
  · rfl
  · refine foldl_pending _ (fun a e => ?_) _ _
    split <;> simp

@[simp] theorem decide'_pending (s : State) (k : Nat) (o : Op) : (decide' s k o).pending = s.pending := by
  unfold decide'
  (try dsimp only)
  repeat' split
  all_goals (first | done | (simp [apply_ite (fun x : State => x.pending)]; done) | rfl | (simp; rfl) | (refine foldl_pending _ ?_ _ _; intro a x; dsimp only; repeat' split; all_goals (first | done | simp | rfl)))

@[simp] theorem startReplayOn_pending (s : State) (k d : Nat) (o : Op) : (startReplayOn s k d o).pending = s.pending := by
  unfold startReplayOn
  (try dsimp only)
  repeat' split
  all_goals (first | done | (simp [apply_ite (fun x : State => x.pending)]; done) | rfl | (simp; rfl) | (refine foldl_pending _ ?_ _ _; intro a x; dsimp only; repeat' split; all_goals (first | done | simp | rfl)))

@[simp] theorem replayStep_pending (s : State) (launch : Nat) (o : Op) : (replayStep s launch o).pending = s.pending := by
  unfold replayStep
  (try dsimp only)
  repeat' split
  all_goals (first | done | (simp [apply_ite (fun x : State => x.pending)]; done) | rfl | (simp; rfl) | (refine foldl_pending _ ?_ _ _; intro a x; dsimp only; repeat' split; all_goals (first | done | simp | rfl)))

@[simp] theorem startEpoch_pending (s : State) (pn : Nat) : (startEpoch s pn).pending = s.pending := by
  unfold startEpoch
  (try dsimp only)
  repeat' split
  all_goals (first | done | (simp [apply_ite (fun x : State => x.pending)]; done) | rfl | (simp; rfl) | (refine foldl_pending _ ?_ _ _; intro a x; dsimp only; repeat' split; all_goals (first | done | simp | rfl)))

@[simp] theorem copyWeights_pending (s : State) (p : Partition) (src dst : Nat) : (copyWeights s p src dst).pending = s.pending := by
  unfold copyWeights
  (try dsimp only)
  repeat' split
  all_goals (first | done | (simp [apply_ite (fun x : State => x.pending)]; done) | rfl | (simp; rfl) | (refine foldl_pending _ ?_ _ _; intro a x; dsimp only; repeat' split; all_goals (first | done | simp | rfl)))

@[simp] theorem reportDivergence_pending (s : State) (xmod : Bool) (a b : LsRec) : (reportDivergence s xmod a b).pending = s.pending := by
  unfold reportDivergence
  (try dsimp only)
  repeat' split
  all_goals (first | done | (simp [apply_ite (fun x : State => x.pending)]; done) | rfl | (simp; rfl) | (refine foldl_pending _ ?_ _ _; intro a x; dsimp only; repeat' split; all_goals (first | done | simp | rfl)))

@[simp] theorem emptyRegion_pending (s : State) (d r : Nat) : (emptyRegion s d r).pending = s.pending := by
  unfold emptyRegion
  (try dsimp only)
  repeat' split
  all_goals (first | done | (simp [apply_ite (fun x : State => x.pending)]; done) | rfl | (simp; rfl) | (refine foldl_pending _ ?_ _ _; intro a x; dsimp only; repeat' split; all_goals (first | done | simp | rfl)))

@[simp] theorem dropLoad_pending (s : State) (d k : Nat) : (dropLoad s d k).pending = s.pending := by
  unfold dropLoad
  (try dsimp only)
  repeat' split
  all_goals (first | done | (simp [apply_ite (fun x : State => x.pending)]; done) | rfl | (simp; rfl) | (refine foldl_pending _ ?_ _ _; intro a x; dsimp only; repeat' split; all_goals (first | done | simp | rfl)))

@[simp] theorem stopLoad_pending (s : State) (k : Nat) (code : BitVec 8) : (stopLoad s k code).pending = s.pending := by
  unfold stopLoad
  (try dsimp only)
  repeat' split
  all_goals (first | done | (simp [apply_ite (fun x : State => x.pending)]; done) | rfl | (simp; rfl) | (refine foldl_pending _ ?_ _ _; intro a x; dsimp only; repeat' split; all_goals (first | done | simp | rfl)))

@[simp] theorem stopCritical_pending (s : State) (k : Nat) (code : BitVec 8) : (stopCritical s k code).pending = s.pending := by
  unfold stopCritical
  (try dsimp only)
  repeat' split
  all_goals (first | done | (simp [apply_ite (fun x : State => x.pending)]; done) | rfl | (simp; rfl) | (refine foldl_pending _ ?_ _ _; intro a x; dsimp only; repeat' split; all_goals (first | done | simp | rfl)))

@[simp] theorem endRunning_pending (s : State) (k : Nat) (code : BitVec 8) (o : Op) : (endRunning s k code o).pending = s.pending := by
  unfold endRunning
  (try dsimp only)
  repeat' split
  all_goals (first | done | (simp [apply_ite (fun x : State => x.pending)]; done) | rfl | (simp; rfl) | (refine foldl_pending _ ?_ _ _; intro a x; dsimp only; repeat' split; all_goals (first | done | simp | rfl)))

@[simp] theorem cancelOp_pending (s : State) (k : Nat) (code : BitVec 8) : (cancelOp s k code).pending = s.pending := by
  unfold cancelOp
  (try dsimp only)
  repeat' split
  all_goals (first | done | (simp [apply_ite (fun x : State => x.pending)]; done) | rfl | (simp; rfl) | (refine foldl_pending _ ?_ _ _; intro a x; dsimp only; repeat' split; all_goals (first | done | simp | rfl)))

@[simp] theorem cancelWaiting_pending (s : State) (n : Nat) : (cancelWaiting s n).pending = s.pending := by
  unfold cancelWaiting
  (try dsimp only)
  repeat' split
  all_goals (first | done | (simp [apply_ite (fun x : State => x.pending)]; done) | rfl | (simp; rfl) | (refine foldl_pending _ ?_ _ _; intro a x; dsimp only; repeat' split; all_goals (first | done | simp | rfl)))

@[simp] theorem ringFault_pending (s : State) (n cause : Nat) : (ringFault s n cause).pending = s.pending := by
  unfold ringFault
  (try dsimp only)
  repeat' split
  all_goals (first | done | (simp [apply_ite (fun x : State => x.pending)]; done) | rfl | (simp; rfl) | (refine foldl_pending _ ?_ _ _; intro a x; dsimp only; repeat' split; all_goals (first | done | simp | rfl)))

@[simp] theorem drainContext_pending (s : State) (n : Nat) : (drainContext s n).pending = s.pending := by
  unfold drainContext
  (try dsimp only)
  repeat' split
  all_goals (first | done | (simp [apply_ite (fun x : State => x.pending)]; done) | rfl | (simp; rfl) | (refine foldl_pending _ ?_ _ _; intro a x; dsimp only; repeat' split; all_goals (first | done | simp | rfl)))

@[simp] theorem enableContext_pending (s : State) (n : Nat) : (enableContext s n).pending = s.pending := by
  unfold enableContext
  (try dsimp only)
  repeat' split
  all_goals (first | done | (simp [apply_ite (fun x : State => x.pending)]; done) | rfl | (simp; rfl) | (refine foldl_pending _ ?_ _ _; intro a x; dsimp only; repeat' split; all_goals (first | done | simp | rfl)))

@[simp] theorem sendIrq_pending (s : State) (n : Nat) : (sendIrq s n).pending = s.pending := by
  unfold sendIrq
  (try dsimp only)
  repeat' split
  all_goals (first | done | (simp [apply_ite (fun x : State => x.pending)]; done) | rfl | (simp; rfl) | (refine foldl_pending _ ?_ _ _; intro a x; dsimp only; repeat' split; all_goals (first | done | simp | rfl)))

@[simp] theorem signalIrq_pending (s : State) (n : Nat) : (signalIrq s n).pending = s.pending := by
  unfold signalIrq
  (try dsimp only)
  repeat' split
  all_goals (first | done | (simp [apply_ite (fun x : State => x.pending)]; done) | rfl | (simp; rfl) | (refine foldl_pending _ ?_ _ _; intro a x; dsimp only; repeat' split; all_goals (first | done | simp | rfl)))

@[simp] theorem countRecord_pending (s : State) (n : Nat) : (countRecord s n).pending = s.pending := by
  unfold countRecord
  (try dsimp only)
  repeat' split
  all_goals (first | done | (simp [apply_ite (fun x : State => x.pending)]; done) | rfl | (simp; rfl) | (refine foldl_pending _ ?_ _ _; intro a x; dsimp only; repeat' split; all_goals (first | done | simp | rfl)))

@[simp] theorem putRecord_pending (s : State) (n : Nat) (b : List Byte) : (putRecord s n b).pending = s.pending := by
  unfold putRecord
  (try dsimp only)
  repeat' split
  all_goals (first | done | (simp [apply_ite (fun x : State => x.pending)]; done) | rfl | (simp; rfl) | (refine foldl_pending _ ?_ _ _; intro a x; dsimp only; repeat' split; all_goals (first | done | simp | rfl)))

@[simp] theorem keepCode_pending (s : State) (o : Op) : (keepCode s o).pending = s.pending := by
  unfold keepCode
  (try dsimp only)
  repeat' split
  all_goals (first | done | (simp [apply_ite (fun x : State => x.pending)]; done) | rfl | (simp; rfl) | (refine foldl_pending _ ?_ _ _; intro a x; dsimp only; repeat' split; all_goals (first | done | simp | rfl)))

@[simp] theorem retireOp_pending (s : State) (k : Nat) (o : Op) : (retireOp s k o).pending = s.pending := by
  unfold retireOp
  (try dsimp only)
  repeat' split
  all_goals (first | done | (simp [apply_ite (fun x : State => x.pending)]; done) | rfl | (simp; rfl) | (refine foldl_pending _ ?_ _ _; intro a x; dsimp only; repeat' split; all_goals (first | done | simp | rfl)))

@[simp] theorem finishRecord_pending (s : State) (n k : Nat) (o : Op) (ok : Bool) : (finishRecord s n k o ok).pending = s.pending := by
  unfold finishRecord
  (try dsimp only)
  repeat' split
  all_goals (first | done | (simp [apply_ite (fun x : State => x.pending)]; done) | rfl | (simp; rfl) | (refine foldl_pending _ ?_ _ _; intro a x; dsimp only; repeat' split; all_goals (first | done | simp | rfl)))

@[simp] theorem refill_pending (s : State) (n : Nat) : (refill s n).pending = s.pending := by
  unfold refill
  (try dsimp only)
  repeat' split
  all_goals (first | done | (simp [apply_ite (fun x : State => x.pending)]; done) | rfl | (simp; rfl) | (refine foldl_pending _ ?_ _ _; intro a x; dsimp only; repeat' split; all_goals (first | done | simp | rfl)))

@[simp] theorem checkPairs_pending (s : State) (b : List Byte) : ((checkPairs s b).2).pending = s.pending := by
  unfold checkPairs
  have h : ∀ (g : Bool × State → Nat × List Byte → Bool × State), (∀ a e, (g a e).2.pending = a.2.pending) →
      ∀ (l : List (Nat × List Byte)) (a : Bool × State), (l.foldl g a).2.pending = a.2.pending := by
    intro g hg l
    induction l with
    | nil => intro a; rfl
    | cons e r ih => intro a; exact (ih (g a e)).trans (hg a e)
  refine h _ ?_ _ _
  intro a e
  dsimp only
  split <;> simp

@[simp] theorem bootWrite_pending (s : State) (a : Nat) (b : List Byte) : (bootWrite s a b).pending = s.pending := by
  unfold bootWrite
  (try dsimp only)
  repeat' split
  all_goals (first | done | (simp [apply_ite (fun x : State => x.pending)]; done) | rfl | (simp; rfl) | (refine foldl_pending _ ?_ _ _; intro a x; dsimp only; repeat' split; all_goals (first | done | simp | rfl)))

@[simp] theorem loadBase_pending (s : State) (t : Nat) : ((loadBase s t).2).pending = s.pending := by
  unfold loadBase
  (try dsimp only)
  repeat' split
  all_goals (first | done | (simp [apply_ite (fun x : State => x.pending)]; done) | rfl | (simp; rfl) | (refine foldl_pending _ ?_ _ _; intro a x; dsimp only; repeat' split; all_goals (first | done | simp | rfl)))

@[simp] theorem modSlot_pending (s : State) (i : Nat) (f : KeySlot → KeySlot) : (modSlot s i f).pending = s.pending := by
  unfold modSlot
  (try dsimp only)
  repeat' split
  all_goals (first | done | (simp [apply_ite (fun x : State => x.pending)]; done) | rfl | (simp; rfl) | (refine foldl_pending _ ?_ _ _; intro a x; dsimp only; repeat' split; all_goals (first | done | simp | rfl)))

@[simp] theorem ksCommit_pending (s : State) (c : KsCmd) : (ksCommit s c).pending = s.pending := by
  unfold ksCommit
  (try dsimp only)
  repeat' split
  all_goals (first | done | (simp [apply_ite (fun x : State => x.pending)]; done) | rfl | (simp; rfl) | (refine foldl_pending _ ?_ _ _; intro a x; dsimp only; repeat' split; all_goals (first | done | simp | rfl)))

@[simp] theorem ksComplete_pending (s : State) (c : KsCmd) (code : BitVec 8) : (ksComplete s c code).pending = s.pending := by
  unfold ksComplete
  (try dsimp only)
  repeat' split
  all_goals (first | done | (simp [apply_ite (fun x : State => x.pending)]; done) | rfl | (simp; rfl) | (refine foldl_pending _ ?_ _ _; intro a x; dsimp only; repeat' split; all_goals (first | done | simp | rfl)))

@[simp] theorem ksCheck_pending (n : Nat) (s : State) : (ksCheck n s).pending = s.pending := by
  induction n generalizing s with
  | zero => rfl
  | succ n ih =>
    unfold ksCheck; (try dsimp only); repeat' split
    all_goals (first | rfl | simp [ih, apply_ite (fun x : State => x.pending)])

@[simp] theorem ksEnter_pending (s : State) (c : KsCmd) : (ksEnter s c).pending = s.pending := by
  unfold ksEnter
  (try dsimp only)
  repeat' split
  all_goals (first | done | (simp [apply_ite (fun x : State => x.pending)]; done) | rfl | (simp; rfl) | (refine foldl_pending _ ?_ _ _; intro a x; dsimp only; repeat' split; all_goals (first | done | simp | rfl)))

@[simp] theorem ksPop_pending (s : State) : (ksPop s).pending = s.pending := by
  unfold ksPop
  (try dsimp only)
  repeat' split
  all_goals (first | done | (simp [apply_ite (fun x : State => x.pending)]; done) | rfl | (simp; rfl) | (refine foldl_pending _ ?_ _ _; intro a x; dsimp only; repeat' split; all_goals (first | done | simp | rfl)))

@[simp] theorem ksEnd_pending (s : State) (c : KsCmd) (code : BitVec 8) : (ksEnd s c code).pending = s.pending := by
  unfold ksEnd
  (try dsimp only)
  repeat' split
  all_goals (first | done | (simp [apply_ite (fun x : State => x.pending)]; done) | rfl | (simp; rfl) | (refine foldl_pending _ ?_ _ _; intro a x; dsimp only; repeat' split; all_goals (first | done | simp | rfl)))

@[simp] theorem ksLater_pending (s : State) (c : KsCmd) : (ksLater s c).pending = s.pending := by
  unfold ksLater
  (try dsimp only)
  repeat' split
  all_goals (first | done | (simp [apply_ite (fun x : State => x.pending)]; done) | rfl | (simp; rfl) | (refine foldl_pending _ ?_ _ _; intro a x; dsimp only; repeat' split; all_goals (first | done | simp | rfl)))

@[simp] theorem ksFinish_pending (s : State) (id : Nat) (code : BitVec 8) : (ksFinish s id code).pending = s.pending := by
  unfold ksFinish
  (try dsimp only)
  repeat' split
  all_goals (first | done | (simp [apply_ite (fun x : State => x.pending)]; done) | rfl | (simp; rfl) | (refine foldl_pending _ ?_ _ _; intro a x; dsimp only; repeat' split; all_goals (first | done | simp | rfl)))

theorem ksHead_pending (s : State) (code : Nat) (f : KsCmd → State) (h : ∀ c, (f c).pending = s.pending) : (ksHead s code f).pending = s.pending := by
  unfold ksHead; repeat' split
  all_goals (first | rfl | simp [h])

@[simp] theorem mailboxGo_pending (s : State) : (mailboxGo s).pending = s.pending := by
  unfold mailboxGo
  (try dsimp only)
  repeat' split
  all_goals (first | done | (simp [apply_ite (fun x : State => x.pending)]; done) | rfl | (simp; rfl) | (refine foldl_pending _ ?_ _ _; intro a x; dsimp only; repeat' split; all_goals (first | done | simp | rfl)))

@[simp] theorem loopPkt_pending (s : State) (d : Nat) (p : Pkt) : (loopPkt s d p).pending = s.pending := by
  unfold loopPkt
  (try dsimp only)
  repeat' split
  all_goals (first | done | (simp [apply_ite (fun x : State => x.pending)]; done) | rfl | (simp; rfl) | (refine foldl_pending _ ?_ _ _; intro a x; dsimp only; repeat' split; all_goals (first | done | simp | rfl)))

theorem routePkt_pending {s t : State} {d : Nat} {p : Pkt} (h : routePkt s d p = some t) : t.pending = s.pending := by
  unfold routePkt at h
  split at h
  · cases h; simp
  · cases hr : (routeOf s d p.dmod p.hops).filter (fun n => 3 < p.typ || !(portOf s n).refuse) with
    | none => rw [hr] at h; cases h
    | some n =>
      rw [hr] at h
      simp only [Option.map_some, Option.some.injEq] at h
      rw [← h]; split <;> simp
@[simp] theorem respond_pending (s : State) (d : Nat) (q : Pkt) (st : Status) (x : List Line) : (respond s d q st x).pending = s.pending := by
  unfold respond
  cases h : routePkt s d (answerOf s d q st x) with
  | none => simp
  | some t => exact routePkt_pending h

theorem issueReq_pending {s : State} {d : Nat} {p : Pkt} {r : TagRec} {t : State × Bool} (h : issueReq s d p r = some t) : t.1.pending = s.pending := by
  unfold issueReq at h
  dsimp only at h
  split at h
  · cases h
  · split at h
    · cases h; rfl
    · next hr => cases h; simp [routePkt_pending hr]

@[simp] theorem retireTag_pending (s : State) (d n : Nat) : (retireTag s d n).pending = s.pending := by
  unfold retireTag
  (try dsimp only)
  repeat' split
  all_goals (first | done | (simp [apply_ite (fun x : State => x.pending)]; done) | rfl | (simp; rfl) | (refine foldl_pending _ ?_ _ _; intro a x; dsimp only; repeat' split; all_goals (first | done | simp | rfl)))

@[simp] theorem failTag_pending (s : State) (d n : Nat) (code : BitVec 8) : (failTag s d n code).pending = s.pending := by
  unfold failTag
  (try dsimp only)
  repeat' split
  all_goals (first | done | (simp [apply_ite (fun x : State => x.pending)]; done) | rfl | (simp; rfl) | (refine foldl_pending _ ?_ _ _; intro a x; dsimp only; repeat' split; all_goals (first | done | simp | rfl)))

@[simp] theorem cpDone_pending (s : State) (k n : Nat) : (cpDone s k n).pending = s.pending := by
  unfold cpDone
  (try dsimp only)
  repeat' split
  all_goals (first | done | (simp [apply_ite (fun x : State => x.pending)]; done) | rfl | (simp; rfl) | (refine foldl_pending _ ?_ _ _; intro a x; dsimp only; repeat' split; all_goals (first | done | simp | rfl)))

theorem cpStore_pending {s t : State} {k i : Nat} {o : Op} {xs : List Line} {ms : List Byte} (h : cpStore s k i o xs ms = some t) : (t).pending = s.pending := by
  unfold cpStore at h
  dsimp only at h
  split at h
  · cases h; split <;> simp
  · split at h
    · cases h; simp
    · cases h; split <;> simp
  · cases hr : issueReq s o.runDie (cpPkt s o true i xs.length xs) ⟨0, 0, 0, some k, i, xs.length, true, false⟩ with
    | none => rw [hr] at h; cases h
    | some r =>
      rw [hr] at h
      simp only [Option.map_some, Option.some.injEq] at h
      rw [← h]; split <;> simp [issueReq_pending hr]

@[simp] theorem cpStep_pending (s : State) (k n : Nat) (o : Op) : (cpStep s k n o).pending = s.pending := by
  unfold cpStep
  extract_lets i n sent
  split
  · rfl
  · split
    · next b _ _ _ =>
        cases h : cpStore s k i o (toLines b) b with
        | none => rfl
        | some t => simp [sent, cpStore_pending h]
    · split
      · simp
      · extract_lets r own
        split
        · cases h : cpStore s k i o r.2 (mirrorBytes s o.part _ (cpAddr o false + i) 0 (64 * n) own) with
          | none => rfl
          | some t => simp [sent, cpStore_pending h]
        · simp
    · split
      · rfl
      · next h => split <;> simp [sent, issueReq_pending h]

@[simp] theorem eccSuspect_pending (s : State) (d : Nat) (code : Status) : (eccSuspect s d code).pending = s.pending := by
  unfold eccSuspect
  (try dsimp only)
  repeat' split
  all_goals (first | done | (simp [apply_ite (fun x : State => x.pending)]; done) | rfl | (simp; rfl) | (refine foldl_pending _ ?_ _ _; intro a x; dsimp only; repeat' split; all_goals (first | done | simp | rfl)))

@[simp] theorem serveRead_pending (s : State) (d : Nat) (q : Pkt) : (serveRead s d q).pending = s.pending := by
  unfold serveRead
  (try dsimp only)
  repeat' split
  all_goals (first | done | (simp [apply_ite (fun x : State => x.pending)]; done) | rfl | (simp; rfl) | (refine foldl_pending _ ?_ _ _; intro a x; dsimp only; repeat' split; all_goals (first | done | simp | rfl)))

@[simp] theorem serveWrite_pending (s : State) (d : Nat) (q : Pkt) : (serveWrite s d q).pending = s.pending := by
  unfold serveWrite
  (try dsimp only)
  repeat' split
  all_goals (first | done | (simp [apply_ite (fun x : State => x.pending)]; done) | rfl | (simp; rfl) | (refine foldl_pending _ ?_ _ _; intro a x; dsimp only; repeat' split; all_goals (first | done | simp | rfl)))

@[simp] theorem serveMessage_pending (s : State) (d : Nat) (q : Pkt) : (serveMessage s d q).pending = s.pending := by
  unfold serveMessage
  (try dsimp only)
  repeat' split
  all_goals (first | done | (simp [apply_ite (fun x : State => x.pending)]; done) | rfl | (simp; rfl) | (refine foldl_pending _ ?_ _ _; intro a x; dsimp only; repeat' split; all_goals (first | done | simp | rfl)))

theorem takePkt_pending {s : State} {d vl typ : Nat} {loc : Bool} {t : Pkt × State} (h : takePkt s d vl typ loc = some t) : t.2.pending = s.pending := by
  unfold takePkt at h
  split at h
  · split at h
    · dsimp only at h; split at h
      · cases h; simp
      · cases h
    · cases h
  · split at h
    · split at h
      · cases h; simp
      · cases h
    · cases h

theorem applyAnswer_pending {s t : State} {d : Nat} {r : TagRec} {p : Pkt} (h : applyAnswer s d r p = some t) : t.pending = s.pending := by
  unfold applyAnswer at h
  split at h
  · cases h; rfl
  · split at h
    · cases h; rfl
    · split at h
      · cases h; rfl
      · split at h
        · cases h; simp
        · split at h
          · cases h; simp
          · split at h
            · cases h; simp
            · exact cpStore_pending h

theorem takeAnswer_pending {s t : State} {p : Pkt} (h : takeAnswer s p = some t) : t.pending = s.pending := by
  unfold takeAnswer at h
  dsimp only at h
  split at h
  · split at h
    · rw [applyAnswer_pending h]; simp
    · cases h; simp
  · cases h; simp

@[simp] theorem unrelay_pending (s : State) (d : Nat) (p : Pkt) : (unrelay s d p).pending = s.pending := by
  unfold unrelay
  (try dsimp only)
  repeat' split
  all_goals (first | done | (simp [apply_ite (fun x : State => x.pending)]; done) | rfl | (simp; rfl) | (refine foldl_pending _ ?_ _ _; intro a x; dsimp only; repeat' split; all_goals (first | done | simp | rfl)))

@[simp] theorem takeStepMsg_pending (s : State) (b : List Byte) : (takeStepMsg s b).pending = s.pending := by
  unfold takeStepMsg
  (try dsimp only)
  repeat' split
  all_goals (first | done | (simp [apply_ite (fun x : State => x.pending)]; done) | rfl | (simp; rfl) | (refine foldl_pending _ ?_ _ _; intro a x; dsimp only; repeat' split; all_goals (first | done | simp | rfl)))

@[simp] theorem takeMgmt_pending (s : State) (p : Pkt) : (takeMgmt s p).pending = s.pending := by
  unfold takeMgmt
  (try dsimp only)
  repeat' split
  all_goals (first | done | (simp [apply_ite (fun x : State => x.pending)]; done) | rfl | (simp; rfl) | (refine foldl_pending _ ?_ _ _; intro a x; dsimp only; repeat' split; all_goals (first | done | simp | rfl)))

@[simp] theorem takeReport_pending (s : State) (num : Nat) (b : List Byte) : (takeReport s num b).pending = s.pending := by
  unfold takeReport
  (try dsimp only)
  repeat' split
  all_goals (first | done | (simp [apply_ite (fun x : State => x.pending)]; done) | rfl | (simp; rfl) | (refine foldl_pending _ ?_ _ _; intro a x; dsimp only; repeat' split; all_goals (first | done | simp | rfl)))

@[simp] theorem sendReport_pending (s : State) (d n : Nat) (b : List Byte) : (sendReport s d n b).pending = s.pending := by
  unfold sendReport
  split
  · rfl
  · split
    · simp
    · cases h : routePkt s d (surveyPkt s d _ 0 1 n b) with
      | none => simp
      | some t => exact routePkt_pending h

@[simp] theorem takeFlood_pending (s : State) (num org hops : Nat) (src : Option Nat) : (takeFlood s num org hops src).pending = s.pending := by
  unfold takeFlood
  (try dsimp only)
  repeat' split
  all_goals (first | done | (simp [apply_ite (fun x : State => x.pending)]; done) | rfl | (simp; rfl) | (refine foldl_pending _ ?_ _ _; intro a x; dsimp only; repeat' split; all_goals (first | done | simp | rfl)))

@[simp] theorem modRegion_pending (s : State) (d r : Nat) (f : Region → Region) : (modRegion s d r f).pending = s.pending := by
  unfold modRegion
  (try dsimp only)
  repeat' split
  all_goals (first | done | (simp [apply_ite (fun x : State => x.pending)]; done) | rfl | (simp; rfl) | (refine foldl_pending _ ?_ _ _; intro a x; dsimp only; repeat' split; all_goals (first | done | simp | rfl)))

@[simp] theorem modHeadLoad_pending (s : State) (d : Nat) (f : RegionLoad → RegionLoad) : (modHeadLoad s d f).pending = s.pending := by
  unfold modHeadLoad
  (try dsimp only)
  repeat' split
  all_goals (first | done | (simp [apply_ite (fun x : State => x.pending)]; done) | rfl | (simp; rfl) | (refine foldl_pending _ ?_ _ _; intro a x; dsimp only; repeat' split; all_goals (first | done | simp | rfl)))

@[simp] theorem isolateRegion_pending (s : State) (d r : Nat) (ph : RegionPhase) : (isolateRegion s d r ph).pending = s.pending := by
  unfold isolateRegion
  (try dsimp only)
  repeat' split
  all_goals (first | done | (simp [apply_ite (fun x : State => x.pending)]; done) | rfl | (simp; rfl) | (refine foldl_pending _ ?_ _ _; intro a x; dsimp only; repeat' split; all_goals (first | done | simp | rfl)))

@[simp] theorem stopLoads_pending (s : State) (d : Nat) (f : RegionLoad → Bool) : (stopLoads s d f).pending = s.pending := by
  unfold stopLoads
  (try dsimp only)
  repeat' split
  all_goals (first | done | (simp [apply_ite (fun x : State => x.pending)]; done) | rfl | (simp; rfl) | (refine foldl_pending _ ?_ _ _; intro a x; dsimp only; repeat' split; all_goals (first | done | simp | rfl)))

@[simp] theorem modHbm_pending (s : State) (d : Nat) (f : Hbm → Hbm) : (modHbm s d f).pending = s.pending := by
  unfold modHbm
  (try dsimp only)
  repeat' split
  all_goals (first | done | (simp [apply_ite (fun x : State => x.pending)]; done) | rfl | (simp; rfl) | (refine foldl_pending _ ?_ _ _; intro a x; dsimp only; repeat' split; all_goals (first | done | simp | rfl)))

@[simp] theorem splitSlots_pending (s : State) (d : Nat) : (splitSlots s d).pending = s.pending := by
  unfold splitSlots
  (try dsimp only)
  repeat' split
  all_goals (first | done | (simp [apply_ite (fun x : State => x.pending)]; done) | rfl | (simp; rfl) | (refine foldl_pending _ ?_ _ _; intro a x; dsimp only; repeat' split; all_goals (first | done | simp | rfl)))

@[simp] theorem activate_pending (s : State) (d pc bank row : Nat) : (activate s d pc bank row).pending = s.pending := by
  unfold activate
  (try dsimp only)
  repeat' split
  all_goals (first | done | (simp [apply_ite (fun x : State => x.pending)]; done) | rfl | (simp; rfl) | (refine foldl_pending _ ?_ _ _; intro a x; dsimp only; repeat' split; all_goals (first | done | simp | rfl)))

@[simp] theorem logHbm_pending (s : State) (d : Nat) (ce : Bool) (pc bank row col : Nat) : (logHbm s d ce pc bank row col).pending = s.pending := by
  unfold logHbm
  (try dsimp only)
  repeat' split
  all_goals (first | done | (simp [apply_ite (fun x : State => x.pending)]; done) | rfl | (simp; rfl) | (refine foldl_pending _ ?_ _ _; intro a x; dsimp only; repeat' split; all_goals (first | done | simp | rfl)))

@[simp] theorem correctedErr_pending (s : State) (d pc bank row col : Nat) : (correctedErr s d pc bank row col).pending = s.pending := by
  unfold correctedErr
  (try dsimp only)
  repeat' split
  all_goals (first | done | (simp [apply_ite (fun x : State => x.pending)]; done) | rfl | (simp; rfl) | (refine foldl_pending _ ?_ _ _; intro a x; dsimp only; repeat' split; all_goals (first | done | simp | rfl)))

@[simp] theorem uncorrectable_pending (s : State) (d pc bank row col : Nat) : (uncorrectable s d pc bank row col).pending = s.pending := by
  unfold uncorrectable
  (try dsimp only)
  repeat' split
  all_goals (first | done | (simp [apply_ite (fun x : State => x.pending)]; done) | rfl | (simp; rfl) | (refine foldl_pending _ ?_ _ _; intro a x; dsimp only; repeat' split; all_goals (first | done | simp | rfl)))

@[simp] theorem readPlace_pending (s : State) (d : Nat) (q : HbmReq) (err : ReadErr) : (readPlace s d q err).1.pending = s.pending := by
  unfold readPlace
  (try dsimp only)
  repeat' split
  all_goals (first | done | (simp [apply_ite (fun x : State => x.pending)]; done) | rfl | (simp; rfl) | (refine foldl_pending _ ?_ _ _; intro a x; dsimp only; repeat' split; all_goals (first | done | simp | rfl)))

@[simp] theorem answerHbm_pending (s : State) (d id : Nat) (r : Status × Line) : (answerHbm s d id r).pending = s.pending := by
  unfold answerHbm
  (try dsimp only)
  repeat' split
  all_goals (first | done | (simp [apply_ite (fun x : State => x.pending)]; done) | rfl | (simp; rfl) | (refine foldl_pending _ ?_ _ _; intro a x; dsimp only; repeat' split; all_goals (first | done | simp | rfl)))

@[simp] theorem issueHbm_pending (s : State) (d : Nat) (q : HbmReq) (err : ReadErr) : (issueHbm s d q err).pending = s.pending := by
  unfold issueHbm
  (try dsimp only)
  repeat' split
  all_goals (first | done | (simp [apply_ite (fun x : State => x.pending)]; done) | rfl | (simp; rfl) | (refine foldl_pending _ ?_ _ _; intro a x; dsimp only; repeat' split; all_goals (first | done | simp | rfl)))

@[simp] theorem startRepair_pending (s : State) (d : Nat) : (startRepair s d).pending = s.pending := by
  unfold startRepair
  (try dsimp only)
  repeat' split
  all_goals (first | done | (simp [apply_ite (fun x : State => x.pending)]; done) | rfl | (simp; rfl) | (refine foldl_pending _ ?_ _ _; intro a x; dsimp only; repeat' split; all_goals (first | done | simp | rfl)))

@[simp] theorem endRepair_pending (s : State) (d : Nat) (bad : BitVec 16) : (endRepair s d bad).pending = s.pending := by
  unfold endRepair
  (try dsimp only)
  repeat' split
  all_goals (first | done | (simp [apply_ite (fun x : State => x.pending)]; done) | rfl | (simp; rfl) | (refine foldl_pending _ ?_ _ _; intro a x; dsimp only; repeat' split; all_goals (first | done | simp | rfl)))

@[simp] theorem hardRepairs_pending (s : State) (d : Nat) : (hardRepairs s d).pending = s.pending := by
  unfold hardRepairs
  (try dsimp only)
  repeat' split
  all_goals (first | done | (simp [apply_ite (fun x : State => x.pending)]; done) | rfl | (simp; rfl) | (refine foldl_pending _ ?_ _ _; intro a x; dsimp only; repeat' split; all_goals (first | done | simp | rfl)))

@[simp] theorem withdrawRegion_pending (s : State) (pn d r : Nat) : (withdrawRegion s pn d r).pending = s.pending := by
  unfold withdrawRegion
  (try dsimp only)
  repeat' split
  all_goals (first | done | (simp [apply_ite (fun x : State => x.pending)]; done) | rfl | (simp; rfl) | (refine foldl_pending _ ?_ _ _; intro a x; dsimp only; repeat' split; all_goals (first | done | simp | rfl)))

@[simp] theorem withdrawRegions_pending (s : State) (pn : Nat) (now : PartBlock) : (withdrawRegions s pn now).pending = s.pending := by
  unfold withdrawRegions
  (try dsimp only)
  repeat' split
  all_goals (first | done | (simp [apply_ite (fun x : State => x.pending)]; done) | rfl | (simp; rfl) | (refine foldl_pending _ ?_ _ _; intro a x; dsimp only; repeat' split; all_goals (first | done | simp | rfl)))

@[simp] theorem settlePart_pending (s : State) (pn : Nat) : (settlePart s pn).pending = s.pending := by
  unfold settlePart
  (try dsimp only)
  repeat' split
  all_goals (first | done | (simp [apply_ite (fun x : State => x.pending)]; done) | rfl | (simp; rfl) | (refine foldl_pending _ ?_ _ _; intro a x; dsimp only; repeat' split; all_goals (first | done | simp | rfl)))

@[simp] theorem wantBoundary_pending (s : State) (pn : Nat) : (wantBoundary s pn).pending = s.pending := by
  unfold wantBoundary
  (try dsimp only)
  repeat' split
  all_goals (first | done | (simp [apply_ite (fun x : State => x.pending)]; done) | rfl | (simp; rfl) | (refine foldl_pending _ ?_ _ _; intro a x; dsimp only; repeat' split; all_goals (first | done | simp | rfl)))

@[simp] theorem wantBoundaries_pending (s : State) : (wantBoundaries s).pending = s.pending := by
  unfold wantBoundaries
  (try dsimp only)
  repeat' split
  all_goals (first | done | (simp [apply_ite (fun x : State => x.pending)]; done) | rfl | (simp; rfl) | (refine foldl_pending _ ?_ _ _; intro a x; dsimp only; repeat' split; all_goals (first | done | simp | rfl)))

@[simp] theorem mapLt_pending (s : State) (d lt pt : Nat) : (mapLt s d lt pt).pending = s.pending := by
  unfold mapLt
  (try dsimp only)
  repeat' split
  all_goals (first | done | (simp [apply_ite (fun x : State => x.pending)]; done) | rfl | (simp; rfl) | (refine foldl_pending _ ?_ _ _; intro a x; dsimp only; repeat' split; all_goals (first | done | simp | rfl)))

@[simp] theorem unmapLt_pending (s : State) (d lt : Nat) : (unmapLt s d lt).pending = s.pending := by
  unfold unmapLt
  (try dsimp only)
  repeat' split
  all_goals (first | done | (simp [apply_ite (fun x : State => x.pending)]; done) | rfl | (simp; rfl) | (refine foldl_pending _ ?_ _ _; intro a x; dsimp only; repeat' split; all_goals (first | done | simp | rfl)))

@[simp] theorem mapLts_pending (s : State) (d : Nat) (lts : List Nat) : (mapLts s d lts).pending = s.pending := by
  unfold mapLts
  (try dsimp only)
  repeat' split
  all_goals (first | done | (simp [apply_ite (fun x : State => x.pending)]; done) | rfl | (simp; rfl) | (refine foldl_pending _ ?_ _ _; intro a x; dsimp only; repeat' split; all_goals (first | done | simp | rfl)))

@[simp] theorem makeGrade_pending (s : State) (g : GradeChange) : (makeGrade s g).pending = s.pending := by
  unfold makeGrade
  (try dsimp only)
  repeat' split
  all_goals (first | done | (simp [apply_ite (fun x : State => x.pending)]; done) | rfl | (simp; rfl) | (refine foldl_pending _ ?_ _ _; intro a x; dsimp only; repeat' split; all_goals (first | done | simp | rfl)))

@[simp] theorem gradesFuel_pending (n : Nat) (s : State) : (gradesFuel n s).pending = s.pending := by
  induction n generalizing s with
  | zero => rfl
  | succ n ih =>
    unfold gradesFuel; (try dsimp only); repeat' split
    all_goals (first | rfl | (simp [ih]; done) | (simp [ih]; rfl))

@[simp] theorem applyGrades_pending (s : State) (pn : Nat) : (applyGrades s pn).pending = s.pending := by
  unfold applyGrades
  (try dsimp only)
  repeat' split
  all_goals (first | done | (simp [apply_ite (fun x : State => x.pending)]; done) | rfl | (simp; rfl) | (refine foldl_pending _ ?_ _ _; intro a x; dsimp only; repeat' split; all_goals (first | done | simp | rfl)))

@[simp] theorem unbind_pending (s : State) (pn : Nat) : (unbind s pn).pending = s.pending := by
  unfold unbind
  (try dsimp only)
  repeat' split
  all_goals (first | done | (simp [apply_ite (fun x : State => x.pending)]; done) | rfl | (simp; rfl) | (refine foldl_pending _ ?_ _ _; intro a x; dsimp only; repeat' split; all_goals (first | done | simp | rfl)))

@[simp] theorem endPartOps_pending (s : State) (pn : Nat) : (endPartOps s pn).pending = s.pending := by
  unfold endPartOps
  refine foldl_pending _ ?_ _ _
  intro a x; (try dsimp only); repeat' split
  all_goals (first | rfl | simp)

@[simp] theorem splitAll_pending (s : State) : (splitAll s).pending = s.pending := by
  unfold splitAll
  (try dsimp only)
  repeat' split
  all_goals (first | done | (simp [apply_ite (fun x : State => x.pending)]; done) | rfl | (simp; rfl) | (refine foldl_pending _ ?_ _ _; intro a x; dsimp only; repeat' split; all_goals (first | done | simp | rfl)))

@[simp] theorem dropPart_pending (s : State) (pn : Nat) : (dropPart s pn).pending = s.pending := by
  unfold dropPart
  (try dsimp only)
  repeat' split
  all_goals (first | done | (simp [apply_ite (fun x : State => x.pending)]; done) | rfl | (simp; rfl) | (refine foldl_pending _ ?_ _ _; intro a x; dsimp only; repeat' split; all_goals (first | done | simp | rfl)))

@[simp] theorem releaseDie_pending (s : State) (pn d : Nat) : (releaseDie s pn d).pending = s.pending := by
  unfold releaseDie
  (try dsimp only)
  repeat' split
  all_goals (first | done | (simp [apply_ite (fun x : State => x.pending)]; done) | rfl | (simp; rfl) | (refine foldl_pending _ ?_ _ _; intro a x; dsimp only; repeat' split; all_goals (first | done | simp | rfl)))

@[simp] theorem clearBanks_pending (s : State) (d mask : Nat) : (clearBanks s d mask).pending = s.pending := by
  unfold clearBanks
  (try dsimp only)
  repeat' split
  all_goals (first | done | (simp [apply_ite (fun x : State => x.pending)]; done) | rfl | (simp; rfl) | (refine foldl_pending _ ?_ _ _; intro a x; dsimp only; repeat' split; all_goals (first | done | simp | rfl)))

@[simp] theorem copyRange_pending (s : State) (p : Partition) (src dst : Nat) : (copyRange s p src dst).pending = s.pending := by
  unfold copyRange
  (try dsimp only)
  repeat' split
  all_goals (first | done | (simp [apply_ite (fun x : State => x.pending)]; done) | rfl | (simp; rfl) | (refine foldl_pending _ ?_ _ _; intro a x; dsimp only; repeat' split; all_goals (first | done | simp | rfl)))

@[simp] theorem digestMoves_pending (s : State) (pn : Nat) : (digestMoves s pn).pending = s.pending := by
  unfold digestMoves
  (try dsimp only)
  repeat' split
  all_goals (first | done | (simp [apply_ite (fun x : State => x.pending)]; done) | rfl | (simp; rfl) | (refine foldl_pending _ ?_ _ _; intro a x; dsimp only; repeat' split; all_goals (first | done | simp | rfl)))

@[simp] theorem movesAt_pending (s : State) (pn : Nat) : (movesAt s pn).pending = s.pending := by
  unfold movesAt
  (try dsimp only)
  repeat' split
  all_goals (first | done | (simp [apply_ite (fun x : State => x.pending)]; done) | rfl | (simp; rfl) | (refine foldl_pending _ ?_ _ _; intro a x; dsimp only; repeat' split; all_goals (first | done | simp | rfl)))

@[simp] theorem atBoundary_pending (s : State) (pn : Nat) (counted : Bool) : (atBoundary s pn counted).pending = s.pending := by
  unfold atBoundary
  extract_lets s1 s2 s3 n due
  have h3 : (s3).pending = s.pending := by simp [s3, s2, s1]
  rw [settlePart_pending, wantBoundaries_pending]
  split
  · rw [startEpoch_pending, h3]
  · exact h3

@[simp] theorem beginTest_pending (s : State) (d : Nat) (j : TapJob) : (beginTest s d j).pending = s.pending := by
  unfold beginTest
  (try dsimp only)
  repeat' split
  all_goals (first | done | (simp [apply_ite (fun x : State => x.pending)]; done) | rfl | (simp; rfl) | (refine foldl_pending _ ?_ _ _; intro a x; dsimp only; repeat' split; all_goals (first | done | simp | rfl)))

@[simp] theorem tapMoved_pending (s : State) (d : Nat) : (tapMoved s d).pending = s.pending := by
  unfold tapMoved
  (try dsimp only)
  repeat' split
  all_goals (first | done | (simp [apply_ite (fun x : State => x.pending)]; done) | rfl | (simp; rfl) | (refine foldl_pending _ ?_ _ _; intro a x; dsimp only; repeat' split; all_goals (first | done | simp | rfl)))

@[simp] theorem tapRefused_pending (s : State) (d : Nat) : (tapRefused s d).pending = s.pending := by
  unfold tapRefused
  (try dsimp only)
  repeat' split
  all_goals (first | done | (simp [apply_ite (fun x : State => x.pending)]; done) | rfl | (simp; rfl) | (refine foldl_pending _ ?_ _ _; intro a x; dsimp only; repeat' split; all_goals (first | done | simp | rfl)))

@[simp] theorem moveFor_pending (s : State) (d lt new : Nat) : (moveFor s d lt new).pending = s.pending := by
  unfold moveFor
  (try dsimp only)
  repeat' split
  all_goals (first | done | (simp [apply_ite (fun x : State => x.pending)]; done) | rfl | (simp; rfl) | (refine foldl_pending _ ?_ _ _; intro a x; dsimp only; repeat' split; all_goals (first | done | simp | rfl)))

@[simp] theorem startTap_pending (s : State) (d : Nat) (j : TapJob) : (startTap s d j).pending = s.pending := by
  unfold startTap
  (try dsimp only)
  repeat' split
  all_goals (first | done | (simp [apply_ite (fun x : State => x.pending)]; done) | rfl | (simp; rfl) | (refine foldl_pending _ ?_ _ _; intro a x; dsimp only; repeat' split; all_goals (first | done | simp | rfl)))

@[simp] theorem askTap_pending (s : State) (d : Nat) (j : TapJob) : (askTap s d j).pending = s.pending := by
  unfold askTap
  (try dsimp only)
  repeat' split
  all_goals (first | done | (simp [apply_ite (fun x : State => x.pending)]; done) | rfl | (simp; rfl) | (refine foldl_pending _ ?_ _ _; intro a x; dsimp only; repeat' split; all_goals (first | done | simp | rfl)))

@[simp] theorem nextTap_pending (n : Nat) (s : State) (d : Nat) : (nextTap n s d).pending = s.pending := by
  induction n generalizing s d with
  | zero => rfl
  | succ n ih =>
    unfold nextTap; (try dsimp only); repeat' split
    all_goals (first | rfl | simp [ih])

@[simp] theorem abandonTap_pending (s : State) (d : Nat) : (abandonTap s d).pending = s.pending := by
  unfold abandonTap
  (try dsimp only)
  repeat' split
  all_goals (first | done | (simp [apply_ite (fun x : State => x.pending)]; done) | rfl | (simp; rfl) | (refine foldl_pending _ ?_ _ _; intro a x; dsimp only; repeat' split; all_goals (first | done | simp | rfl)))

@[simp] theorem endThrough_pending (s : State) (d : Nat) : (endThrough s d).pending = s.pending := by
  unfold endThrough
  (try dsimp only)
  repeat' split
  all_goals (first | done | (simp [apply_ite (fun x : State => x.pending)]; done) | rfl | (simp; rfl) | (refine foldl_pending _ ?_ _ _; intro a x; dsimp only; repeat' split; all_goals (first | done | simp | rfl)))

@[simp] theorem resetPort_pending (s : State) (d : Nat) (ph : PortPhase) : (resetPort s d ph).pending = s.pending := by
  unfold resetPort
  (try dsimp only)
  repeat' split
  all_goals (first | done | (simp [apply_ite (fun x : State => x.pending)]; done) | rfl | (simp; rfl) | (refine foldl_pending _ ?_ _ _; intro a x; dsimp only; repeat' split; all_goals (first | done | simp | rfl)))

@[simp] theorem withdrawRoutes_pending (s : State) (port : Nat) : (withdrawRoutes s port).pending = s.pending := by
  unfold withdrawRoutes
  (try dsimp only)
  repeat' split
  all_goals (first | done | (simp [apply_ite (fun x : State => x.pending)]; done) | rfl | (simp; rfl) | (refine foldl_pending _ ?_ _ _; intro a x; dsimp only; repeat' split; all_goals (first | done | simp | rfl)))

@[simp] theorem losePort_pending (s : State) (d : Nat) : (losePort s d).pending = s.pending := by
  unfold losePort
  extract_lets p gs s1 s2 s3 s4
  have h3 : s3.pending = s2.pending := foldl_pending _ (by intro a x; simp) _ _
  have h2 : s2.pending = s.pending := by simp [s2, s1]
  rw [withdrawRoutes_pending, moduleEvent_pending, faultSig_pending, h3, h2]

@[simp] theorem endRetire_pending (s : State) (d : Nat) : (endRetire s d).pending = s.pending := by
  unfold endRetire
  (try dsimp only)
  repeat' split
  all_goals (first | done | (simp [apply_ite (fun x : State => x.pending)]; done) | rfl | (simp; rfl) | (refine foldl_pending _ ?_ _ _; intro a x; dsimp only; repeat' split; all_goals (first | done | simp | rfl)))

@[simp] theorem startRetire_pending (s : State) (d : Nat) : (startRetire s d).pending = s.pending := by
  unfold startRetire
  (try dsimp only)
  repeat' split
  all_goals (first | done | (simp [apply_ite (fun x : State => x.pending)]; done) | rfl | (simp; rfl) | (refine foldl_pending _ ?_ _ _; intro a x; dsimp only; repeat' split; all_goals (first | done | simp | rfl)))

@[simp] theorem bringUp_pending (s : State) (d : Nat) (fresh : Bool) : (bringUp s d fresh).pending = s.pending := by
  unfold bringUp
  (try dsimp only)
  repeat' split
  all_goals (first | done | (simp [apply_ite (fun x : State => x.pending)]; done) | rfl | (simp; rfl) | (refine foldl_pending _ ?_ _ _; intro a x; dsimp only; repeat' split; all_goals (first | done | simp | rfl)))

@[simp] theorem doorbell_pending (s : State) (link : Fin 2) (page : Fin 4096) (val : W32) (whole : Bool) (size : Nat → Nat) (put : Nat → Tc → Tc) : (doorbell s link page val whole size put).pending = s.pending := by
  unfold doorbell
  (try dsimp only)
  repeat' split
  all_goals (first | done | (simp [apply_ite (fun x : State => x.pending)]; done) | rfl | (simp; rfl) | (refine foldl_pending _ ?_ _ _; intro a x; dsimp only; repeat' split; all_goals (first | done | simp | rfl)))

@[simp] theorem createOp_pending (s : State) (n : Nat) (express : Bool) (b : List Byte) : (createOp s n express b).pending = s.pending := by
  unfold createOp
  (try dsimp only)
  repeat' split
  all_goals (first | done | (simp [apply_ite (fun x : State => x.pending)]; done) | rfl | (simp; rfl) | (refine foldl_pending _ ?_ _ _; intro a x; dsimp only; repeat' split; all_goals (first | done | simp | rfl)))

@[simp] theorem finishMessage_pending (s : State) (n : Nat) (ok : Bool) : (finishMessage s n ok).pending = s.pending := by
  unfold finishMessage
  (try dsimp only)
  repeat' split
  all_goals (first | done | (simp [apply_ite (fun x : State => x.pending)]; done) | rfl | (simp; rfl) | (refine foldl_pending _ ?_ _ _; intro a x; dsimp only; repeat' split; all_goals (first | done | simp | rfl)))

@[simp] theorem linkReset_pending (s : State) (link : Nat) : (linkReset s link).pending = s.pending := by
  unfold linkReset
  (try dsimp only)
  repeat' split
  all_goals (first | done | (simp [apply_ite (fun x : State => x.pending)]; done) | rfl | (simp; rfl) | (refine foldl_pending _ ?_ _ _; intro a x; dsimp only; repeat' split; all_goals (first | done | simp | rfl)))

@[simp] theorem negotiate_pending (s : State) (link : Nat) : (negotiate s link).pending = s.pending := by
  unfold negotiate
  (try dsimp only)
  repeat' split
  all_goals (first | done | (simp [apply_ite (fun x : State => x.pending)]; done) | rfl | (simp; rfl) | (refine foldl_pending _ ?_ _ _; intro a x; dsimp only; repeat' split; all_goals (first | done | simp | rfl)))

@[simp] theorem tickClock_pending (s : State) : (tickClock s).pending = s.pending := by
  unfold tickClock
  (try dsimp only)
  repeat' split
  all_goals (first | done | (simp [apply_ite (fun x : State => x.pending)]; done) | rfl | (simp; rfl) | (refine foldl_pending _ ?_ _ _; intro a x; dsimp only; repeat' split; all_goals (first | done | simp | rfl)))

@[simp] theorem broadcast_pending (s : State) (c : CounterChange) : (broadcast s c).pending = s.pending := by
  unfold broadcast
  (try dsimp only)
  repeat' split
  all_goals (first | done | (simp [apply_ite (fun x : State => x.pending)]; done) | rfl | (simp; rfl) | (refine foldl_pending _ ?_ _ _; intro a x; dsimp only; repeat' split; all_goals (first | done | simp | rfl)))

@[simp] theorem applyChange_pending (s : State) (c : CounterChange) : (applyChange s c).pending = s.pending := by
  cases c <;> (unfold applyChange; (try dsimp only); repeat' split) <;> first | rfl | simp

@[simp] theorem elect_pending (s : State) : (elect s).pending = s.pending := by
  unfold elect
  (try dsimp only)
  repeat' split
  all_goals (first | done | (simp [apply_ite (fun x : State => x.pending)]; done) | rfl | (simp; rfl) | (refine foldl_pending _ ?_ _ _; intro a x; dsimp only; repeat' split; all_goals (first | done | simp | rfl)))

@[simp] theorem sourceLoss_pending (s : State) : (sourceLoss s).pending = s.pending := by
  unfold sourceLoss
  (try dsimp only)
  repeat' split
  all_goals (first | done | (simp [apply_ite (fun x : State => x.pending)]; done) | rfl | (simp; rfl) | (refine foldl_pending _ ?_ _ _; intro a x; dsimp only; repeat' split; all_goals (first | done | simp | rfl)))

@[simp] theorem showTheta_pending (s : State) (th : Int) : (showTheta s th).pending = s.pending := by
  unfold showTheta
  (try dsimp only)
  repeat' split
  all_goals (first | done | (simp [apply_ite (fun x : State => x.pending)]; done) | rfl | (simp; rfl) | (refine foldl_pending _ ?_ _ _; intro a x; dsimp only; repeat' split; all_goals (first | done | simp | rfl)))

@[simp] theorem lockedBy_pending (s : State) (th : Int) : (lockedBy s th).pending = s.pending := by
  unfold lockedBy
  (try dsimp only)
  repeat' split
  all_goals (first | done | (simp [apply_ite (fun x : State => x.pending)]; done) | rfl | (simp; rfl) | (refine foldl_pending _ ?_ _ _; intro a x; dsimp only; repeat' split; all_goals (first | done | simp | rfl)))

@[simp] theorem raiseStep_pending (s : State) (th : Int) : (raiseStep s th).pending = s.pending := by
  unfold raiseStep
  (try dsimp only)
  repeat' split
  all_goals (first | done | (simp [apply_ite (fun x : State => x.pending)]; done) | rfl | (simp; rfl) | (refine foldl_pending _ ?_ _ _; intro a x; dsimp only; repeat' split; all_goals (first | done | simp | rfl)))

@[simp] theorem endSlew_pending (s : State) : (endSlew s).pending = s.pending := by
  unfold endSlew
  (try dsimp only)
  repeat' split
  all_goals (first | done | (simp [apply_ite (fun x : State => x.pending)]; done) | rfl | (simp; rfl) | (refine foldl_pending _ ?_ _ _; intro a x; dsimp only; repeat' split; all_goals (first | done | simp | rfl)))

@[simp] theorem correct_pending (s : State) (root : Bool) (th : Int) (re : Epoch) : (correct s root th re).pending = s.pending := by
  unfold correct
  (try dsimp only)
  repeat' split
  all_goals (first | done | (simp [apply_ite (fun x : State => x.pending)]; done) | rfl | (simp; rfl) | (refine foldl_pending _ ?_ _ _; intro a x; dsimp only; repeat' split; all_goals (first | done | simp | rfl)))

@[simp] theorem beginEpoch_pending (s : State) : (beginEpoch s).pending = s.pending := by
  unfold beginEpoch
  (try dsimp only)
  repeat' split
  all_goals (first | done | (simp [apply_ite (fun x : State => x.pending)]; done) | rfl | (simp; rfl) | (refine foldl_pending _ ?_ _ _; intro a x; dsimp only; repeat' split; all_goals (first | done | simp | rfl)))

@[simp] theorem takeEpoch_pending (s : State) (tlv : List Byte) : (takeEpoch s tlv).pending = s.pending := by
  unfold takeEpoch
  (try dsimp only)
  repeat' split
  all_goals (first | done | (simp [apply_ite (fun x : State => x.pending)]; done) | rfl | (simp; rfl) | (refine foldl_pending _ ?_ _ _; intro a x; dsimp only; repeat' split; all_goals (first | done | simp | rfl)))

@[simp] theorem setGo_pending (s : State) : (setGo s).pending = s.pending := by
  unfold setGo
  (try dsimp only)
  repeat' split
  all_goals (first | done | (simp [apply_ite (fun x : State => x.pending)]; done) | rfl | (simp; rfl) | (refine foldl_pending _ ?_ _ _; intro a x; dsimp only; repeat' split; all_goals (first | done | simp | rfl)))

@[simp] theorem recordCdc_pending (s : State) (die : Nat) (dom : Nat) : (recordCdc s die dom).pending = s.pending := by
  unfold recordCdc
  (try dsimp only)
  repeat' split
  all_goals (first | done | (simp [apply_ite (fun x : State => x.pending)]; done) | rfl | (simp; rfl) | (refine foldl_pending _ ?_ _ _; intro a x; dsimp only; repeat' split; all_goals (first | done | simp | rfl)))

@[simp] theorem powerLoss_pending (s : State) : (powerLoss s).pending = s.pending := by
  unfold powerLoss
  (try dsimp only)
  repeat' split
  all_goals (first | done | (simp [apply_ite (fun x : State => x.pending)]; done) | rfl | (simp; rfl) | (refine foldl_pending _ ?_ _ _; intro a x; dsimp only; repeat' split; all_goals (first | done | simp | rfl)))

@[simp] theorem setN_pending (s : State) (n : Nat) : (setN s n).pending = s.pending := by
  unfold setN
  (try dsimp only)
  repeat' split
  all_goals (first | done | (simp [apply_ite (fun x : State => x.pending)]; done) | rfl | (simp; rfl) | (refine foldl_pending _ ?_ _ _; intro a x; dsimp only; repeat' split; all_goals (first | done | simp | rfl)))

@[simp] theorem clkDone_pending (s : State) : (clkDone s).pending = s.pending := by
  unfold clkDone
  (try dsimp only)
  repeat' split
  all_goals (first | done | (simp [apply_ite (fun x : State => x.pending)]; done) | rfl | (simp; rfl) | (refine foldl_pending _ ?_ _ _; intro a x; dsimp only; repeat' split; all_goals (first | done | simp | rfl)))

@[simp] theorem recordTemp_pending (s : State) (i : Nat) (tj hbm : Nat) : (recordTemp s i tj hbm).pending = s.pending := by
  unfold recordTemp
  (try dsimp only)
  repeat' split
  all_goals (first | done | (simp [apply_ite (fun x : State => x.pending)]; done) | rfl | (simp; rfl) | (refine foldl_pending _ ?_ _ _; intro a x; dsimp only; repeat' split; all_goals (first | done | simp | rfl)))

@[simp] theorem thermSuspect_pending (s : State) (d tj hbm : Nat) : (thermSuspect s d tj hbm).pending = s.pending := by
  unfold thermSuspect
  (try dsimp only)
  repeat' split
  all_goals (first | done | (simp [apply_ite (fun x : State => x.pending)]; done) | rfl | (simp; rfl) | (refine foldl_pending _ ?_ _ _; intro a x; dsimp only; repeat' split; all_goals (first | done | simp | rfl)))

@[simp] theorem recordSample_pending (s : State) (x : PwrSample) : (recordSample s x).pending = s.pending := by
  unfold recordSample
  (try dsimp only)
  repeat' split
  all_goals (first | done | (simp [apply_ite (fun x : State => x.pending)]; done) | rfl | (simp; rfl) | (refine foldl_pending _ ?_ _ _; intro a x; dsimp only; repeat' split; all_goals (first | done | simp | rfl)))

@[simp] theorem fastClamp_pending (s : State) (cause : Nat) : (fastClamp s cause).pending = s.pending := by
  unfold fastClamp
  (try dsimp only)
  repeat' split
  all_goals (first | done | (simp [apply_ite (fun x : State => x.pending)]; done) | rfl | (simp; rfl) | (refine foldl_pending _ ?_ _ _; intro a x; dsimp only; repeat' split; all_goals (first | done | simp | rfl)))

@[simp] theorem fenceOps_pending (s : State) (d : Nat) : (fenceOps s d).pending = s.pending := by
  unfold fenceOps
  extract_lets hit s1
  have h1 : s1.pending = s.pending := by
    refine foldl_pending _ ?_ _ _
    intro a x; dsimp only; repeat' split
    all_goals (first | rfl | simp)
  rw [foldl_pending _ (by intro a x; simp) _ _, h1]

@[simp] theorem fenceNow_pending (s : State) (d : Nat) (cause : FenceCause) : (fenceNow s d cause).pending = s.pending := by
  unfold fenceNow
  (try dsimp only)
  repeat' split
  all_goals (first | done | (simp [apply_ite (fun x : State => x.pending)]; done) | rfl | (simp; rfl) | (refine foldl_pending _ ?_ _ _; intro a x; dsimp only; repeat' split; all_goals (first | done | simp | rfl)))

@[simp] theorem fenceDie_pending (s : State) (d : Nat) (cause : FenceCause) : (fenceDie s d cause).pending = s.pending := by
  unfold fenceDie
  (try dsimp only)
  repeat' split
  all_goals (first | done | (simp [apply_ite (fun x : State => x.pending)]; done) | rfl | (simp; rfl) | (refine foldl_pending _ ?_ _ _; intro a x; dsimp only; repeat' split; all_goals (first | done | simp | rfl)))

@[simp] theorem reviveDie_pending (s : State) (d : Nat) (good : List Nat) : (reviveDie s d good).pending = s.pending := by
  unfold reviveDie
  (try dsimp only)
  repeat' split
  all_goals (first | done | (simp [apply_ite (fun x : State => x.pending)]; done) | rfl | (simp; rfl) | (refine foldl_pending _ ?_ _ _; intro a x; dsimp only; repeat' split; all_goals (first | done | simp | rfl)))

@[simp] theorem clocklessOps_pending (s : State) (d : Nat) : (clocklessOps s d).pending = s.pending := by
  unfold clocklessOps
  (try dsimp only)
  repeat' split
  all_goals (first | done | (simp [apply_ite (fun x : State => x.pending)]; done) | rfl | (simp; rfl) | (refine foldl_pending _ ?_ _ _; intro a x; dsimp only; repeat' split; all_goals (first | done | simp | rfl)))

@[simp] theorem domainOutcome_pending (s : State) (die : Fin 17) (dom : Nat) : (domainOutcome s die dom).pending = s.pending := by
  unfold domainOutcome
  (try dsimp only)
  repeat' split
  all_goals (first | done | (simp [apply_ite (fun x : State => x.pending)]; done) | rfl | (simp; rfl) | (refine foldl_pending _ ?_ _ _; intro a x; dsimp only; repeat' split; all_goals (first | done | simp | rfl)))

@[simp] theorem writeBank_pending (s : State) (typ : Nat) (b : List Byte) : (writeBank s typ b).pending = s.pending := by
  unfold writeBank
  (try dsimp only)
  repeat' split
  all_goals (first | done | (simp [apply_ite (fun x : State => x.pending)]; done) | rfl | (simp; rfl) | (refine foldl_pending _ ?_ _ _; intro a x; dsimp only; repeat' split; all_goals (first | done | simp | rfl)))

@[simp] theorem writeDir_pending (s : State) (typ : Nat) (b : List Byte) : (writeDir s typ b).pending = s.pending := by
  unfold writeDir
  (try dsimp only)
  repeat' split
  all_goals (first | done | (simp [apply_ite (fun x : State => x.pending)]; done) | rfl | (simp; rfl) | (refine foldl_pending _ ?_ _ _; intro a x; dsimp only; repeat' split; all_goals (first | done | simp | rfl)))

@[simp] theorem fwStat_pending (s : State) (phase die typ : Nat) : (fwStat s phase die typ).pending = s.pending := by
  unfold fwStat
  (try dsimp only)
  repeat' split
  all_goals (first | done | (simp [apply_ite (fun x : State => x.pending)]; done) | rfl | (simp; rfl) | (refine foldl_pending _ ?_ _ _; intro a x; dsimp only; repeat' split; all_goals (first | done | simp | rfl)))

@[simp] theorem fwEnd_pending (s : State) (j : FwJob) (code : BitVec 8) (written : Bool) : (fwEnd s j code written).pending = s.pending := by
  unfold fwEnd
  (try dsimp only)
  repeat' split
  all_goals (first | done | (simp [apply_ite (fun x : State => x.pending)]; done) | rfl | (simp; rfl) | (refine foldl_pending _ ?_ _ _; intro a x; dsimp only; repeat' split; all_goals (first | done | simp | rfl)))

@[simp] theorem fwLater_pending (s : State) (j : FwJob) : (fwLater s j).pending = s.pending := by
  unfold fwLater
  (try dsimp only)
  repeat' split
  all_goals (first | done | (simp [apply_ite (fun x : State => x.pending)]; done) | rfl | (simp; rfl) | (refine foldl_pending _ ?_ _ _; intro a x; dsimp only; repeat' split; all_goals (first | done | simp | rfl)))

@[simp] theorem fwRun_pending (s : State) (j : FwJob) : (fwRun s j).pending = s.pending := by
  unfold fwRun
  (try dsimp only)
  repeat' split
  all_goals (first | done | (simp [apply_ite (fun x : State => x.pending)]; done) | rfl | (simp; rfl) | (refine foldl_pending _ ?_ _ _; intro a x; dsimp only; repeat' split; all_goals (first | done | simp | rfl)))

@[simp] theorem rejoin_pending (s : State) (d : Nat) : (rejoin s d).pending = s.pending := by
  unfold rejoin
  (try dsimp only)
  repeat' split
  all_goals (first | done | (simp [apply_ite (fun x : State => x.pending)]; done) | rfl | (simp; rfl) | (refine foldl_pending _ ?_ _ _; intro a x; dsimp only; repeat' split; all_goals (first | done | simp | rfl)))

@[simp] theorem rollStep_pending (s : State) (j : FwJob) (fails : List PT) : (rollStep s j fails).pending = s.pending := by
  unfold rollStep
  (try dsimp only)
  repeat' split
  all_goals (first | done | (simp [apply_ite (fun x : State => x.pending)]; done) | rfl | (simp; rfl) | (refine foldl_pending _ ?_ _ _; intro a x; dsimp only; repeat' split; all_goals (first | done | simp | rfl)))

@[simp] theorem readCal_pending (s : State) : (readCal s).pending = s.pending := by
  unfold readCal
  (try dsimp only)
  repeat' split
  all_goals (first | done | (simp [apply_ite (fun x : State => x.pending)]; done) | rfl | (simp; rfl) | (refine foldl_pending _ ?_ _ _; intro a x; dsimp only; repeat' split; all_goals (first | done | simp | rfl)))

@[simp] theorem readDir_pending (s : State) (octal : Bool) : (readDir s octal).pending = s.pending := by
  unfold readDir
  (try dsimp only)
  repeat' split
  all_goals (first | done | (simp [apply_ite (fun x : State => x.pending)]; done) | rfl | (simp; rfl) | (refine foldl_pending _ ?_ _ _; intro a x; dsimp only; repeat' split; all_goals (first | done | simp | rfl)))

@[simp] theorem loadFirst_pending (s : State) (octal : Bool) : (loadFirst s octal).2.2.pending = s.pending := by
  unfold loadFirst
  (try dsimp only)
  repeat' split
  all_goals (first | done | (simp [apply_ite (fun x : State => x.pending)]; done) | rfl | (simp; rfl) | (refine foldl_pending _ ?_ _ _; intro a x; dsimp only; repeat' split; all_goals (first | done | simp | rfl)))

@[simp] theorem stamp_pending (s : State) (i : Nat) : (stamp s i).pending = s.pending := by
  unfold stamp
  (try dsimp only)
  repeat' split
  all_goals (first | done | (simp [apply_ite (fun x : State => x.pending)]; done) | rfl | (simp; rfl) | (refine foldl_pending _ ?_ _ _; intro a x; dsimp only; repeat' split; all_goals (first | done | simp | rfl)))

@[simp] theorem loadLater_pending (s : State) (t : Nat) : ((loadLater s t).2).pending = s.pending := by
  have hb := loadBase_pending s t
  unfold loadLater
  split
  · next h => rw [h] at hb; exact hb
  · next h => rw [h] at hb; split <;> simp [← hb]

@[simp] theorem bootFence_pending (s : State) (d : Nat) : (bootFence s d).pending = s.pending := by
  unfold bootFence
  (try dsimp only)
  repeat' split
  all_goals (first | done | (simp [apply_ite (fun x : State => x.pending)]; done) | rfl | (simp; rfl) | (refine foldl_pending _ ?_ _ _; intro a x; dsimp only; repeat' split; all_goals (first | done | simp | rfl)))

@[simp] theorem dieStepB_pending (s : State) (d : Nat) (bad : Bool) (fails : List PT) : (dieStepB s d bad fails).pending = s.pending := by
  unfold dieStepB
  (try dsimp only)
  repeat' split
  all_goals (first | done | (simp [apply_ite (fun x : State => x.pending)]; done) | rfl | (simp; rfl) | (refine foldl_pending _ ?_ _ _; intro a x; dsimp only; repeat' split; all_goals (first | done | simp | rfl)))

@[simp] theorem enterB_pending (s : State) : (enterB s).pending = s.pending := by
  unfold enterB
  (try dsimp only)
  repeat' split
  all_goals (first | done | (simp [apply_ite (fun x : State => x.pending)]; done) | rfl | (simp; rfl) | (refine foldl_pending _ ?_ _ _; intro a x; dsimp only; repeat' split; all_goals (first | done | simp | rfl)))

@[simp] theorem fillDie_pending (s : State) (d : Nat) (fails : List PT) : (fillDie s d fails).pending = s.pending := by
  unfold fillDie
  (try dsimp only)
  repeat' split
  all_goals (first | done | (simp [apply_ite (fun x : State => x.pending)]; done) | rfl | (simp; rfl) | (refine foldl_pending _ ?_ _ _; intro a x; dsimp only; repeat' split; all_goals (first | done | simp | rfl)))

@[simp] theorem plumbAdd_pending (s : State) (d : Nat) (q : PlumbRun) (ab ba : List Int) : (plumbAdd s d q ab ba).pending = s.pending := by
  unfold plumbAdd
  (try dsimp only)
  repeat' split
  all_goals (first | done | (simp [apply_ite (fun x : State => x.pending)]; done) | rfl | (simp; rfl) | (refine foldl_pending _ ?_ _ _; intro a x; dsimp only; repeat' split; all_goals (first | done | simp | rfl)))

@[simp] theorem clearRead_pending (s : State) (k : Nat) : (clearRead s k).pending = s.pending := by
  unfold clearRead
  (try dsimp only)
  repeat' split
  all_goals (first | done | (simp [apply_ite (fun x : State => x.pending)]; done) | rfl | (simp; rfl) | (refine foldl_pending _ ?_ _ _; intro a x; dsimp only; repeat' split; all_goals (first | done | simp | rfl)))

@[simp] theorem putReg_pending (s : State) (k : Nat) (v : W32) : (putReg s k v).pending = s.pending := by
  unfold putReg
  (try dsimp only)
  repeat' split
  all_goals (first | done | (simp [apply_ite (fun x : State => x.pending)]; done) | rfl | (simp; rfl) | (refine foldl_pending _ ?_ _ _; intro a x; dsimp only; repeat' split; all_goals (first | done | simp | rfl)))

@[simp] theorem writeHub_pending (s : State) (k : Nat) (v : W32) : (writeHub s k v).pending = s.pending := by
  unfold writeHub
  (try dsimp only)
  repeat' split
  all_goals (first | done | (simp [apply_ite (fun x : State => x.pending)]; done) | rfl | (simp; rfl) | (refine foldl_pending _ ?_ _ _; intro a x; dsimp only; repeat' split; all_goals (first | done | simp | rfl)))

@[simp] theorem writeTcCtrl_pending (s : State) (n : Nat) (v : W32) : (writeTcCtrl s n v).pending = s.pending := by
  unfold writeTcCtrl
  (try dsimp only)
  repeat' split
  all_goals (first | done | (simp [apply_ite (fun x : State => x.pending)]; done) | rfl | (simp; rfl) | (refine foldl_pending _ ?_ _ _; intro a x; dsimp only; repeat' split; all_goals (first | done | simp | rfl)))

@[simp] theorem writeWeirCap_pending (s : State) (n : Nat) (v : W32) : (writeWeirCap s n v).pending = s.pending := by
  unfold writeWeirCap
  (try dsimp only)
  repeat' split
  all_goals (first | done | (simp [apply_ite (fun x : State => x.pending)]; done) | rfl | (simp; rfl) | (refine foldl_pending _ ?_ _ _; intro a x; dsimp only; repeat' split; all_goals (first | done | simp | rfl)))

@[simp] theorem writeTc_pending (s : State) (n o : Nat) (v : W32) : (writeTc s n o v).pending = s.pending := by
  unfold writeTc
  (try dsimp only)
  repeat' split
  all_goals (first | done | (simp [apply_ite (fun x : State => x.pending)]; done) | rfl | (simp; rfl) | (refine foldl_pending _ ?_ _ _; intro a x; dsimp only; repeat' split; all_goals (first | done | simp | rfl)))

@[simp] theorem writeVlCtrl_pending (s : State) (d : Nat) (v : W32) : (writeVlCtrl s d v).pending = s.pending := by
  unfold writeVlCtrl
  (try dsimp only)
  repeat' split
  all_goals (first | done | (simp [apply_ite (fun x : State => x.pending)]; done) | rfl | (simp; rfl) | (refine foldl_pending _ ?_ _ _; intro a x; dsimp only; repeat' split; all_goals (first | done | simp | rfl)))

@[simp] theorem writeBitslip_pending (s : State) (d : Nat) (v : W32) : (writeBitslip s d v).pending = s.pending := by
  unfold writeBitslip
  (try dsimp only)
  repeat' split
  all_goals (first | done | (simp [apply_ite (fun x : State => x.pending)]; done) | rfl | (simp; rfl) | (refine foldl_pending _ ?_ _ _; intro a x; dsimp only; repeat' split; all_goals (first | done | simp | rfl)))

@[simp] theorem writeClkdiv_pending (s : State) (d : Nat) (v : W32) : (writeClkdiv s d v).pending = s.pending := by
  unfold writeClkdiv
  (try dsimp only)
  repeat' split
  all_goals (first | done | (simp [apply_ite (fun x : State => x.pending)]; done) | rfl | (simp; rfl) | (refine foldl_pending _ ?_ _ _; intro a x; dsimp only; repeat' split; all_goals (first | done | simp | rfl)))

@[simp] theorem writeDie_pending (s : State) (d o : Nat) (v : W32) : (writeDie s d o v).pending = s.pending := by
  unfold writeDie
  (try dsimp only)
  repeat' split
  all_goals (first | done | (simp [apply_ite (fun x : State => x.pending)]; done) | rfl | (simp; rfl) | (refine foldl_pending _ ?_ _ _; intro a x; dsimp only; repeat' split; all_goals (first | done | simp | rfl)))

@[simp] theorem writeSeq_pending (s : State) (d o : Nat) (v : W32) : (writeSeq s d o v).pending = s.pending := by
  unfold writeSeq
  (try dsimp only)
  repeat' split
  all_goals (first | done | (simp [apply_ite (fun x : State => x.pending)]; done) | rfl | (simp; rfl) | (refine foldl_pending _ ?_ _ _; intro a x; dsimp only; repeat' split; all_goals (first | done | simp | rfl)))

@[simp] theorem wideReq_pending (s : State) (req : Nat) : (wideReq s req).pending = s.pending := by
  unfold wideReq
  (try dsimp only)
  repeat' split
  all_goals (first | done | (simp [apply_ite (fun x : State => x.pending)]; done) | rfl | (simp; rfl) | (refine foldl_pending _ ?_ _ _; intro a x; dsimp only; repeat' split; all_goals (first | done | simp | rfl)))

@[simp] theorem writeOwn_pending (s : State) (req o : Nat) (v : W32) : (writeOwn s req o v).pending = s.pending := by
  unfold writeOwn
  (try dsimp only)
  repeat' split
  all_goals (first | done | (simp [apply_ite (fun x : State => x.pending)]; done) | rfl | (simp; rfl) | (refine foldl_pending _ ?_ _ _; intro a x; dsimp only; repeat' split; all_goals (first | done | simp | rfl)))

@[simp] theorem writeReg_pending (s : State) (k : Nat) (v : W32) : (writeReg s k v).pending = s.pending := by
  unfold writeReg
  (try dsimp only)
  repeat' split
  all_goals (first | done | (simp [apply_ite (fun x : State => x.pending)]; done) | rfl | (simp; rfl) | (refine foldl_pending _ ?_ _ _; intro a x; dsimp only; repeat' split; all_goals (first | done | simp | rfl)))

@[simp] theorem touch_pending (s : State) (slow : Option (Nat × Nat)) (p : RegPlace) (write : Bool) (v : W32) (c : Nat) : (touch s slow p write v c).st.pending = s.pending := by
  unfold touch; (try dsimp only); repeat' split
  all_goals (first | rfl | simp)

@[simp] theorem touchInd_pending (s : State) (slow : Option (Nat × Nat)) (req : Nat) (write : Bool) (v : W32) : (touchInd s slow req write v).st.pending = s.pending := by
  unfold touchInd; (try dsimp only); repeat' split
  all_goals (first | rfl | simp)

@[simp] theorem half_pending (s : State) (slow : Option (Nat × Nat)) (req off : Nat) (write : Bool) (v : W32) : (half s slow req off write v).st.pending = s.pending := by
  unfold half; (try dsimp only); repeat' split
  all_goals (first | rfl | simp)

@[simp] theorem busError_pending (s : State) (req off : Nat) (write : Bool) (cause ind : Nat) : (busError s req off write cause ind).pending = s.pending := by
  unfold busError
  (try dsimp only)
  repeat' split
  all_goals (first | done | (simp [apply_ite (fun x : State => x.pending)]; done) | rfl | (simp; rfl) | (refine foldl_pending _ ?_ _ _; intro a x; dsimp only; repeat' split; all_goals (first | done | simp | rfl)))

@[simp] theorem carryOut_pending (s : State) (slow : Option (Nat × Nat)) (req : Nat) (write : Bool) (got : List Byte) (l : List (Nat × W32)) : (carryOut s slow req write got l).pending = s.pending := by
  induction l generalizing s slow got with
  | nil => unfold carryOut; split <;> first | rfl | simp
  | cons e r ih =>
    unfold carryOut; dsimp only; split
    · rw [busError_pending, half_pending]
    · rw [ih, half_pending]

@[simp] theorem access_pending (s : State) (slow : Option (Nat × Nat)) (a : BusAccess) : (access s slow a).pending = s.pending := by
  unfold access
  (try dsimp only)
  repeat' split
  all_goals (first | done | (simp [apply_ite (fun x : State => x.pending)]; done) | rfl | (simp; rfl) | (refine foldl_pending _ ?_ _ _; intro a x; dsimp only; repeat' split; all_goals (first | done | simp | rfl)))

@[simp] theorem write32_pending (s : State) (req : Fin 3) (off : Nat) (v : W32) : (write32 s req off v).pending = s.pending := by
  unfold write32
  (try dsimp only)
  repeat' split
  all_goals (first | done | (simp [apply_ite (fun x : State => x.pending)]; done) | rfl | (simp; rfl) | (refine foldl_pending _ ?_ _ _; intro a x; dsimp only; repeat' split; all_goals (first | done | simp | rfl)))

@[simp] theorem setBit_pending (s : State) (req : Fin 3) (off i : Nat) : (setBit s req off i).pending = s.pending := by
  unfold setBit
  (try dsimp only)
  repeat' split
  all_goals (first | done | (simp [apply_ite (fun x : State => x.pending)]; done) | rfl | (simp; rfl) | (refine foldl_pending _ ?_ _ _; intro a x; dsimp only; repeat' split; all_goals (first | done | simp | rfl)))

@[simp] theorem clearBit_pending (s : State) (req : Fin 3) (off i : Nat) : (clearBit s req off i).pending = s.pending := by
  unfold clearBit
  (try dsimp only)
  repeat' split
  all_goals (first | done | (simp [apply_ite (fun x : State => x.pending)]; done) | rfl | (simp; rfl) | (refine foldl_pending _ ?_ _ _; intro a x; dsimp only; repeat' split; all_goals (first | done | simp | rfl)))

end Sys2Proof.Machine
end

