-- ==== Sys2Proof/Laws/Maps.lean ====
section
/-! SUPPORT. The laws of the sparse tables: what is read after an entry is put, set to its default or removed, and that every
operation keeps keys rising and a memory in its canonical form. -/

namespace Sys2Proof.Machine

variable {α : Type}

/-! ## Reading after writing -/

@[simp] theorem mget_nil (d : α) (k : Nat) : mget d [] k = d := rfl

@[simp] theorem mget_mput_same (d : α) (m : SMap α) (k : Nat) (v : α) : mget d (mput m k v) k = v := by
  induction m with
  | nil => simp [mput, mget]
  | cons e r ih =>
    obtain ⟨k', v'⟩ := e
    by_cases h : k = k'
    · subst h; simp [mput, mget]
    · by_cases h2 : k < k'
      · simp [mput, mget, h, h2]
      · simp [mput, mget, h, h2, ih]

theorem mget_mput_ne (d : α) (m : SMap α) {k j : Nat} (v : α) (h : j ≠ k) : mget d (mput m k v) j = mget d m j := by
  induction m with
  | nil => simp [mput, mget, h]
  | cons e r ih =>
    obtain ⟨k', v'⟩ := e
    by_cases h1 : k = k'
    · subst h1; simp [mput, mget, h]
    · by_cases h2 : k < k'
      · simp [mput, mget, h1, h2, h]
      · simp [mput, mget, h1, h2, ih]

theorem mget_mput (d : α) (m : SMap α) (k j : Nat) (v : α) : mget d (mput m k v) j = if j = k then v else mget d m j := by
  by_cases h : j = k
  · subst h; simp
  · simp [mget_mput_ne d m v h, h]

@[simp] theorem mget_mdel_same (d : α) (m : SMap α) (k : Nat) : mget d (mdel m k) k = d := by
  induction m with
  | nil => rfl
  | cons e r ih =>
    obtain ⟨k', v'⟩ := e
    unfold mdel at ih ⊢
    by_cases h : k' = k
    · simp [List.filter_cons, h, ih]
    · have h' : ¬ k = k' := fun q => h q.symm
      simp [List.filter_cons, h, mget, h', ih]

theorem mget_mdel_ne (d : α) (m : SMap α) {k j : Nat} (h : j ≠ k) : mget d (mdel m k) j = mget d m j := by
  induction m with
  | nil => rfl
  | cons e r ih =>
    obtain ⟨k', v'⟩ := e
    unfold mdel at ih ⊢
    by_cases h1 : k' = k
    · subst h1; simp [List.filter_cons, mget, h, ih]
    · by_cases h2 : j = k'
      · simp [List.filter_cons, h1, mget, h2]
      · simp [List.filter_cons, h1, mget, h2, ih]

variable [DecidableEq α]

@[simp] theorem mget_mset_same (d : α) (m : SMap α) (k : Nat) (v : α) : mget d (mset d m k v) k = v := by
  unfold mset; split
  · next h => subst h; simp
  · simp

theorem mget_mset_ne (d e : α) (m : SMap α) {k j : Nat} (v : α) (h : j ≠ k) : mget e (mset d m k v) j = mget e m j := by
  unfold mset; split
  · exact mget_mdel_ne e m h
  · exact mget_mput_ne e m v h

theorem mget_mset (d : α) (m : SMap α) (k j : Nat) (v : α) : mget d (mset d m k v) j = if j = k then v else mget d m j := by
  by_cases h : j = k
  · subst h; simp
  · simp [mget_mset_ne d d m v h, h]

omit [DecidableEq α] in
@[simp] theorem mget_mmod_same (d : α) (m : SMap α) (k : Nat) (f : α → α) : mget d (mmod d m k f) k = f (mget d m k) := by
  simp [mmod]

omit [DecidableEq α] in
theorem mget_mmod_ne (d e : α) (m : SMap α) {k j : Nat} (f : α → α) (h : j ≠ k) : mget e (mmod d m k f) j = mget e m j := by
  simp [mmod, mget_mput_ne e m _ h]

/-! ## The canonical form -/

/-- A lower bound of every key listed. -/
def keysAbove (b : Nat) (m : SMap α) : Prop := ∀ p ∈ m, b < p.1

omit [DecidableEq α] in
theorem keysRise_cons (k : Nat) (v : α) (r : SMap α) : keysRise ((k, v) :: r) = true ↔ keysAbove k r ∧ keysRise r = true := by
  induction r generalizing k v with
  | nil => simp [keysRise, keysAbove]
  | cons e r ih =>
    obtain ⟨k', v'⟩ := e
    simp only [keysRise, Bool.and_eq_true, decide_eq_true_eq]
    constructor
    · rintro ⟨h1, h2⟩
      refine ⟨?_, h2⟩
      intro p hp
      rcases List.mem_cons.mp hp with h | h
      · subst h; exact h1
      · exact Nat.lt_trans h1 (((ih k' v').mp h2).1 p h)
    · rintro ⟨h1, h2⟩
      exact ⟨h1 (k', v') (by simp), h2⟩

omit [DecidableEq α] in
theorem mem_mput {m : SMap α} {k : Nat} {v : α} {p : Nat × α} (h : p ∈ mput m k v) : p = (k, v) ∨ p ∈ m := by
  induction m with
  | nil => simp [mput] at h; exact Or.inl h
  | cons e r ih =>
    obtain ⟨k', v'⟩ := e
    unfold mput at h
    split at h
    · rcases List.mem_cons.mp h with h | h
      · exact Or.inl h
      · exact Or.inr (List.mem_cons_of_mem _ h)
    · split at h
      · rcases List.mem_cons.mp h with h | h
        · exact Or.inl h
        · exact Or.inr h
      · rcases List.mem_cons.mp h with h | h
        · exact Or.inr (h ▸ List.mem_cons_self ..)
        · rcases ih h with h | h
          · exact Or.inl h
          · exact Or.inr (List.mem_cons_of_mem _ h)

omit [DecidableEq α] in
theorem mput_rise {m : SMap α} (k : Nat) (v : α) (h : keysRise m = true) : keysRise (mput m k v) = true := by
  induction m with
  | nil => rfl
  | cons e r ih =>
    obtain ⟨k', v'⟩ := e
    have hr := (keysRise_cons k' v' r).mp h
    unfold mput
    split
    · next e => subst e; exact (keysRise_cons k v r).mpr hr
    · next hne =>
      split
      · next hlt =>
        refine (keysRise_cons k v _).mpr ⟨?_, h⟩
        intro p hp
        rcases List.mem_cons.mp hp with q | q
        · subst q; exact hlt
        · exact Nat.lt_trans hlt (hr.1 p q)
      · next hge =>
        refine (keysRise_cons k' v' _).mpr ⟨?_, ih hr.2⟩
        intro p hp
        rcases mem_mput hp with q | q
        · subst q; simp only; omega
        · exact hr.1 p q

omit [DecidableEq α] in
theorem mdel_rise {m : SMap α} (k : Nat) (h : keysRise m = true) : keysRise (mdel m k) = true := by
  induction m with
  | nil => rfl
  | cons e r ih =>
    obtain ⟨k', v'⟩ := e
    have hr := (keysRise_cons k' v' r).mp h
    have hi := ih hr.2
    unfold mdel at hi ⊢
    by_cases q : k' = k
    · simpa [List.filter_cons, q] using hi
    · have e : List.filter (fun p : Nat × α => p.1 != k) ((k', v') :: r) = (k', v') :: List.filter (fun p => p.1 != k) r := by
        simp [List.filter_cons, q]
      rw [e]
      exact (keysRise_cons k' v' _).mpr ⟨fun p hp => hr.1 p (List.mem_filter.mp hp).1, hi⟩

theorem memWf_iff (d : α) (m : SMap α) : memWf d m = true ↔ keysRise m = true ∧ ∀ p ∈ m, p.2 ≠ d := by
  simp [memWf, List.all_eq_true]

/-- A memory write keeps the canonical form. -/
theorem mset_wf {d : α} {m : SMap α} (k : Nat) (v : α) (h : memWf d m = true) : memWf d (mset d m k v) = true := by
  rw [memWf_iff] at h ⊢
  unfold mset
  split
  · exact ⟨mdel_rise k h.1, fun p hp => h.2 p (List.mem_filter.mp hp).1⟩
  · next hv =>
    refine ⟨mput_rise k v h.1, fun p hp => ?_⟩
    rcases mem_mput hp with q | q
    · subst q; exact hv
    · exact h.2 p q

/-- Removing an entry keeps the canonical form. -/
theorem mdel_wf {d : α} {m : SMap α} (k : Nat) (h : memWf d m = true) : memWf d (mdel m k) = true := by
  rw [memWf_iff] at h ⊢
  exact ⟨mdel_rise k h.1, fun p hp => h.2 p (List.mem_filter.mp hp).1⟩

/-- A memory that lists nothing is in canonical form. -/
theorem nil_wf (d : α) : memWf d ([] : SMap α) = true := rfl

/-- Writes in order keep the canonical form. -/
theorem foldl_mset_wf {β : Type} {d : α} (key : β → Nat) (val : β → α) (l : List β) {m : SMap α} (h : memWf d m = true) :
    memWf d (l.foldl (fun a e => mset d a (key e) (val e)) m) = true := by
  induction l generalizing m with
  | nil => exact h
  | cons e r ih => exact ih (mset_wf (key e) (val e) h)

end Sys2Proof.Machine
end

