-- ==== Sys2Proof/Laws/Regs.lean ====
section
/-! SUPPORT. The laws of register words: what a field, a flag or a whole register reads as after a write of the same or of another
field or register. -/

namespace Sys2Proof.Machine

/-! ## Fields of a word -/

theorem testBit_bitsOf (x lo len i : Nat) : (bitsOf x lo len).testBit i = (decide (i < len) && x.testBit (lo + i)) := by
  unfold bitsOf
  rw [Nat.testBit_mod_two_pow, Nat.testBit_shiftRight]

theorem putBits_bit (w : W32) (lo len v j : Nat) (hj : j < 32) :
    (putBits w lo len v).getLsbD j = if lo ≤ j ∧ j < lo + len then v.testBit (j - lo) else w.getLsbD j := by
  unfold putBits
  simp only [BitVec.getLsbD_or, BitVec.getLsbD_and, BitVec.getLsbD_not, BitVec.getLsbD_ofNat, Nat.testBit_mul_two_pow,
    Nat.testBit_two_pow_sub_one, Nat.testBit_mod_two_pow]
  by_cases h1 : lo ≤ j
  · by_cases h2 : j < lo + len
    · have h3 : j - lo < len := by omega
      simp [h1, h2, h3, hj]
    · have h3 : ¬ j - lo < len := by omega
      simp [h1, h2, h3, hj]
  · simp [h1, hj]

/-- The field written reads as what was written. -/
theorem bitsOf_putBits (w : W32) {lo len : Nat} (v : Nat) (h : lo + len ≤ 32) :
    bitsOf (putBits w lo len v).toNat lo len = v % 2 ^ len := by
  apply Nat.eq_of_testBit_eq
  intro i
  rw [testBit_bitsOf, Nat.testBit_mod_two_pow]
  by_cases hi : i < len
  · have := putBits_bit w lo len v (lo + i) (by omega)
    rw [BitVec.getLsbD] at this
    simp [hi, this]
  · simp [hi]

/-- A field apart from the one written reads as before. -/
theorem bitsOf_putBits_ne (w : W32) {lo len lo' len' : Nat} (v : Nat) (h' : lo' + len' ≤ 32) (h : lo' + len' ≤ lo ∨ lo + len ≤ lo') :
    bitsOf (putBits w lo len v).toNat lo' len' = bitsOf w.toNat lo' len' := by
  apply Nat.eq_of_testBit_eq
  intro i
  rw [testBit_bitsOf, testBit_bitsOf]
  by_cases hi : i < len'
  · have := putBits_bit w lo len v (lo' + i) (by omega)
    rw [BitVec.getLsbD, if_neg (by omega)] at this
    simp [hi, this, BitVec.getLsbD]
  · simp [hi]

/-! ## Registers -/

@[simp] theorem raw_setRaw_same (s : State) (k : Nat) (v : W32) : raw (setRaw s k v) k = v := by simp [raw]

theorem raw_setRaw_ne (s : State) {k j : Nat} (v : W32) (h : j ≠ k) : raw (setRaw s k v) j = raw s j := by
  simp [raw, mget_mset_ne _ _ _ _ h]

@[simp] theorem raw_setFld_same (s : State) (k lo len v : Nat) : raw (setFld s k lo len v) k = putBits (raw s k) lo len v := by
  simp [setFld]

theorem raw_setFld_ne (s : State) {k j : Nat} (lo len v : Nat) (h : j ≠ k) : raw (setFld s k lo len v) j = raw s j :=
  raw_setRaw_ne s _ h

theorem raw_setFlag_ne (s : State) {k j : Nat} (i : Nat) (b : Bool) (h : j ≠ k) : raw (setFlag s k i b) j = raw s j :=
  raw_setRaw_ne s _ h

theorem raw_bump_ne (s : State) {k j : Nat} (lo len n : Nat) (h : j ≠ k) : raw (bump s k lo len n) j = raw s j :=
  raw_setRaw_ne s _ h

/-- A state whose registers are the same reads the same. -/
theorem raw_congr {s t : State} (h : s.regs = t.regs) (k : Nat) : raw s k = raw t k := by simp [raw, h]

theorem fld_congr {s t : State} (h : s.regs = t.regs) (k lo len : Nat) : fld s k lo len = fld t k lo len := by
  simp [fld, raw_congr h]

theorem flag_congr {s t : State} (h : s.regs = t.regs) (k i : Nat) : flag s k i = flag t k i := by simp [flag, fld_congr h]

theorem fld_setFld_same (s : State) {k lo len : Nat} (v : Nat) (h : lo + len ≤ 32) :
    fld (setFld s k lo len v) k lo len = v % 2 ^ len := by
  simp [fld, bitsOf_putBits _ v h]

theorem fld_setFld_field (s : State) {k lo len lo' len' : Nat} (v : Nat) (h' : lo' + len' ≤ 32)
    (h : lo' + len' ≤ lo ∨ lo + len ≤ lo') : fld (setFld s k lo len v) k lo' len' = fld s k lo' len' := by
  simp [fld, bitsOf_putBits_ne _ v h' h]

theorem fld_setFld_ne (s : State) {k j : Nat} (lo len v lo' len' : Nat) (h : j ≠ k) :
    fld (setFld s k lo len v) j lo' len' = fld s j lo' len' := by simp [fld, raw_setFld_ne s lo len v h]

theorem fld_setRaw_ne (s : State) {k j : Nat} (v : W32) (lo' len' : Nat) (h : j ≠ k) :
    fld (setRaw s k v) j lo' len' = fld s j lo' len' := by simp [fld, raw_setRaw_ne s v h]

theorem flag_setFlag_same (s : State) {k i : Nat} (b : Bool) (h : i < 32) : flag (setFlag s k i b) k i = b := by
  unfold flag setFlag
  rw [fld_setFld_same s (b2n b) (by omega)]
  cases b <;> rfl

theorem flag_setFlag_bit (s : State) {k i j : Nat} (b : Bool) (hj : j < 32) (h : j ≠ i) :
    flag (setFlag s k i b) k j = flag s k j := by
  unfold flag setFlag
  rw [fld_setFld_field s (b2n b) (by omega) (by omega)]

theorem flag_setFlag_ne (s : State) {k j : Nat} (i : Nat) (b : Bool) (i' : Nat) (h : j ≠ k) :
    flag (setFlag s k i b) j i' = flag s j i' := by
  simp [flag, setFlag, fld_setFld_ne s i 1 (b2n b) i' 1 h]

theorem flag_setFld_ne (s : State) {k j : Nat} (lo len v i : Nat) (h : j ≠ k) :
    flag (setFld s k lo len v) j i = flag s j i := by
  simp [flag, fld_setFld_ne s lo len v i 1 h]

theorem flag_setFld_field (s : State) {k lo len i : Nat} (v : Nat) (hi : i < 32) (h : i < lo ∨ lo + len ≤ i) :
    flag (setFld s k lo len v) k i = flag s k i := by
  unfold flag
  rw [fld_setFld_field s v (by omega) (by omega)]

/-- A saturating count after it is raised. -/
theorem fld_bump_same (s : State) {k lo len : Nat} (n : Nat) (h : lo + len ≤ 32) :
    fld (bump s k lo len n) k lo len = min (fld s k lo len + n) (2 ^ len - 1) := by
  unfold bump
  rw [fld_setFld_same s _ h]
  have : 0 < 2 ^ len := Nat.pow_pos (by omega)
  exact Nat.mod_eq_of_lt (by omega)

theorem fld_bump_ne (s : State) {k j : Nat} (lo len n lo' len' : Nat) (h : j ≠ k) :
    fld (bump s k lo len n) j lo' len' = fld s j lo' len' := fld_setFld_ne s _ _ _ _ _ h

/-! ## Units -/

@[simp] theorem dieOf_modDie_same (s : State) (d : Nat) (f : DieSt → DieSt) : dieOf (modDie s d f) d = f (dieOf s d) := by
  simp [dieOf]

theorem dieOf_modDie_ne (s : State) {d e : Nat} (f : DieSt → DieSt) (h : e ≠ d) : dieOf (modDie s d f) e = dieOf s e := by
  simp [dieOf, mget_mmod_ne _ _ _ _ h]

@[simp] theorem tileOf_modTile_same (s : State) (d p : Nat) (f : Tile → Tile) : tileOf (modTile s d p f) d p = f (tileOf s d p) := by
  simp [tileOf]

/-- Two tiles of the dies have different keys. -/
theorem tileKey_inj {d d' p p' : Nat} (hp : p < 136) (hp' : p' < 136) (h : tileKey d p = tileKey d' p') : d = d' ∧ p = p' := by
  unfold tileKey at h; omega

theorem tileOf_modTile_ne (s : State) {d p d' p' : Nat} (f : Tile → Tile) (h : tileKey d' p' ≠ tileKey d p) :
    tileOf (modTile s d p f) d' p' = tileOf s d' p' := by
  simp [tileOf, mget_mmod_ne _ _ _ _ h]

@[simp] theorem tcOf_modTc_same (s : State) (n : Nat) (f : Tc → Tc) : tcOf (modTc s n f) n = f (tcOf s n) := by simp [tcOf]

theorem tcOf_modTc_ne (s : State) {n m : Nat} (f : Tc → Tc) (h : m ≠ n) : tcOf (modTc s n f) m = tcOf s m := by
  simp [tcOf, mget_mmod_ne _ _ _ _ h]

@[simp] theorem portOf_modPort_same (s : State) (d : Nat) (f : Port → Port) : portOf (modPort s d f) d = f (portOf s d) := by
  simp [portOf]

theorem portOf_modPort_ne (s : State) {d e : Nat} (f : Port → Port) (h : e ≠ d) : portOf (modPort s d f) e = portOf s e := by
  simp [portOf, mget_mmod_ne _ _ _ _ h]

@[simp] theorem mfind_mput_same {α : Type} (m : SMap α) (k : Nat) (v : α) : mfind (mput m k v) k = some v := by
  induction m with
  | nil => simp [mput, mfind]
  | cons e r ih =>
    obtain ⟨k', v'⟩ := e
    by_cases h : k = k'
    · subst h; simp [mput, mfind]
    · by_cases h2 : k < k'
      · simp [mput, mfind, h, h2]
      · simp [mput, mfind, h, h2, ih]

theorem mfind_mput_ne {α : Type} (m : SMap α) {k j : Nat} (v : α) (h : j ≠ k) : mfind (mput m k v) j = mfind m j := by
  induction m with
  | nil => simp [mput, mfind, h]
  | cons e r ih =>
    obtain ⟨k', v'⟩ := e
    by_cases h1 : k = k'
    · subst h1; simp [mput, mfind, h]
    · by_cases h2 : k < k'
      · simp [mput, mfind, h1, h2, h]
      · simp [mput, mfind, h1, h2, ih]

theorem opOf_modOp_same {s : State} {k : Nat} {o : Op} (h : opOf s k = some o) (f : Op → Op) :
    opOf (modOp s k f) k = some (f o) := by
  unfold opOf at h ⊢
  simp [modOp, h]

theorem opOf_modOp_ne (s : State) {k j : Nat} (f : Op → Op) (h : j ≠ k) : opOf (modOp s k f) j = opOf s j := by
  unfold opOf modOp
  split
  · exact mfind_mput_ne _ _ h
  · rfl

theorem partOf_modPart_same {s : State} {n : Nat} {p : Partition} (h : partOf s n = some p) (f : Partition → Partition) :
    partOf (modPart s n f) n = some (f p) := by
  unfold partOf at h ⊢
  simp [modPart, h]

theorem partOf_modPart_ne (s : State) {n m : Nat} (f : Partition → Partition) (h : m ≠ n) :
    partOf (modPart s n f) m = partOf s m := by
  unfold partOf modPart
  split
  · exact mfind_mput_ne _ _ h
  · rfl

end Sys2Proof.Machine
end

