-- ==== Sys2Proof/Laws/Issue.lean ====
section
/-! SUPPORT. What the issue of a word does, once for every word: the answer of the issue stage becomes the tile's state. -/

namespace Sys2Proof.Machine

theorem opc_of_word (opc : BitVec 8) (w : BitVec 56) : ((opc ++ w : BitVec 64) >>> 56).toNat = opc.toNat := by
  have h : ((opc ++ w : BitVec 64) >>> 56).toNat = (opc ++ w : BitVec 64).toNat >>> 56 := BitVec.toNat_ushiftRight ..
  rw [h, BitVec.toNat_append, Nat.shiftLeft_eq, ← Nat.shiftLeft_eq]
  have hw := w.isLt
  rw [← Nat.shiftLeft_add_eq_or_of_lt hw, Nat.shiftLeft_eq, Nat.shiftRight_eq_div_pow]
  omega

/-- The issue stage hands a word that is at issue to its meaning. -/
theorem stage_atIssue {s : State} {die : Die} {pt : PT} {opc : BitVec 8} {w : BitVec 56} (f : Tile → Issue)
    (h : AtIssue s die pt opc w) (ho : opcodeOk opc.toNat = true) :
    stage (mltNs s) opc w f (tileOf s die pt) = some (f (landedTile s die pt)) := by
  obtain ⟨h1, h2, h3, h4, h5, h6, h7⟩ := h
  have hr : isRunning (tileOf s die pt).seq = true := by rcases h1 with h | h <;> simp [isRunning, h]
  have hd : ¬ (0 < (tileOf s die pt).seq.delay ∧ (!delaySlotOk opc.toNat) = true) := by
    rintro ⟨a, b⟩
    rcases h7 with h | h
    · omega
    · simp [h] at b
  unfold stage
  simp only [hr, h3, h5, h6, opc_of_word, ho, landedTile, Bool.not_true, Bool.false_eq_true, if_false, false_or, ne_eq, not_true]
  rw [if_neg (by omega), if_neg hd]

theorem runWord_atIssue {s : State} {die : Die} {pt : PT} {opc : BitVec 8} {w : BitVec 56} (f : TileEnv → BitVec 56 → Tile → Issue)
    (h : AtIssue s die pt opc w) (ho : opcodeOk opc.toNat = true) {u : Tile}
    (hu : f (envOf s die pt (tileOf s die pt)) w (landedTile s die pt) = .ok u) :
    runWord opc f die pt w s =
      .next (if u.ended && !(tileOf s die pt).ended then reportEnd (sentWb s (withTile s die pt u) die pt (tileOf s die pt) u) die pt u
             else sentWb s (withTile s die pt u) die pt (tileOf s die pt) u) := by
  have hp := h.2.1
  have hs := stage_atIssue (f (envOf s die pt (tileOf s die pt)) w) h ho
  unfold runWord
  simp only [hp, Bool.false_eq_true, if_false]
  rw [hs, hu]
  rfl

/-- A word that issues no write-back sends nothing. -/
theorem sentWb_same {s v : State} {d p : Nat} {t u : Tile} (h : u.mem.wbs = t.mem.wbs) : sentWb s v d p t u = v := by
  simp [sentWb, h]

/-- A word that issues, sends no write-back and does not end the kernel changes its tile and nothing else. -/
theorem runWord_ok {s : State} {die : Die} {pt : PT} {opc : BitVec 8} {w : BitVec 56} (f : TileEnv → BitVec 56 → Tile → Issue)
    (h : AtIssue s die pt opc w) (ho : opcodeOk opc.toNat = true) {u : Tile}
    (hu : f (envOf s die pt (tileOf s die pt)) w (landedTile s die pt) = .ok u) (he : u.ended = (tileOf s die pt).ended)
    (hw : u.mem.wbs = (tileOf s die pt).mem.wbs) : runWord opc f die pt w s = .next (withTile s die pt u) := by
  rw [runWord_atIssue f h ho hu, he, sentWb_same hw]
  cases (tileOf s die pt).ended <;> simp

/-- The same with the outcome named: `ho` and `he` hold by computation. -/
theorem runWord_to {s : State} {die : Die} {pt : PT} {opc : BitVec 8} {w : BitVec 56} {f : TileEnv → BitVec 56 → Tile → Issue}
    {o : Out} {u : Tile} (h : AtIssue s die pt opc w) (hc : opcodeOk opc.toNat = true)
    (ho : o = .next (withTile s die pt u)) (he : u.ended = (tileOf s die pt).ended)
    (hu : f (envOf s die pt (tileOf s die pt)) w (landedTile s die pt) = .ok u) (hw : u.mem.wbs = (tileOf s die pt).mem.wbs := by rfl) :
    runWord opc f die pt w s = o := by
  rw [ho]; exact runWord_ok f h hc hu he hw

@[simp] theorem landedTile_ended (s : State) (die : Die) (pt : PT) : (landedTile s die pt).ended = (tileOf s die pt).ended := rfl
@[simp] theorem wordEnds_ended (t : Tile) : (wordEnds t).ended = t.ended := rfl
@[simp] theorem delivers_ended (t : Tile) (lat : Nat) (ds : List Dest) : (delivers t lat ds).ended = t.ended := rfl
@[simp] theorem addFlags_ended (t : Tile) (f : FlagSet) : (addFlags t f).ended = t.ended := rfl
theorem issued_eq (t : Tile) : issued t = .ok (wordEnds t) := rfl
theorem issued_later (t : Tile) (lat : Nat) (ds : List Dest) : issued (later t lat ds) = .ok (delivers t lat ds) := rfl
@[simp] theorem tileOf_withTile (s : State) (die : Die) (pt : PT) (t : Tile) : tileOf (withTile s die pt t) die pt = t := tileOf_modTile_same ..

end Sys2Proof.Machine
end

