-- ==== Sys2Proof/Laws/Memory.lean ====
section
/-! SUPPORT. Every operation that writes a memory keeps the memories in canonical form. -/

namespace Sys2Proof.Machine

variable {α : Type} [DecidableEq α]

/-- A memory with entries taken away stays canonical. -/
theorem filter_wf {d : α} {m : SMap α} (f : Nat × α → Bool) (h : memWf d m = true) : memWf d (m.filter f) = true := by
  rw [memWf_iff] at h ⊢
  refine ⟨?_, fun p hp => h.2 p (List.mem_filter.mp hp).1⟩
  have hk := h.1
  clear h
  induction m with
  | nil => rfl
  | cons e r ih =>
    obtain ⟨k, v⟩ := e
    obtain ⟨ha, hr⟩ := (keysRise_cons k v r).mp hk
    cases hf : f (k, v)
    · simpa [List.filter_cons, hf] using ih hr
    · rw [List.filter_cons_of_pos hf]
      exact (keysRise_cons k v _).mpr ⟨fun p hp => ha p (List.mem_filter.mp hp).1, ih hr⟩

/-- Bytes written one after another keep a memory canonical. -/
theorem bytes_wf {d : α} (b : List α) {m : SMap α} {a : Nat} (h : memWf d m = true) :
    memWf d (b.foldl (fun (q : SMap α × Nat) x => (mset d q.1 q.2 x, q.2 + 1)) (m, a)).1 = true := by
  induction b generalizing m a with
  | nil => exact h
  | cons x r ih => exact ih (mset_wf a x h)

/-! ## Tiles and dies -/

/-- The memories of a tile are in canonical form. -/
def tileWf (t : Tile) : Bool :=
  memWf 0 t.mem.obuf && memWf false t.mem.valid && memWf 0 t.mem.cist && memWf 0 t.mem.ctag && memWf {} t.mem.cdesc && memWf 0 t.seq.imem
/-- The memories of a die are in canonical form. -/
def dieWf (e : DieSt) : Bool := memWf 0 e.hbm.lines && (memWf 0 e.basin && mortarWf e.mortar)

theorem memory_wf_iff (s : State) : Memory.wf s = true ↔ memWf 0 s.host = true ∧ (∀ e ∈ s.tiles, tileWf e.2 = true) ∧
    (∀ e ∈ s.dies, dieWf e.2 = true) ∧ memWf 0xFF s.hub.bootFlash = true ∧ memWf 0xFF s.hub.hubFlash = true ∧
    memWf 0 s.hub.fabric.bram = true := by
  simp only [Memory.wf, tileWf, dieWf, Bool.and_eq_true, List.all_eq_true, and_assoc]

theorem tileWf_new : tileWf {} = true := rfl
theorem dieWf_new : dieWf {} = true := rfl
/-- At reset nothing is listed. -/
theorem reset_wf : Memory.wf State.reset = true := rfl

theorem mget_all {β : Type} {P : β → Prop} {d : β} {m : SMap β} (hd : P d) (h : ∀ e ∈ m, P e.2) (k : Nat) : P (mget d m k) := by
  induction m with
  | nil => exact hd
  | cons e r ih =>
    obtain ⟨k', v⟩ := e
    rw [mget]
    split
    · exact h (k', v) (by simp)
    · exact ih fun e he => h e (by simp [he])

theorem tileOf_wf {s : State} (h : Memory.wf s = true) (d p : Nat) : tileWf (tileOf s d p) = true :=
  mget_all (P := fun t => tileWf t = true) tileWf_new ((memory_wf_iff s).mp h).2.1 _
theorem dieOf_wf {s : State} (h : Memory.wf s = true) (d : Nat) : dieWf (dieOf s d) = true :=
  mget_all (P := fun e => dieWf e = true) dieWf_new ((memory_wf_iff s).mp h).2.2.1 _

/-- A change of a tile that keeps its memories canonical keeps all of them so. -/
theorem modTile_wf {s : State} (h : Memory.wf s = true) {d p : Nat} {f : Tile → Tile} (hf : tileWf (tileOf s d p) = true → tileWf (f (tileOf s d p)) = true) :
    Memory.wf (modTile s d p f) = true := by
  have ht := hf (tileOf_wf h d p)
  rw [memory_wf_iff] at h ⊢
  refine ⟨h.1, fun e he => ?_, h.2.2⟩
  rcases mem_mput he with q | q
  · rw [q]; exact ht
  · exact h.2.1 e q

/-- A change of a die that keeps its memories canonical keeps all of them so. -/
theorem modDie_wf {s : State} (h : Memory.wf s = true) {d : Nat} {f : DieSt → DieSt} (hf : dieWf (dieOf s d) = true → dieWf (f (dieOf s d)) = true) :
    Memory.wf (modDie s d f) = true := by
  have ht := hf (dieOf_wf h d)
  rw [memory_wf_iff] at h ⊢
  refine ⟨h.1, h.2.1, fun e he => ?_, h.2.2.2⟩
  rcases mem_mput he with q | q
  · rw [q]; exact ht
  · exact h.2.2.1 e q

/-! ## A tile's operand buffer, Cistern and IMEM -/

theorem wrLine_wf {t : Tile} (l : Nat) (x : Line) (h : tileWf t = true) : tileWf { t with mem := wrLine t.mem l x } = true := by
  simp only [tileWf, wrLine, Bool.and_eq_true] at h ⊢
  exact ⟨⟨⟨⟨⟨mset_wf _ _ h.1.1.1.1.1, mset_wf _ _ h.1.1.1.1.2⟩, h.1.1.1.2⟩, h.1.1.2⟩, h.1.2⟩, h.2⟩
theorem invalidate_wf {t : Tile} (a n : Nat) (h : tileWf t = true) : tileWf { t with mem := invalidate t.mem a n } = true := by
  simp only [tileWf, invalidate, Bool.and_eq_true] at h ⊢
  exact ⟨⟨⟨⟨⟨h.1.1.1.1.1, foldl_mset_wf (fun i => a + i) (fun _ => false) _ h.1.1.1.1.2⟩, h.1.1.1.2⟩, h.1.1.2⟩, h.1.2⟩, h.2⟩
theorem putElem_wf {t : Tile} (a bits i x : Nat) (h : tileWf t = true) : tileWf { t with mem := putElem t.mem a bits i x } = true := by
  simp only [tileWf, putElem, Bool.and_eq_true] at h ⊢
  exact ⟨⟨⟨⟨⟨mset_wf _ _ h.1.1.1.1.1, h.1.1.1.1.2⟩, h.1.1.1.2⟩, h.1.1.2⟩, h.1.2⟩, h.2⟩
theorem wrAcc_wf {t : Tile} (exact' : Bool) (u i : Nat) (a : Acc) (h : tileWf t = true) : tileWf { t with mem := wrAcc t.mem exact' u i a } = true := by
  simp only [tileWf, wrAcc, Bool.and_eq_true] at h ⊢
  cases exact' <;> simp only [Bool.false_eq_true, if_true, if_false, wrWord, wrTotal]
  · exact ⟨⟨⟨⟨⟨h.1.1.1.1.1, h.1.1.1.1.2⟩, mset_wf _ _ h.1.1.1.2⟩, mset_wf _ _ h.1.1.2⟩, h.1.2⟩, h.2⟩
  · exact ⟨⟨⟨⟨⟨h.1.1.1.1.1, h.1.1.1.1.2⟩, mset_wf _ _ (mset_wf _ _ h.1.1.1.2)⟩, mset_wf _ _ (mset_wf _ _ h.1.1.2)⟩, h.1.2⟩, h.2⟩
theorem setDescs_wf {t : Tile} (first n : Nat) (f : UnitDesc → UnitDesc) (h : tileWf t = true) : tileWf { t with mem := setDescs t.mem first n f } = true := by
  unfold setDescs
  generalize List.range n = l
  have : ∀ m : TileMem, tileWf { t with mem := m } = true →
      tileWf { t with mem := l.foldl (fun a i => { a with cdesc := mset {} a.cdesc (first + i) (f (descOf a (first + i))) }) m } = true := by
    induction l with
    | nil => exact fun m hm => hm
    | cons i r ih =>
      intro m hm
      refine ih _ ?_
      simp only [tileWf, Bool.and_eq_true] at hm ⊢
      exact ⟨⟨⟨⟨⟨hm.1.1.1.1.1, hm.1.1.1.1.2⟩, hm.1.1.1.2⟩, hm.1.1.2⟩, mset_wf _ _ hm.1.2⟩, hm.2⟩
  exact this t.mem h
/-- An IMEM image is in canonical form. -/
theorem imemOf_wf (b : List Byte) : memWf 0 (imemOf b) = true := by
  unfold imemOf
  exact foldl_mset_wf (fun i => i) (fun i => BitVec.ofNat 64 (fieldLe b (8 * i) 8)) _ (nil_wf 0)

/-! ## The stacks and the Basins -/

theorem hbmStore_wf {h : Hbm} (k : Nat) (x : Line) (mask : BitVec 64) (hw : memWf 0 h.lines = true) : memWf 0 (hbmStore h k x mask).lines = true := by
  unfold hbmStore
  split
  · exact mset_wf k x hw
  · split
    · exact hw
    · generalize mergeLine (mget 0 h.lines k) x mask = v
      exact mset_wf k v hw

theorem storeAt_wf {s : State} (d : Nat) (pl : Place) (x : Line) (h : Memory.wf s = true) : Memory.wf (storeAt s d pl x) = true := by
  unfold storeAt
  split
  · next k =>
    refine modDie_wf h fun hd => ?_
    have h1 := (Bool.and_eq_true _ _).mp hd
    refine (Bool.and_eq_true _ _).mpr ⟨?_, h1.2⟩
    dsimp only
    apply hbmStore_wf
    exact h1.1
  · next k =>
    refine modDie_wf h fun hd => ?_
    have h1 := (Bool.and_eq_true _ _).mp hd
    exact (Bool.and_eq_true _ _).mpr ⟨h1.1, (Bool.and_eq_true _ _).mpr ⟨mset_wf k x ((Bool.and_eq_true _ _).mp h1.2).1, ((Bool.and_eq_true _ _).mp h1.2).2⟩⟩
  · exact h

theorem writeLine_wf {s : State} (pn d addr : Nat) (x : Line) (h : Memory.wf s = true) : Memory.wf (writeLine s pn d addr x).2 = true := by
  have all : ∀ (l : List Nat) (pl : Place) (a : State), Memory.wf a = true → Memory.wf (l.foldl (fun a e => storeAt a e pl x) a) = true := by
    intro l pl
    induction l with
    | nil => exact fun a ha => ha
    | cons e r ih => exact fun a ha => ih _ (storeAt_wf e pl x ha)
  have dirty : ∀ a : State, Memory.wf a = true → Memory.wf (dirtyWeights a pn addr) = true := by
    intro a ha
    unfold dirtyWeights modPart
    split
    · exact ha
    · exact ha
  unfold writeLine
  split
  · exact h
  split
  · exact h
  split
  · exact h
  split
  · exact h
  dsimp only
  split
  · exact all _ _ _ (dirty _ (storeAt_wf _ _ _ h))
  · exact dirty _ (storeAt_wf _ _ _ h)

theorem storeLines_wf {s : State} (pn d addr : Nat) (xs : List Line) (h : Memory.wf s = true) : Memory.wf (storeLines s pn d addr xs) = true := by
  induction xs generalizing s addr with
  | nil => exact h
  | cons x r ih => exact ih _ (writeLine_wf pn d addr x h)

theorem writeLines_wf {s : State} (pn d addr : Nat) (xs : List Line) (h : Memory.wf s = true) : Memory.wf (writeLines s pn d addr xs).2 = true := by
  unfold writeLines
  split
  · exact storeLines_wf pn d addr xs h
  · exact h

/-! ## Host memory and the flashes -/

theorem hostWrite_wf {s : State} (a : Nat) (b : List Byte) (h : Memory.wf s = true) : Memory.wf (hostWrite s a b) = true := by
  rw [memory_wf_iff] at h ⊢
  exact ⟨bytes_wf b h.1, h.2⟩
theorem pageProgram_wf {s : State} (a : Nat) (b : List Byte) (h : Memory.wf s = true) : Memory.wf (pageProgram s a b) = true := by
  rw [memory_wf_iff] at h ⊢
  refine ⟨h.1, h.2.1, h.2.2.1, h.2.2.2.1, ?_, h.2.2.2.2.2⟩
  have all : ∀ (b : List Byte) (q : SMap Byte × Nat), memWf 0xFF q.1 = true →
      memWf 0xFF (b.foldl (fun (q : SMap Byte × Nat) x => (if q.2 < flashSize then mset 0xFF q.1 q.2 x else q.1, q.2 + 1)) q).1 = true := by
    intro b
    induction b with
    | nil => exact fun _ hq => hq
    | cons x r ih =>
      intro q hq
      refine ih _ ?_
      dsimp only
      split
      · exact mset_wf _ _ hq
      · exact hq
  exact all b (s.hub.hubFlash, a) h.2.2.2.2.1
theorem flashWrite_wf {s : State} (a : Nat) (b : List Byte) (h : Memory.wf s = true) : Memory.wf (flashWrite s a b) = true := by
  unfold flashWrite
  generalize flashPages a b = l
  induction l generalizing s with
  | nil => exact h
  | cons p r ih => exact ih (pageProgram_wf p.1 p.2 h)
theorem bootWrite_wf {s : State} (a : Nat) (b : List Byte) (h : Memory.wf s = true) : Memory.wf (bootWrite s a b) = true := by
  rw [memory_wf_iff] at h ⊢
  exact ⟨h.1, h.2.1, h.2.2.1, bytes_wf b h.2.2.2.1, h.2.2.2.2⟩

end Sys2Proof.Machine
end

