-- ==== Sys2Proof/Tests/Slice0.lean ====
section
/-! SUPPORT. Tests: what WellFormed refuses, for each statement a state and operands that meet its hypotheses, and results the spec gives. -/

namespace Sys2Proof.Tests
set_option Elab.async false
open Sys2Proof Sys2Proof.Machine

/-- Whether a command answers a next state that satisfies a test. -/
def after (c : Instr) (s : State) (f : State → Bool) : Bool := match exec c s with | .next u => f u | _ => false

/-! ## Words of the sequencer -/

/-- A word in the register format (05 R115). -/
def rf (d a b msel md imm : Nat) : BitVec 56 := BitVec.ofNat 56 (((((d * 32 + a) * 32 + b) * 8 + msel) * 64 + md) * 2 ^ 32 + imm)
/-- Words from address 0 on, as IMEM holds them. -/
def prog (l : List W64) : SMap W64 := ((List.range l.length).zip l).filter fun e => e.2 ≠ 0
/-- The module with tile PT0 of CD0 running a program. -/
def run (t : Tile) (l : List W64) : State := { State.reset with tiles := [(0, { t with seq := { t.seq with status := .run, imem := prog l } })] }
/-- A tile whose scalar registers are given from S1 on. -/
def sregs (l : List W32) : Tile := { seq := { sreg := Vector.ofFn fun i => if i.val = 0 then 0 else l.getD (i.val - 1) 0 } }
/-- A tile whose vector registers V0, V1, … hold in lane l the value of a function. -/
def vregs (l : List (Nat → W32)) : Tile := { seq := { vreg := Vector.ofFn fun i => Vector.ofFn fun n => (l.getD i.val fun _ => 0) n.val } }
/-- What has issued on PT0 and is still to land: slot counts and results. -/
def dues (u : State) : List (Nat × List Dest) := (tileOf u 0 0).seq.inflight.map fun e => (e.due, e.dests)
/-- Lane `l` of the vector that is to land first. -/
def lane (u : State) (l : Nat) : Option W32 := match dues u with | (_, .v _ _ x :: _) :: _ => x[l]? | _ => none

theorem witness_scalar_words : ∀ o ∈ [1, 2, 3, 4, 5, 6, 7, 8, 9, 10],
    scalarOk (rf 3 1 2 0 1 5) 1 = true ∧ AtIssue (run (sregs [7]) [BitVec.ofNat 8 o ++ rf 3 1 2 0 1 5]) 0 0 (BitVec.ofNat 8 o) (rf 3 1 2 0 1 5) := by
  unfold AtIssue; decide +kernel

/-- 05 R117, by hand: S1 = 7, S2 = −3. -/
theorem test_scalar_results :
    (let w := rf 3 1 2 0 0 0
     let s (o : Nat) : State := run (sregs [7, 0xFFFFFFFD]) [BitVec.ofNat 8 o ++ w]
     let gives (lat : Nat) (v : W32) (u : State) : Bool := dues u == [(lat, [.s 3 v])] && (tileOf u 0 0).seq.pc == 1
     after (.add 0 0 w) (s 1) (gives 1 4) && after (.sub 0 0 w) (s 2) (gives 1 10) && after (.and 0 0 w) (s 3) (gives 1 5) &&
     after (.or 0 0 w) (s 4) (gives 1 0xFFFFFFFF) && after (.xor 0 0 w) (s 5) (gives 1 0xFFFFFFFA) && after (.shl 0 0 w) (s 6) (gives 1 0xE0000000) &&
     after (.shr 0 0 w) (s 7) (gives 1 0) && after (.sra 0 0 w) (s 8) (gives 1 0) && after (.mul 0 0 w) (s 9) (gives 3 0xFFFFFFEB) &&
     after (.slt 0 0 w) (s 10) (gives 1 0)) = true := by decide +kernel

theorem witness_move_words :
    scalarOk (rf 1 0 0 0 0 9) 0 = true ∧ AtIssue (run {} []) 0 0 0x00 (rf 0 0 0 0 0 0) ∧ AtIssue (run {} [0x0B#8 ++ rf 1 0 0 0 0 9]) 0 0 0x0B (rf 1 0 0 0 0 9) ∧
    AtIssue (run {} [0x0C#8 ++ rf 1 15 0 0 0 63]) 0 0 0x0C (rf 1 15 0 0 0 63) := by unfold AtIssue; decide +kernel
theorem test_move_results :
    (after (.nop 0 0 0) (run {} []) (fun u => (tileOf u 0 0).seq.pc == 1) && after (.li 0 0 (rf 1 0 0 0 0 9)) (run {} [0x0B#8 ++ rf 1 0 0 0 0 9]) (fun u => dues u == [(1, [.s 1 9])]) &&
     after (.mfv 0 0 (rf 1 2 0 0 0 63)) (run (vregs [fun _ => 0, fun _ => 0, fun l => BitVec.ofNat 32 (l + 5)]) [0x0C#8 ++ rf 1 2 0 0 0 63]) (fun u => dues u == [(2, [.s 1 68])])) = true := by decide +kernel

/-- A result due now, for S5 and for S0, an error corrected or not; an uncorrectable one is a suspect event. -/
theorem test_result_lands : ∀ r ∈ [(0 : BitVec 5), 5], ∀ e ∈ [TileErr.clean, .corrected false],
    (let s : State := run { seq := { slot := 3, inflight := [⟨3, [.s r 0x1234]⟩] } } []
     (tileOf s 0 0).seq.inflight = [⟨3, [.s r 0x1234]⟩] ∧ 3 ≤ (tileOf s 0 0).seq.slot ∧ e ≠ .uncorrectable ∧ (tileOf s 0 0).part = none ∧
     after (.registerResultLand 0 0 e) s (fun u => rdS (tileOf u 0 0) r == (if r = 0 then 0 else 0x1234) && dues u == []) = true ∧
     after (.registerResultLand 0 0 .uncorrectable) s (fun u => flag u (hltB + 0x2200) 1 && dues u == [(3, [.s r 0x1234])]) = true) := by decide +kernel

theorem witness_vector_integer : ∀ o ∈ [0x70, 0x71, 0x72, 0x73, 0x74], ∀ m ∈ [0, 1, 2],
    (fD (rf 3 1 2 4 m 0)).toNat < 16 ∧ fMsel (rf 3 1 2 4 m 0) ≤ 4 ∧ fMod (rf 3 1 2 4 m 0) = m ∧
    AtIssue (run {} [BitVec.ofNat 8 o ++ rf 3 1 2 4 m 0]) 0 0 (BitVec.ofNat 8 o) (rf 3 1 2 4 m 0) := by unfold AtIssue; decide +kernel
/-- Lane 3 of V1 = −8 and V2 = 34. -/
theorem test_vector_integer :
    (let s (o m : Nat) : State := run (vregs [fun _ => 0, fun _ => 0xFFFFFFF8, fun _ => 34]) [BitVec.ofNat 8 o ++ rf 3 1 2 0 m 0]
     let w (m : Nat) : BitVec 56 := rf 3 1 2 0 m 0
     let gives (v : W32) (u : State) : Bool := lane u 3 == some v && !(tileOf u 0 0).nv
     after (.viadd 0 0 (w 0)) (s 0x70 0) (gives 26) && after (.visub 0 0 (w 0)) (s 0x71 0) (gives 0xFFFFFFD6) && after (.vimul 0 0 (w 0)) (s 0x72 0) (gives 0xFFFFFEF0) &&
     after (.vlogic 0 0 (w 0)) (s 0x73 0) (gives 32) && after (.vlogic 0 0 (w 1)) (s 0x73 1) (gives 0xFFFFFFFA) && after (.vlogic 0 0 (w 2)) (s 0x73 2) (gives 0xFFFFFFDA) &&
     after (.vshift 0 0 (w 0)) (s 0x74 0) (gives 0xFFFFFFE0) && after (.vshift 0 0 (w 1)) (s 0x74 1) (gives 0x3FFFFFFE) &&
     after (.vshift 0 0 (w 2)) (s 0x74 2) (gives 0xFFFFFFFE)) = true := by decide +kernel

theorem witness_vector_move : ∀ m ∈ [0, 1, 2, 3, 4],
    AtIssue (run {} [0x75#8 ++ rf 3 1 2 0 m 5]) 0 0 0x75 (rf 3 1 2 0 m 5) ∧ fMod (rf 3 1 2 0 m 5) ≤ 4 ∧
    AtIssue (run {} [0x76#8 ++ rf 3 1 0 0 0 0]) 0 0 0x76 (rf 3 1 0 0 0 0) ∧
    AtIssue (run {} [0x67#8 ++ rf 3 1 2 1 0 0]) 0 0 0x67 (rf 3 1 2 1 0 0) ∧ fMsel (rf 3 1 2 1 0 0) ≠ 0 := by unfold AtIssue; decide +kernel
/-- V1 = l, V2 = 100 + l: an even interleave puts lane 10 of A at lane 5, the rotation by 5 lane 4 at lane 63. -/
theorem test_vector_move :
    (let t : Tile := vregs [fun _ => 0, fun l => BitVec.ofNat 32 l, fun l => BitVec.ofNat 32 (100 + l)]
     let p (m : Nat) : BitVec 56 := rf 3 1 2 0 m 5
     let s (m : Nat) : State := run t [0x75#8 ++ p m]
     after (.vperm 0 0 (p 0)) (s 0) (fun u => lane u 5 == some 10 && lane u 37 == some 110) &&
     after (.vperm 0 0 (p 2)) (s 2) (fun u => lane u 10 == some 5 && lane u 11 == some 105) &&
     after (.vperm 0 0 (p 3)) (s 3) (fun u => lane u 10 == some 37) && after (.vperm 0 0 (p 4)) (s 4) (fun u => lane u 63 == some 4) &&
     after (.vbcast 0 0 (rf 3 1 0 0 0 0)) (run (sregs [42]) [0x76#8 ++ rf 3 1 0 0 0 0]) (fun u => lane u 63 == some 42) &&
     after (.vsel 0 0 (rf 3 1 2 1 0 0)) (run { t with seq := { t.seq with mreg := Vector.replicate 4 1 } } [0x67#8 ++ rf 3 1 2 1 0 0]) (fun u => lane u 0 == some 0 && lane u 1 == some 101)) = true := by
  decide +kernel

/-! ## Ill-formed operands, one for each check -/

/-- A sample of the governor with `j` junctions and `h` stacks. -/
def sampleOf (j h : Nat) : PwrSample := ⟨5000, 0, 0, 0, 0, 0, List.replicate j 0, List.replicate h 0⟩
/-- Whether a command is refused by WellFormed and stops by name. -/
def stopsAs (c : Instr) : Bool := !c.wellFormed && (match exec c State.reset with | .fault f => f == .illFormed | _ => false)
theorem test_ill_formed : stopsAs (.frameReceive 0 0 [(9, 0)]) = true ∧ stopsAs (.plumbTs 0 (List.replicate 8 0)) = true ∧ stopsAs (.sluiceRaise 0 [170]) = true ∧
    stopsAs (.governorInterval (sampleOf 16 16)) = true ∧ stopsAs (.governorInterval (sampleOf 17 15)) = true ∧
    stopsAs (.followUp 0 false 0 0 0 (List.replicate 41 0)) = true := by decide +kernel
theorem test_ill_formed_calibration (data : List Byte) (h : data.length = 65473) : stopsAs (.calibrationWrite data true) = true := by
  have h' : 65472 < data.length := by omega
  simp [stopsAs, Instr.wellFormed, exec, execCalibrationWrite, h]
theorem test_well_formed : Instr.wellFormed (.frameReceive 0 0 [(8, 0)]) = true ∧ Instr.wellFormed (.plumbTs 0 (List.replicate 9 0)) = true ∧
    Instr.wellFormed (.sluiceRaise 0 [169]) = true ∧ Instr.wellFormed (.governorInterval (sampleOf 17 16)) = true ∧
    Instr.wellFormed (.followUp 0 false 0 0 0 (List.replicate 42 0)) = true ∧ Instr.wellFormed (.followUp 0 true 0 0 0 []) = true := by decide +kernel
/-- The table gives no words. -/
theorem test_no_words : decodeTableWord 16 0 = none ∧ State.reset.withFetchWord 16 0 = State.reset := by decide +kernel

theorem witness_vector_compare : ∀ o ∈ [0x64, 0x65], ∀ m ∈ [0, 8],
    AtIssue (run {} [BitVec.ofNat 8 o ++ rf 3 1 15 0 m 0]) 0 0 (BitVec.ofNat 8 o) (rf 3 1 15 0 m 0) ∧ (fB (rf 3 1 15 0 m 0)).toNat < 16 ∧
    AtIssue (run {} [0x66#8 ++ rf 3 1 2 4 (m + 5) 0]) 0 0 0x66 (rf 3 1 2 4 (m + 5) 0) ∧ fMod (rf 3 1 2 4 (m + 5) 0) % 8 ≤ 5 ∧ (fD (rf 3 1 2 4 (m + 5) 0)).toNat < 4 := by
  unfold AtIssue; decide +kernel
/-- Lane 0: −1 and 1; lane 1: a NaN and 1.0; lane 2: 1.0 and 2.0. -/
theorem test_vector_compare :
    (let t : Tile := vregs [fun _ => 0, fun l => [0xFFFFFFFF, 0x7F800001, 0x3F800000].getD l 0, fun l => [1, 0x3F800000, 0x40000000].getD l 0]
     let s (o m : Nat) : State := run t [BitVec.ofNat 8 o ++ rf 3 1 2 0 m 0]
     let mask (u : State) : Option W64 := match dues u with | (_, [.m _ _ x]) :: _ => some x | _ => none
     after (.vmin 0 0 (rf 3 1 2 0 8 0)) (s 0x64 8) (fun u => lane u 0 == some 0xFFFFFFFF) && after (.vmax 0 0 (rf 3 1 2 0 8 0)) (s 0x65 8) (fun u => lane u 0 == some 1) &&
     after (.vmin 0 0 (rf 3 1 2 0 0 0)) (s 0x64 0) (fun u => lane u 1 == some 0x7FC00000 && lane u 2 == some 0x3F800000) &&
     after (.vmax 0 0 (rf 3 1 2 0 0 0)) (s 0x65 0) (fun u => lane u 2 == some 0x40000000) &&
     after (.vcmp 0 0 (rf 3 1 2 0 10 0)) (s 0x66 10) (fun u => (mask u).map (fun x => x.extractLsb' 0 3) == some 5) &&
     after (.vcmp 0 0 (rf 3 1 2 0 1 0)) (s 0x66 1) (fun u => (mask u).map (fun x => x.extractLsb' 0 4) == some 7)) = true := by decide +kernel

theorem witness_vector_float :
    (∀ o ∈ [0x60, 0x61, 0x62, 0x63, 0x6D], AtIssue (run {} [BitVec.ofNat 8 o ++ rf 3 1 2 0 0 0]) 0 0 (BitVec.ofNat 8 o) (rf 3 1 2 0 0 0)) ∧
    (∀ m ∈ [0, 1, 2, 3], AtIssue (run {} [0x6E#8 ++ rf 3 1 2 0 m 0]) 0 0 0x6E (rf 3 1 2 0 m 0)) ∧
    (∀ m ∈ [0, 8], ∀ f ∈ [0, 2, 6, 7], let w := rf 3 1 0 0 m (f * 8192)
      AtIssue (run {} [0x6F#8 ++ w]) 0 0 0x6F w ∧ iRsv w = false ∧ ofmtOk (iFmt w) = true ∧ iFmt w = f) := by unfold AtIssue; decide +kernel
/-- 1.0, 2.0 and 8.0, with 2.5 converted to INT8 (ties to even). -/
theorem test_vector_float :
    (let t : Tile := vregs [fun _ => 0, fun _ => 0x3F800000, fun _ => 0x40000000, fun _ => 0x41000000, fun _ => 0x40200000]
     let go (o a b m imm : Nat) (c : Die → PT → BitVec 56 → Instr) (v : W32) : Bool :=
       after (c 0 0 (rf 3 a b 0 m imm)) (run t [BitVec.ofNat 8 o ++ rf 3 a b 0 m imm]) (fun u => lane u 63 == some v)
     go 0x60 1 2 0 0 .vadd 0x40400000 && go 0x61 1 2 0 0 .vsub 0xBF800000 && go 0x62 2 2 0 0 .vmul 0x40800000 && go 0x63 1 2 0 0 .vfma 0x41200000 &&
     go 0x6D 1 0 0 0 .vrsum 0x42800000 && go 0x6E 2 0 0 0 .vfn 0x40800000 && go 0x6E 3 0 1 0 .vfn 0x40400000 && go 0x6E 2 0 2 0 .vfn 0x3F000000 &&
     go 0x6F 4 0 0 (2 * 8192) .vcvt 2) = true := by decide +kernel

theorem witness_complex : ∀ m ∈ [0, 1], AtIssue (run {} [0x68#8 ++ rf 4 2 14 0 m 0]) 0 0 0x68 (rf 4 2 14 0 m 0) ∧ (fD (rf 4 2 14 0 m 0)).toNat % 2 = 0 ∧
    AtIssue (run {} [0x68#8 ++ rf 5 2 14 0 m 0]) 0 0 0x68 (rf 5 2 14 0 m 0) ∧ (fD (rf 5 2 14 0 m 0)).toNat % 2 = 1 := by unfold AtIssue; decide +kernel
/-- (1 + 2i)·(1 + 2i) = −3 + 4i, and with B conjugated 5 + 0i. -/
theorem test_complex :
    (let t : Tile := vregs [fun _ => 0, fun _ => 0, fun _ => 0x3F800000, fun _ => 0x40000000]
     let both (u : State) : Option (W32 × W32) := match dues u with | [(_, [.v _ _ x, .v _ _ y])] => some (x.get 0, y.get 0) | _ => none
     after (.cmul 0 0 (rf 4 2 2 0 0 0)) (run t [0x68#8 ++ rf 4 2 2 0 0 0]) (fun u => both u == some (0xC0400000, 0x40800000)) &&
     after (.cmul 0 0 (rf 4 2 2 0 1 0)) (run t [0x68#8 ++ rf 4 2 2 0 1 0]) (fun u => both u == some (0x40A00000, 0)) &&
     after (.cmul 0 0 (rf 5 2 2 0 1 0)) (run t [0x68#8 ++ rf 5 2 2 0 1 0]) (fun u => (tileOf u 0 0).seq.status == .fault && (tileOf u 0 0).seq.faultCause == 0x0E)) = true := by
  decide +kernel

theorem witness_vector_search :
    (∀ o ∈ [0x69, 0x6A], ∀ m ∈ [0, 1, 8, 9], AtIssue (run {} [BitVec.ofNat 8 o ++ rf 2 1 2 4 m 0]) 0 0 (BitVec.ofNat 8 o) (rf 2 1 2 4 m 0) ∧
      (fD (rf 2 1 2 4 m 0)).toNat % 2 = 0 ∧ fMod (rf 2 1 2 4 m 0) % 2 + 8 * (fMod (rf 2 1 2 4 m 0) / 8 % 2) = fMod (rf 2 1 2 4 m 0)) ∧
    (∀ o ∈ [0x6B, 0x6C], ∀ m ∈ [0, 8], AtIssue (run {} [BitVec.ofNat 8 o ++ rf 30 14 0 0 m 0]) 0 0 (BitVec.ofNat 8 o) (rf 30 14 0 0 m 0) ∧
      (fA (rf 30 14 0 0 m 0)).toNat % 2 = 0) := by unfold AtIssue; decide +kernel
/-- The largest of the lanes l mod 7 is 6, first at lane 6; the candidate 6 of lane 6 replaces a best of 5. -/
theorem test_vector_search :
    (let t : Tile := vregs [fun l => BitVec.ofNat 32 (l % 7), fun l => BitVec.ofNat 32 l, fun _ => 5, fun _ => 1000]
     after (.rmaxi 0 0 (rf 30 0 0 0 8 0)) (run t [0x6B#8 ++ rf 30 0 0 0 8 0]) (fun u => dues u == [(8, [.s 30 6, .s 31 6])]) &&
     after (.rmini 0 0 (rf 30 0 0 0 8 0)) (run t [0x6C#8 ++ rf 30 0 0 0 8 0]) (fun u => dues u == [(8, [.s 30 0, .s 31 0])]) &&
     after (.vmaxi 0 0 (rf 2 0 3 0 9 0)) (run t [0x69#8 ++ rf 2 0 3 0 9 0]) (fun u => lane u 6 == some 6 && lane u 4 == some 5 && (dues u).getLast? == some (1, [.s 3 64])) &&
     after (.vmini 0 0 (rf 2 0 3 0 8 0)) (run t [0x6A#8 ++ rf 2 0 3 0 8 0]) (fun u => lane u 6 == some 5 && lane u 4 == some 4)) = true := by decide +kernel

/-- BR (05 R116): A, condition, target. -/
def brw (a cond tgt : Nat) : BitVec 56 := BitVec.ofNat 56 ((a * 8 + cond) * 2 ^ 48 + tgt)
/-- REP (05 R116): BODY − 1, whether the count is in A, COUNT − 1, A. -/
def repw (body : Nat) (fromReg : Bool) (count a : Nat) : BitVec 56 :=
  BitVec.ofNat 56 ((body - 1) * 2 ^ 50 + b2n fromReg * 2 ^ 49 + (count - 1) * 2 ^ 32 + a * 2 ^ 27)
theorem witness_branch : ∀ c ∈ [0, 1, 2, 3, 4], AtIssue (run {} [0x20#8 ++ brw 1 c 4095]) 0 0 0x20 (brw 1 c 4095) ∧ wf (brw 1 c 4095) 12 36 = 0 ∧
    wf (brw 1 c 4095) 48 3 = c := by unfold AtIssue; decide +kernel
/-- S1 = −1: taken on not zero and on negative; after its delay slots the PC is the target. -/
theorem test_branch :
    (let go (c : Nat) : Option (Option (BitVec 12)) := match exec (.br 0 0 (brw 1 c 9)) (run (sregs [0xFFFFFFFF]) [0x20#8 ++ brw 1 c 9]) with
       | .next u => some (tileOf u 0 0).seq.brTarget | _ => none
     go 0 == some (some 9) && go 1 == some none && go 2 == some (some 9) && go 3 == some (some 9) && go 4 == some none &&
     after (.nop 0 0 0) (run { seq := { delay := 1, brTarget := some 9 } } []) (fun u => (tileOf u 0 0).seq.pc == 9 && (tileOf u 0 0).seq.delay == 0)) = true := by decide +kernel
theorem witness_branch_delay : scalarOk 0 0 = true ∧ AtIssue (run { seq := { delay := 1, brTarget := some 9 } } []) 0 0 0 0 ∧
    (landedTile (run { seq := { delay := 1, brTarget := some 9 } } []) 0 0).seq.delay = 1 := by unfold AtIssue; decide +kernel

theorem witness_repeat : ∀ r ∈ [false, true], let w := repw 2 r 3 1; let s := run (sregs [8192]) [0x22#8 ++ w, 0, 0]
    AtIssue s 0 0 0x22 w ∧ wf w 45 4 = 0 ∧ wf w 0 27 = 0 ∧ (landedTile s 0 0).seq.pc.toNat + 2 ≤ 4095 := by unfold AtIssue; decide +kernel
theorem test_repeat :
    (let w := repw 2 false 3 0
     after (.rep 0 0 w) (run {} [0x22#8 ++ w, 0, 0]) (fun u => (tileOf u 0 0).seq.lact && (tileOf u 0 0).seq.lcnt == 3 && (tileOf u 0 0).seq.lend == 2 && (tileOf u 0 0).seq.pc == 1) &&
     (let w := repw 2 true 1 1; after (.rep 0 0 w) (run (sregs [0]) [0x22#8 ++ w, 0, 0]) (fun u => !(tileOf u 0 0).seq.lact && (tileOf u 0 0).seq.pc == 3)) &&
     after (.nop 0 0 0) (run { seq := { lact := true, lstart := 0, lend := 0, lcnt := 2 } } []) (fun u => (tileOf u 0 0).seq.pc == 0 && (tileOf u 0 0).seq.lcnt == 1)) = true := by decide +kernel
theorem witness_repeat_end : AtIssue (run { seq := { lact := true, lcnt := 2 } } []) 0 0 0 0 := by unfold AtIssue; decide +kernel

/-- A body with each of the four words; and one of 64 words from word 4,032 on. -/
theorem witness_repeat_bodies :
    (∀ o ∈ [0x20, 0x22, 0x23, 0x24], let w := repw 2 false 3 0
     let s := run {} [0x22#8 ++ w, 0, BitVec.ofNat 8 o ++ 0#56]
     AtIssue s 0 0 0x22 w ∧ o ∈ (List.range (wf w 50 6 + 1)).map (fun i => (imemAt (tileOf s 0 0).seq (BitVec.ofNat 12 (0 + 1 + i)) >>> 56).toNat) ∧
     after (.rep 0 0 w) s (fun u => (tileOf u 0 0).seq.status == .fault && (tileOf u 0 0).seq.faultCause == 0x0C) = true) ∧
    (let w := repw 64 false 3 0
     let s : State := { State.reset with tiles := [(0, { seq := { status := .run, pc := 4032, imem := [(4032, 0x22#8 ++ w)] } })] }
     AtIssue s 0 0 0x22 w ∧ 4095 < (tileOf s 0 0).seq.pc.toNat + (wf w 50 6 + 1) ∧
     after (.rep 0 0 w) s (fun u => (tileOf u 0 0).seq.status == .fault && (tileOf u 0 0).seq.faultCause == 0x0F) = true) := by unfold AtIssue; decide +kernel

theorem witness_wait_launch : ∀ e ∈ [false, true], AtIssue (run { seq := { evp := e } } [0x23#8 ++ 0#56]) 0 0 0x23 0 := by unfold AtIssue; decide +kernel
theorem test_wait_launch :
    (after (.wlch 0 0 0) (run { seq := { evp := true, launchTime := 77 } } [0x23#8 ++ 0#56]) (fun u => !(tileOf u 0 0).seq.evp && (tileOf u 0 0).seq.notBefore == 77) &&
     after (.wlch 0 0 0) (run {} [0x23#8 ++ 0#56]) (fun u => (tileOf u 0 0).seq.status == .wlch)) = true := by decide +kernel

/-- A partition on CD0 with bank 0, eight Basin lines and a weight range of 64 lines. -/
def blk : PartBlock := { span := 1, ltCount := 2, banks := 1, staging := 4, basin := 8, wCount := 64 }
/-- That partition, running on LT0 and LT1. -/
def prt : Partition := { blk := blk, cur := blk, tiles := [0, 1], bankDies := 1 }
/-- The operation of OPSEQ 0 of the normal ring of context 0. -/
def opr (opc : Nat) : Op := { life := 0, ctx := 0, express := false, opseq := 0, home := 0, part := 0, desc := leBytes 1 opc ++ leBytes 63 0 }
/-- The part of it that a tile runs. -/
def ctxp : PartCtx := { op := 0, part := 0, seed := 0, kernel := 0, lt := 0, homeDie := 0 }
/-- A state with partition 0 and an operation. -/
def inPart (s : State) (p : Partition) (o : Op) : State := { s with parts := [(0, p)], ops := [(0, o)] }

theorem witness_end :
    (let s := inPart (run { part := some ctxp, sat := true } [0x24#8 ++ 0#56]) prt { opr 1 with phase := .running }
     let t := landedTile s 0 0
     scalarOk 0 0 = true ∧ AtIssue s 0 0 0x24 0 ∧ t.mem.array = [] ∧ t.mem.wbs = [] ∧ t.seq.inflight = [] ∧ lockFull s 0 0 = false ∧ t.ended = false ∧ t.part = some ctxp ∧
       opOf s 0 = some { opr 1 with phase := .running } ∧
       after (.endKernel 0 0 0) s (fun u => (tileOf u 0 0).seq.status == .idle && (tileOf u 0 0).ended && ((opOf u 0).map (·.satSeen)) == some true) = true) ∧
    AtIssue (run { seq := { inflight := [⟨9, []⟩] } } [0x24#8 ++ 0#56]) 0 0 0x24 0 ∧
    (landedTile (run { seq := { inflight := [⟨9, []⟩] } } [0x24#8 ++ 0#56]) 0 0).seq.inflight ≠ [] := by unfold AtIssue; decide +kernel
/-- A partition whose lock-step partner's module no route leads to. -/
theorem witness_end_locked :
    (let s : State := { inPart (run { part := some ctxp } [0x24#8 ++ 0#56]) prt (opr 1) with pairs := [⟨0, 1, 3, [], []⟩] }
     AtIssue s 0 0 0x24 0 ∧ (landedTile s 0 0).part = some ctxp ∧ partOf s ctxp.part = some prt ∧ lockFull s 0 ctxp.part = true ∧
     after (.endKernel 0 0 0) s (fun u => (tileOf u 0 0).seq.status == .held && (tileOf u 0 0).seq.slot == 1) = true) := by unfold AtIssue; decide +kernel
/-- While a result is outstanding END holds, and the cycle counts as a slot. -/
theorem test_end_holds : after (.endKernel 0 0 0) (run { seq := { inflight := [⟨9, []⟩] } } [0x24#8 ++ 0#56])
    (fun u => (tileOf u 0 0).seq.status == .held && (tileOf u 0 0).seq.slot == 1 && (tileOf u 0 0).seq.pc == 0) = true := by decide +kernel

/-- ALLOC and FREE (05 R116): first unit, count. -/
def allocw (first count : Nat) : BitVec 56 := BitVec.ofNat 56 (first * 2 ^ 47 + (count - 1) * 2 ^ 38)
theorem witness_alloc : ∀ first ∈ [0, 510], ∀ has ∈ [[], [Alloc.mk true 0 4]],
    let s := run { mem := { allocs := has } } [0x30#8 ++ allocw first 2]
    AtIssue s 0 0 0x30 (allocw first 2) ∧ wf (allocw first 2) 0 38 = 0 ∧ (landedTile s 0 0).mem.allocs.length < 16 ∧ first + 2 ≤ 512 ∧
    (landedTile s 0 0).mem.allocs ++ [⟨false, first, 2⟩] = has ++ ⟨false, first, 2⟩ :: [] ∧ (∀ a ∈ has, a.grant = true) ∧
    after (.alloc 0 0 (allocw first 2)) s (fun u => (tileOf u 0 0).mem.allocs == has ++ [⟨decide (first = 510 ∨ has = []), first, 2⟩]) = true := by unfold AtIssue; decide +kernel
/-- The seventeenth allocation, and one that ends past the Cistern. -/
theorem witness_alloc_fault : ∀ x ∈ [(List.replicate 16 (Alloc.mk false 0 1), 0), ([], 511)],
    let s := run { mem := { allocs := x.1 } } [0x30#8 ++ allocw x.2 2]
    AtIssue s 0 0 0x30 (allocw x.2 2) ∧ wf (allocw x.2 2) 0 38 = 0 ∧ (16 ≤ (landedTile s 0 0).mem.allocs.length ∨ 512 < x.2 + 2) ∧
    after (.alloc 0 0 (allocw x.2 2)) s (fun u => (tileOf u 0 0).seq.status == .fault && (tileOf u 0 0).seq.faultCause == 0x0A) = true := by unfold AtIssue; decide +kernel
theorem witness_free : ∀ busy ∈ [false, true],
    let op : ArrayOp := ⟨.ew 0 [] [], 2, 11, 1, 1, 0, 0, []⟩
    let s := run { mem := { allocs := [⟨true, 0, 4⟩, ⟨true, 8, 4⟩], array := if busy then [op] else [] } } [0x31#8 ++ allocw 8 1]
    AtIssue s 0 0 0x31 (allocw 8 1) ∧ wf (allocw 8 1) 0 38 = 0 ∧ wf (allocw 8 1) 38 9 = 0 ∧
    (landedTile s 0 0).mem.allocs = [⟨true, 0, 4⟩] ++ ⟨true, 8, 4⟩ :: [] ∧ (landedTile s 0 0).mem.array.any (fun o => overlap o.acc o.units 8 4) = busy ∧
    after (.free 0 0 (allocw 8 1)) s (fun u => (tileOf u 0 0).mem.allocs == (if busy then [⟨true, 0, 4⟩, ⟨true, 8, 4⟩] else [⟨true, 0, 4⟩])) = true := by unfold AtIssue; decide +kernel

theorem witness_cistern_read : ∀ p ∈ [(1 : BitVec 2), 2], let w := rf 3 0 0 0 0 (6 * 8192 + (if p = 1 then 510 else 511))
    let s := run { mem := { cdesc := [(510, { path := p }), (511, { path := p })] } } [0x33#8 ++ w]
    AtIssue s 0 0 0x33 w ∧ iRsv w = false ∧ iFmt w = 6 ∧ (landedTile s 0 0).mem.array = [] ∧ (descOf (landedTile s 0 0).mem (iOff w)).path = p ∧
    iOff w + (if p = 1 then 2 else 1) ≤ 512 ∧ (∀ i, i < (if p = 1 then 2 else 1) → (descOf (landedTile s 0 0).mem (iOff w + i)).path ≠ 0) ∧
    after (.crd 0 0 w) s (fun u => lane u 5 == some 0) = true := by unfold AtIssue; decide +kernel
/-- 2.0 written with ZERO and added, on both paths, from a binary32 operand and an INT32 one. -/
theorem witness_cistern_write : ∀ md ∈ [0, 1, 2, 3, 4, 7], let w := rf 0 0 1 0 md 0
    let p : UnitDesc := { path := if md = 2 ∨ md = 3 ∨ md = 7 then 2 else 1 }
    let s := run { (vregs [fun _ => 0, fun _ => 0x40000000]) with mem := { cdesc := [(0, p), (1, p)] } } [0x34#8 ++ w]
    AtIssue s 0 0 0x34 w ∧ fMod w = md ∧ (fB w).toNat < 16 ∧ fMsel w ≤ 4 ∧ wf w 0 9 + 2 ≤ 512 ∧ (landedTile s 0 0).mem.array = [] ∧
    readingOver (landedTile s 0 0).mem 0 2 = false ∧ (∀ i, i < 2 → (descOf (landedTile s 0 0).mem (wf w 0 9 + i)) = p) ∧
    after (.cwr 0 0 w) s (fun u => (descOf (tileOf u 0 0).mem 0).path == p.path && mget 0 (tileOf u 0 0).mem.cist 1 != mget 0 (tileOf u 0 0).mem.cist 0) = decide (p.path = 1) := by
  unfold AtIssue; decide +kernel

/-- Lines valid from 0 on. -/
def validTo (n : Nat) : SMap Bool := (List.range n).map fun i => (i, true)
/-- WLD of a 64 × 8 INT8 block from line 0 (03 R80). -/
def wldw : BitVec 56 := BitVec.ofNat 56 (5 * 2 ^ 52 + 2 * 2 ^ 48)
theorem witness_wld : ∀ n ∈ [7, 8],
    (let s := run { mem := { valid := validTo n, obuf := [(0, 0x0201)] } } [0x41#8 ++ wldw]
     let t := landedTile s 0 0
     AtIssue s 0 0 0x41 wldw ∧ codesFault (wf wldw 13 3) (aShape wldw) (aFmt wldw) = none ∧ wf wldw 0 13 + wldLines wldw ≤ 8192 ∧ wldLines wldw = 8 ∧
     t.mem.rebuild = [] ∧ linesValid t.mem (wf wldw 0 13) (wldLines wldw) = decide (n = 8) ∧
     after (.wld 0 0 wldw) s (fun u => if n = 8 then ((tileOf u 0 0).mem.shadow.map fun b => (b.elems.take 3, b.complete)) == some ([1, 2, 0], false)
       else (tileOf u 0 0).seq.status == .held && (tileOf u 0 0).mem.waitOpnd == 1) = true) := by
  unfold AtIssue; decide +kernel
/-- MX of one row on that block: ZERO and SWAP where asked (03 R81). -/
def mxw (zero swap : Bool) : BitVec 56 := BitVec.ofNat 56 (5 * 2 ^ 52 + 2 * 2 ^ 48 + b2n zero * 2 ^ 46 + b2n swap * 2 ^ 45)
theorem witness_mx : ∀ zero ∈ [false, true], ∀ swap ∈ [false, true], let w := mxw zero swap
    let b : WBlock := ⟨wldw, List.replicate 512 1, true, []⟩
    let s := run { mem := { valid := validTo 1, active := if swap then none else some b, shadow := if swap then some b else none, allocs := [⟨true, 0, 4⟩],
                            cdesc := [(0, { path := 1 })] } } [0x40#8 ++ w]
    let t := landedTile s 0 0
    AtIssue s 0 0 0x40 w ∧ codesFault (wf w 42 3 + wf w 0 12) (aShape w) (aFmt w) = none ∧ t.mem.rebuild = [] ∧
    (if w.getLsbD 45 then t.mem.shadow else t.mem.active) = some b ∧ aShape b.word = aShape w ∧ aFmt b.word = aFmt w ∧ w.getLsbD 46 = zero ∧
    coveredBy (fun _ => true) t.mem 0 1 = true ∧ (descOf t.mem 0).path = fmtPath (aFmt w) ∧ fmtExact (aFmt w) = true ∧ pendingOver t.mem 0 1 = false ∧
    readingOver t.mem 0 1 = false ∧ t.mem.array = [] ∧ linesValid t.mem 0 1 = true ∧ b.complete = true ∧
    after (.mx 0 0 w) s (fun u => (tileOf u 0 0).mem.array.map (fun o => (o.units, o.rows, o.done)) == [(1, 1, 0)] && (tileOf u 0 0).mem.active == some b && (tileOf u 0 0).mem.shadow.isNone) = true := by
  unfold AtIssue; decide +kernel
/-- EW of one row, INT8 (03 R84): sources at lines 0 and 1, units 0 and 1. -/
def eww (eop : Nat) : BitVec 56 := BitVec.ofNat 56 (eop * 2 ^ 52 + 2 * 2 ^ 48 + 2 ^ 14)
theorem witness_ew : ∀ eop ∈ [0, 1, 2, 3], let w := eww eop
    (let s := run { mem := { valid := validTo 2, allocs := [⟨true, 0, 4⟩], cdesc := [(0, { path := 1 }), (1, { path := 1 })] } } [0x42#8 ++ w]
     let t := landedTile s 0 0
     AtIssue s 0 0 0x42 w ∧ wf w 52 4 = eop ∧ wf w 0 5 = 0 ∧ ifmtOk (aFmt w) = true ∧ aFmt w ≠ 3 ∧ linesValid t.mem (wf w 27 13) 1 = true ∧
     linesValid t.mem (wf w 14 13) 1 = true ∧ coveredBy (fun _ => true) t.mem (wf w 5 9) 2 = true ∧ (∀ i, i < 2 → (descOf t.mem (0 + i)).path = fmtPath (aFmt w)) ∧
     pendingOver t.mem 0 2 = false ∧ readingOver t.mem 0 2 = false ∧ t.mem.array = [] ∧
     after (.ew 0 0 w) s (fun u => (tileOf u 0 0).mem.array.map (fun o => (o.units, o.rows)) == [(2, 1)] && (descOf (tileOf u 0 0).mem 1).path == 1) = true) := by
  unfold AtIssue; decide +kernel

theorem witness_vector_load : ∀ f ∈ [0, 1, 2, 4, 5, 6], let w := rf 3 1 0 0 1 (f * 8192 + 1)
    let s := run { sregs [2] with mem := { valid := validTo 8, obuf := [(3, 0xFE)] } } [0x77#8 ++ w]
    AtIssue s 0 0 0x77 w ∧ iRsv w = false ∧ iFmt w = f ∧ (rdS (landedTile s 0 0) (fA w)).toNat + iOff w + inBits f / 8 ≤ 8192 ∧
    linesValid (landedTile s 0 0).mem 3 (inBits f / 8) = true ∧
    (f = 2 → after (.vld 0 0 w) s (fun u => lane u 0 == some 0xFFFFFFFE && (dues u).getLast? == some (1, [.s 1 3])) = true) := by unfold AtIssue; decide +kernel
theorem witness_vector_load_fp32 : let w := rf 3 1 0 0 0 (6 * 8192)
    let s := run { mem := { valid := validTo 4, obuf := [(0, 0x40000000)] } } [0x77#8 ++ w]
    AtIssue s 0 0 0x77 w ∧ linesValid (landedTile s 0 0).mem 0 4 = true ∧ after (.vld 0 0 w) s (fun u => lane u 0 == some 0x40000000) = true := by unfold AtIssue; decide +kernel
theorem witness_vector_store : ∀ md ∈ [0, 1, 8, 9], let w := rf 0 1 2 0 md (6 * 8192)
    let s := run { (vregs [fun _ => 0, fun _ => 0, fun l => BitVec.ofNat 32 (0x3F800000 * (1 - l))]) with mem := {} } [0x78#8 ++ w]
    AtIssue s 0 0 0x78 w ∧ (fB w).toNat < 16 ∧ iRsv w = false ∧ ofmtOk (iFmt w) = true ∧ (rdS (landedTile s 0 0) (fA w)).toNat + iOff w = 0 ∧
    linesHeld (landedTile s 0 0).mem 0 4 = false ∧ fMsel w ≤ 4 ∧ fMod w = md ∧
    after (.vst 0 0 w) s (fun u => (md = 8 ∨ md = 9 ∨ mget 0 (tileOf u 0 0).mem.obuf 0 == 0x3F800000) && linesValid (tileOf u 0 0).mem 0 4 &&
      dues u == (if md % 2 = 1 then [(1, [.s 1 4])] else [])) = true := by unfold AtIssue; decide +kernel
/-- WB of one operand-buffer line, line 7, to bank-set line 0 and to the express doorway; WB of one row of units 0 and 1 as FP32 (05 R116). -/
theorem witness_write_back :
    (let w : BitVec 56 := BitVec.ofNat 56 (2 ^ 55 + 7 * 2 ^ 28)
     let s := inPart (run { part := some ctxp, mem := { obuf := [(7, 0xAB)], valid := [(7, true)] } } [0x32#8 ++ w]) prt (opr 1)
     let env := envOf s 0 0 (tileOf s 0 0)
     AtIssue s 0 0 0x32 w ∧ w.getLsbD 55 = true ∧ w.getLsbD 54 = false ∧ wf w 41 13 = 0 ∧ wf w 0 10 = 0 ∧ writeRefused env 0 1 = false ∧
     env.doorway = some (2 ^ 30 + 7) ∧ 0 + 1 ≤ 2 ^ 30 + 7 ∧ env.plane2 0 1 = true ∧ linesValid (landedTile s 0 0).mem 7 1 = true ∧
     after (.wb 0 0 w) s (fun u => (tileOf u 0 0).mem.wbs == [⟨0, [0xAB], false, 7, 1, false, true, 0⟩]) = true) ∧
    (let w : BitVec 56 := BitVec.ofNat 56 (2 ^ 55 + 7 * 2 ^ 28 + 2 ^ 15)
     let s := setRaw (inPart (run { sregs [BitVec.ofNat 32 (2 ^ 30 + 7)] with part := some ctxp, mem := { obuf := [(7, 0xAB)], valid := [(7, true)] } } [0x32#8 ++ w]) prt (opr 1)) (vlR 0 4) 0x500
     let env := envOf s 0 0 (tileOf s 0 0)
     AtIssue s 0 0 0x32 w ∧ w.getLsbD 55 = true ∧ w.getLsbD 54 = false ∧ wf w 41 13 = 0 ∧ wf w 0 10 = 0 ∧ linesValid (landedTile s 0 0).mem 7 1 = true ∧
     (rdS (landedTile s 0 0) (w.extractLsb' 15 5)).toNat = 2 ^ 30 + 7 ∧ env.doorway = some (2 ^ 30 + 7) ∧ env.express = true ∧ modId s 0 ≠ 0xFF ∧
     after (.wb 0 0 w) s (fun u => (tileOf u 0 0).mem.wbAcked == 1) = true) ∧
    (let w : BitVec 56 := BitVec.ofNat 56 (2 ^ 54 + 6 * 2 ^ 50)
     let s := inPart (run { part := some ctxp, mem := { cdesc := [(0, { path := 1 }), (1, { path := 1 })], allocs := [⟨true, 0, 2⟩] } } [0x32#8 ++ w]) prt (opr 1)
     let env := envOf s 0 0 (tileOf s 0 0)
     AtIssue s 0 0 0x32 w ∧ w.getLsbD 55 = false ∧ wf w 0 8 = 0 ∧ wf w 37 4 = 0 ∧ ofmtOk (wf w 50 4) = true ∧
     (∀ i, i < 2 → (descOf (landedTile s 0 0).mem i).path ≠ 0) ∧ (landedTile s 0 0).mem.allocs = [⟨true, 0, 2⟩] ∧ (landedTile s 0 0).mem.array = [] ∧
     writeRefused env 0 4 = false ∧ env.doorway = some (2 ^ 30 + 7) ∧ 0 + 4 ≤ 2 ^ 30 + 7 ∧ env.plane2 0 4 = true ∧
     after (.wb 0 0 w) s (fun u => (tileOf u 0 0).mem.wbs.map (fun b => (b.addr, b.data.length, b.rel, b.first, b.count)) == [(0, 4, true, 0, 2)]) = true) := by
  unfold AtIssue; decide +kernel

/-! ## Tiles, their events and requests -/

/-- The module with tile PT0 of CD0 as given. -/
def tile (t : Tile) : State := { State.reset with tiles := [(0, t)] }
/-- A product of a row of two vectors: 3 × 5 in lane 0 of both units. -/
def ewOp : ArrayOp := ⟨.ew 0 [[3], [3]] [[5], [5]], 2, 0, 2, 2, 0, 0, []⟩
theorem witness_tile_landings :
    (∀ e ∈ [TileErr.clean, .corrected true, .uncorrectable],
     let s := tile { mem := { array := [ewOp], cdesc := [(0, { path := 1 }), (1, { path := 1 })] } }
     (tileOf s 0 0).mem.array = [ewOp] ∧ (tileOf s 0 0).part = none ∧
     after (.arrayWriteLand 0 0 none e) s (fun u => if e = .uncorrectable then flag u (hltB + 0x2200) 1 else (tileOf u 0 0).mem.array.map (·.done) == [1]) = true) ∧
    (∀ r ∈ [[], [(⟨0, true, [], [], none⟩ : Rebuild)], [⟨0, false, [], [], none⟩]],
     let s := tile { mem := { shadow := some ⟨0, [], false, []⟩, loadLines := some (0, 8), rebuild := r } }
     (tileOf s 0 0).mem.shadow = some ⟨0, [], false, []⟩ ∧ (tileOf s 0 0).mem.loadLines = some (0, 8) ∧ (tileOf s 0 0).mem.rebuild = r ∧
     after (.shadowComplete 0 0) s (fun u => (if r.any (·.promote) then (tileOf u 0 0).mem.active else (tileOf u 0 0).mem.shadow) == some ⟨0, [], true, []⟩) = true) ∧
    (let s := tile { mem := { allocs := [⟨true, 0, 4⟩, ⟨false, 508, 4⟩] } }
     (tileOf s 0 0).mem.allocs = [⟨true, 0, 4⟩] ++ ⟨false, 508, 4⟩ :: [] ∧ grantable (tileOf s 0 0).mem 508 4 = true ∧
     after (.allocationGrant 0 0) s (fun u => (tileOf u 0 0).mem.allocs == [⟨true, 0, 4⟩, ⟨true, 508, 4⟩]) = true) ∧
    (∀ rel ∈ [false, true], ∀ e ∈ [TileErr.clean, .corrected true, .uncorrectable],
     let b : WbOp := ⟨0, [0], true, 0, 2, rel, true, 0⟩
     let s := tile { mem := { wbs := [b], allocs := [⟨true, 0, 2⟩] } }
     (tileOf s 0 0).mem.wbs = [] ++ b :: [] ∧ b.reading = true ∧ b.cist = true ∧ b.rel = rel ∧
     after (.wbReadComplete 0 0 e) s (fun u => if e = .uncorrectable then flag u (hltB + 0x2200) 1 else
       (tileOf u 0 0).mem.allocs == (if rel then [] else [⟨true, 0, 2⟩]) && (tileOf u 0 0).mem.wbs.map (·.reading) == [false]) = true) := by decide +kernel

/-- A write-back to the highest line of the bank set is acknowledged; one past it ends the operation. -/
theorem witness_write_back_arrives :
    (let b : WbOp := ⟨2 ^ 24 - 1, [0xAB], false, 0, 1, false, false, 0⟩
     let s := inPart (tile { part := some ctxp, mem := { wbs := [b] } }) prt (opr 1)
     (tileOf s 0 0).part = some ctxp ∧ (tileOf s 0 0).mem.wbs = [] ++ b :: [] ∧ b.reading = false ∧ gateOpen s 0 ctxp b.addr true b.issued = true ∧
     writable s ctxp.part (tileDie s 0 ctxp b.addr) b.addr 1 = 0 ∧ absorbs s 0 0 = false ∧ opOf s ctxp.op = some (opr 1) ∧ (opr 1).loose = false ∧
     after (.wbAcknowledge 0 0) s (fun u => readLine u 0 0 (2 ^ 24 - 1) == (0, 0xAB)) = true ∧
     (let v := modOp s ctxp.op fun o => { o with loose := true }
      (match opOf v ctxp.op with | some o => o.loose | none => false) = true ∧ writable v 0 (tileDie v 0 ctxp b.addr) b.addr 1 = 0 ∧
      gateOpen v 0 ctxp b.addr true b.issued = true ∧
      after (.wbAcknowledge 0 0) v (fun u => (match opOf u ctxp.op with | some o => o.dests == [⟨0, 0, 2 ^ 24 - 1, 0, 64⟩] | none => false)) = true)) ∧
    (let b : WbOp := ⟨2 ^ 24, [0xAB], false, 0, 1, false, false, 0⟩
     let o : Op := { opr 1 with phase := .running }
     let s := inPart (tile { part := some ctxp, mem := { wbs := [b] } }) prt o
     (tileOf s 0 0).mem.wbs = [] ++ b :: [] ∧ gateOpen s 0 ctxp b.addr true b.issued = true ∧ writable s 0 (tileDie s 0 ctxp b.addr) b.addr 1 ≠ 0 ∧
     opOf s ctxp.op = some o ∧ decided o = false ∧
     after (.wbAcknowledge 0 0) s (fun u => (opOf u 0).map (fun o => (o.phase, o.code)) == some (.recordDue, writable s 0 (tileDie s 0 ctxp b.addr) b.addr 1)) = true) := by
  decide +kernel

/-- LAUNCH at an acceptance point (a first instruction that waits, a WLCH, EVP), in a save, inside a loop, toward a stopped clock. -/
theorem test_launch :
    (let q (q : Seq) : State := tile { seq := q }
     after (.launch 0 0 9) (q { status := .run, awaits := true }) (fun u => (tileOf u 0 0).seq.notBefore == 9 && !(tileOf u 0 0).seq.awaits) &&
     after (.launch 0 0 9) (q { status := .wlch }) (fun u => (tileOf u 0 0).seq.status == .run && (tileOf u 0 0).seq.pc == 1) &&
     after (.launch 0 0 9) (q { status := .run, evp := true }) (fun u => (tileOf u 0 0).seq.evp && (tileOf u 0 0).seq.lovr) &&
     after (.launch 0 0 9) (q { status := .saving, awaits := true }) (fun u => (tileOf u 0 0).seq.evp && (tileOf u 0 0).seq.launchTime == 9 && (tileOf u 0 0).seq.awaits) &&
     after (.launch 0 0 9) (q { status := .run, lact := true }) (fun u => !(tileOf u 0 0).seq.evp && (tileOf u 0 0).seq.reqs.launches == [9])) = true := by decide +kernel
theorem witness_launch :
    (∀ q ∈ [({ status := .run, awaits := true } : Seq), { status := .wlch }, { status := .run, evp := true }], acceptable q = true ∧ reqPending q = false) ∧
    awayFromProgram { status := .saving, awaits := true } = true ∧ awayFromProgram { status := .run, lact := true } = false ∧ acceptable { status := .run, lact := true } = false ∧
    stoppedDom (tile {}) 0 1 = false ∧
    (let s : State := { State.reset with hub := { State.reset.hub with stopped := [(0, 1)] } }
     stoppedDom s 0 1 = true ∧ after (.stop 0 0) s (fun u => u == s) = true ∧ after (.launch 0 0 9) s (fun u => u.tiles == []) = true) := by decide +kernel
/-- STOP, SAVE and TEST, with what the tile has pending. -/
theorem witness_tile_requests :
    (∀ r ∈ [({} : TileReqs), { test := true }],
     let s := tile { seq := { status := .run, inflight := [⟨8, [.s 1 5]⟩], reqs := r } }
     let t := tileOf s 0 0
     t.seq.status ≠ .idle ∧ acceptable t.seq = true ∧ (∀ f ∈ t.seq.inflight, f.due ≤ t.seq.slot + 8) ∧
     after (.stop 0 0) s (fun u => (tileOf u 0 0).seq.status == (if r.test then .test else .idle) && rdS (tileOf u 0 0) 1 == 5) = true) ∧
    (let s := tile {}
     (tileOf s 0 0).seq.status = .idle ∧ after (.stop 0 0) s (fun u => (tileOf u 0 0).ended) = true) ∧
    (let s := tile { seq := { status := .run, lact := true } }
     acceptable (tileOf s 0 0).seq = false ∧ after (.stop 0 0) s (fun u => (tileOf u 0 0).seq.reqs.stop) = true ∧
     after (.save 0 0 7) s (fun u => (tileOf u 0 0).seq.reqs.save && (tileOf u 0 0).saveArea == 7) = true ∧ after (.test 0 0) s (fun u => (tileOf u 0 0).seq.reqs.test) = true) ∧
    (let s := tile { seq := { status := .saving }, saved := true }
     (tileOf s 0 0).saved = true ∧ after (.save 0 0 7) s (fun u => !(tileOf u 0 0).saved && (tileOf u 0 0).saveArea == 7) = true) ∧
    (let s := tile { seq := { status := .saving } }
     (tileOf s 0 0).saved = false ∧ (tileOf s 0 0).seq.status = .saving ∧ after (.save 0 0 7) s (fun u => (tileOf u 0 0).seq.reqs.saveAgain == some 7) = true) ∧
    (∀ stop ∈ [false, true],
     let s := tile { seq := { status := .run, reqs := { stop := stop } } }
     (tileOf s 0 0).saved = false ∧ acceptable (tileOf s 0 0).seq = true ∧ (tileOf s 0 0).seq.reqs.stop = stop ∧
     after (.save 0 0 7) s (fun u => (tileOf u 0 0).seq.status == (if stop then .idle else .saving) && (tileOf u 0 0).ended == stop) = true) ∧
    (∀ x ∈ [(TileStatus.idle, ({} : TileReqs), TileStatus.test), (.fault, {}, .test), (.run, {}, .saving), (.run, { stop := true }, .test), (.idle, { save := true }, .saving)],
     let s := tile { seq := { status := x.1, reqs := x.2.1 } }
     acceptable (tileOf s 0 0).seq = true ∧ after (.test 0 0) s (fun u => (tileOf u 0 0).seq.status == x.2.2) = true) := by decide +kernel
/-- The budget of a repeat with nothing pending, a SAVE, a STOP; outside a repeat it changes nothing. -/
theorem witness_repeat_budget : ∀ x ∈ [(({} : TileReqs), TileStatus.run), ({ save := true }, .saving), ({ stop := true }, .idle)], ∀ lact ∈ [true, false],
    let s := tile { seq := { status := .run, lact := lact, lcnt := 3, reqs := x.1 } }
    let q := (tileOf s 0 0).seq
    q.lact = lact ∧ isRunning q = true ∧ q.delay = 0 ∧ reqPending q = (x.1.save || x.1.stop) ∧
    after (.repeatBudgetExpiry 0 0) s (fun u => (tileOf u 0 0).seq.status == (if lact then x.2 else .run) && ((tileOf u 0 0).seq.repHeld == (lact && x.2 != .idle) || x.2 == .idle)) = true := by decide +kernel

/-- A save area at line 0 of the die's Basin. -/
def areaB : Nat := 2 ^ 30
/-- A tile in a save with nothing under way; the same tile saved. -/
def savingTile (done : Bool) : Tile := { seq := { status := .saving, before := .run, pc := 5 }, saved := done, saveArea := areaB }
/-- CD0's Basin with the version word of an image in that area (04 R106). -/
def imageState (t : Tile) : State := { tile t with dies := [(0, { basin := [(dieBasinKey areaB + 4385, BitVec.ofNat 512 (0x01000000 * 2 ^ 32))], ltMap := [(3, some (0, 7))] })] }
theorem witness_save_complete : ∀ r ∈ [({} : TileReqs), { test := true }, { saveAgain := some 9 }],
    let t := savingTile false
    let s := tile { t with seq := { t.seq with reqs := r } }
    isSaving (tileOf s 0 0) = true ∧ (tileOf s 0 0).mem.array = [] ∧ (tileOf s 0 0).mem.wbs = [] ∧ (tileOf s 0 0).seq.reqs = r ∧ mfind s.hub.fenceDue 0 = none ∧
    (tileOf s 0 0).saveArea / 2 ^ 30 = 1 ∧ dieUp s 0 = true ∧ (tileOf s 0 0).saveArea % 2 ^ 30 + 13000 ≤ basinLines ∧ (tileOf s 0 0).mem.loadLines.isSome = false := by decide +kernel
/-- A save area of the partition; a fence that waits for the tile's save, with and without another tile of the die that saves. -/
theorem witness_save_fence :
    (let t : Tile := { savingTile false with part := some ctxp, saveArea := 0 }
     let s := inPart (tile t) { prt with cur := { blk with wCount := 0 } } (opr 1)
     isSaving (tileOf s 0 0) = true ∧ tilePart (tileOf s 0 0) = some 0 ∧ (tileOf s 0 0).saveArea / 2 ^ 30 = 0 ∧ writable s 0 0 0 13000 = 0) ∧
    (∀ other ∈ [false, true],
     let t := savingTile false
     let s : State := { State.reset with tiles := [(0, t), (1, if other then t else {})], hub := { State.reset.hub with fenceDue := [(0, .suspects)] } }
     isSaving (tileOf s 0 0) = true ∧ mfind s.hub.fenceDue 0 = some .suspects ∧ savingOn { s with tiles := [(0, afterSave t), (1, if other then t else {})] } 0 = other) := by decide +kernel
theorem witness_restore :
    (let s := tile {}
     (tileOf s 0 0).saved = false ∧ after (.restore 0 0 0) s (fun u => u == s) = true) ∧
    (let s := tile { savingTile true with seq := { status := .test } }
     (tileOf s 0 0).saved = true ∧ (tileOf s 0 0).seq.status = .test ∧ after (.restore 0 0 0) s (fun u => u == s) = true) ∧
    (let s := imageState (savingTile true)
     (tileOf s 0 0).saved = true ∧ (tileOf s 0 0).seq.status ≠ .test ∧ (savedImage s 0 (tileOf s 0 0)).isSome = true ∧ reqPending (tileOf s 0 0).seq = false ∧
     ltOf s 0 0 = some 3 ∧ (5 : PT) ≠ 0 ∧ ltOf s 0 5 = none ∧ (restoredTile s 0 (tileOf s 0 0)).isSome = true ∧
     after (.restore 0 0 0) s (fun u => !(tileOf u 0 0).saved && (tileOf u 0 0).seq.status == .run && (tileOf u 0 0).seq.pc == 0) = true) := by decide +kernel
/-- A move with no test of the die, and at the step of a test that moves the role. -/
theorem witness_tile_move : ∀ job ∈ [false, true],
    let j : TapJob := { pt := 0, lt := some 3, spare := some 5, step := 2, due := 0 }
    let s0 := imageState (savingTile true)
    let s : State := { s0 with hub := { s0.hub with taps := if job then [(0, j)] else [] } }
    ptOf s 0 (3 : Fin 128) = some (0, 7) ∧ (5 : PT) ≠ 0 ∧ movable (tileOf s 0 0) = true ∧ freeTarget s 0 (5 : PT) = true ∧ (restoredTile s 0 (tileOf s 0 0)).isSome = true ∧
    (tileOf s 0 0).seq.reqs.stop = false ∧ mfind s.hub.taps 0 = (if job then some j else none) ∧
    after (.tileMove 0 3 5) s (fun u => ptOf u 0 3 == some (5, 8) && ((tileOf u 0 0).seq.status == .test) == job) = true := by decide +kernel
/-- An image that is not there, a tile that may not move, a physical tile that is taken. -/
theorem witness_tile_stays :
    (let s : State := { tile (savingTile true) with dies := [(0, { ltMap := [(3, some (0, 7))] })] }
     restoredTile s 0 (tileOf s 0 0) = none ∧ mfind s.hub.taps 0 = none ∧ ptOf s 0 (3 : Fin 128) = some (0, 7) ∧ movable (tileOf s 0 0) = true ∧ freeTarget s 0 (5 : PT) = true ∧
     after (.tileMove 0 3 5) s (fun u => ptOf u 0 3 == some (0, 7) && !(tileOf u 0 0).saved) = true) ∧
    (let s : State := { tile (savingTile false) with dies := [(0, { ltMap := [(3, some (0, 7))] })] }
     movable (tileOf s 0 0) = false ∧ after (.tileMove 0 3 5) s (fun u => u == s) = true ∧ freeTarget s 0 0 = false) := by decide +kernel

/-- A tile of the running operation whose fetch engine is at an entry with words 0 and 1. -/
def atE (w0 w1 : Nat) (rings : SMap Ring) : State :=
  inPart (tile { part := some ctxp, fetch := { running := true, linesHeld := [BitVec.ofNat 512 (w0 + w1 * 2 ^ 64)], rings := rings } }) prt { opr 1 with phase := .running }
/-- Ring 0 with three slots of two lines from line 8 on. -/
def ring0 : Ring := { first := 8, slotLines := 2, slots := 3 }
/-- Where a bank-set line of the partition lies in the HBM of CD0. -/
def hk (a : Nat) : Nat := match place prt 0 a with | .hbm k => k | _ => 0
/-- The next line is asked for; a line that came, one that waits behind an older read of its port, one refused, one with an uncorrectable error. -/
theorem witness_fetch_list_line :
    (let s := inPart (tile { part := some ctxp, fetch := { running := true, listAddr := 16 } }) prt (opr 1)
     let t := tileOf s 0 0
     t.part = some ctxp ∧ t.fetch.running = true ∧ t.fetch.linesHeld.length < 2 ∧ t.fetch.pending.find? isList = none ∧ endHeld t.fetch = false ∧ portOpen s 0 0 = true ∧
     creditsFor s 0 ctxp false [16] = true ∧ after (.fetchListLineArrival 0 0) s (fun u => (tileOf u 0 0).fetch.pending.map (·.srcs) == [[16]]) = true) ∧
    (∀ x ∈ [(16, false), (16, true), (2 ^ 24, false), (17, false)],
     let r : FetchReq := { dst := 0, srcs := [x.1], arrived := 0, kind := .list }
     let d : FetchReq := { dst := 8, srcs := [16], arrived := 0 }
     let o : Op := { opr 1 with phase := .running }
     let s0 := inPart (tile { part := some ctxp, fetch := { running := true, listAddr := 16, pending := if x.2 then [d, r] else [r] } }) prt o
     let s : State := { s0 with dies := [(0, { hbm := { poison := [(hk 17, true)] } })] }
     let t := tileOf s 0 0
     t.part = some ctxp ∧ t.fetch.pending.find? isList = some r ∧ absorbs s 0 0 = false ∧ opOf s 0 = some o ∧ decided o = false ∧
     readAnswer s 0 ctxp ((t.fetch.pending.takeWhile (fun x => !isList x)).filter (·.sent)) r =
       (if x.2 then none else if x.1 = 16 then some (0, 0) else if x.1 = 17 then some (0x50, 0) else some (0x22, 0)) ∧
     after (.fetchListLineArrival 0 0) s (fun u => (tileOf u 0 0).fetch.linesHeld.length == (if x.1 = 16 ∧ x.2 = false then 1 else 0) &&
       ((opOf u 0).map (·.code) == some 0x22) == decide (x.1 = 2 ^ 24) && flag u (suspectReg 0) 1 == decide (x.1 = 17)) = true) := by decide +kernel
/-- A SETUP of nine slots, and one of ten. -/
theorem witness_fetch_setup : ∀ n ∈ [9, 10],
    (let e : Nat × Nat := (2 * 2 ^ 62 + n * 2 ^ 52 + 1 * 2 ^ 39 + 8 * 2 ^ 26, 0)
     let s := atE e.1 e.2 []
     ((atEntry s 0 0 2).map (·.2)) = some (ctxp, e) ∧ setupOk (tileOf s 0 0).fetch e = decide (n = 9) ∧ entryRing e = 0 ∧
     after (.setup 0 0) s (fun u => if n = 9 then (tileOf u 0 0).fetch.rings == [(0, { first := 8, slotLines := 2, slots := 9 })]
       else (opOf u 0).map (·.code) == some 0x22) = true) := by decide +kernel
/-- A FETCH of two lines from line 100 of the bank set, one use; for a group of which the tile is the one member; without a use; from past the bank set. -/
theorem witness_fetch_entry : ∀ x ∈ [(1, 100, 0), (1, 100, 1), (0, 100, 0), (1, 2 ^ 24 - 1, 0)],
    (let e : Nat × Nat := (x.1 * 2 ^ 45 + 1 * 2 ^ 32 + x.2.1 + x.2.2 * 2 ^ 59, 0)
     let s : State := { atE e.1 e.2 [(0, ring0)] with dies := [(0, { ltMap := [(0, some (0, 0))], mcGroups := [(0, [0])] })] }
     let t := tileOf s 0 0
     let ok := decide (x.1 = 1 ∧ x.2.1 = 100)
     ((atEntry s 0 0 0).map (·.2)) = some (ctxp, e) ∧ partOf s 0 = some prt ∧ fetchOk t.fetch e = decide (x.1 = 1) ∧
     fetchBad prt 0 t.fetch e = (if x.2.1 = 100 then none else some (2 ^ 24 - 1)) ∧ fetchMc e = decide (x.2.2 = 1) ∧ portOpen s 0 0 = true ∧
     (ok = true → creditsFor s 0 ctxp false (fetchSrcs e) = true ∧ fetchFree t e = true ∧ fetchHere s 0 0 t e = true) ∧
     mcMembers s 0 ctxp (bitsOf e.1 53 6) = [0] ∧ (x.2.2 = 1 → entryAt t.fetch = some e ∧ mcMember t t.fetch.entry e = some true) ∧
     after (.fetch 0 0) s (fun u => if ok then ((tileOf u 0 0).fetch.pending.head?.map (fun q => (q.dst, q.srcs, q.credited))) == some (8, [100, 101], true)
       else (opOf u 0).map (·.code) == some 0x22) = true) := by decide +kernel
/-- A line of a FETCH, of a block that is rebuilt; one refused; one with an uncorrectable error; one behind an older read of its port. -/
theorem witness_fetch_data :
    (∀ x ∈ [(101, false), (2 ^ 24, false), (117, false), (101, true)],
     let r : FetchReq := ⟨8, [100, x.1], 1, .data, 0, 0, true, true⟩
     let l : FetchReq := { dst := 0, srcs := [101], arrived := 0, kind := .list }
     let o : Op := { opr 1 with phase := .running }
     let s0 := inPart (tile { part := some ctxp, fetch := { pending := if x.2 then [l, r] else [r] } }) prt o
     let s : State := { s0 with dies := [(0, { hbm := { poison := [(hk 117, true)] } })] }
     let t := tileOf s 0 0
     t.fetch.pending.find? isData = some r ∧ absorbs s 0 0 = false ∧ opOf s 0 = some o ∧ decided o = false ∧
     readAnswer s 0 ctxp ((t.fetch.pending.takeWhile (fun x => !isData x)).filter (·.sent)) r =
       (if x.2 then none else if x.1 = 101 then some (0, 0) else if x.1 = 117 then some (0x50, 0) else some (0x22, 0)) ∧
     after (.fetchDataArrival 0 0) s (fun u => linesValid (tileOf u 0 0).mem 9 1 == decide (x = (101, false)) &&
       ((opOf u 0).map (·.code) == some 0x22) == decide (x.1 = 2 ^ 24) && flag u (suspectReg 0) 1 == decide (x.1 = 117)) = true) ∧
    (let r : FetchReq := ⟨0, [100], 0, .weights, 0, 0, true, true⟩
     let b : Rebuild := ⟨wldw, false, [100, 101], [], none⟩
     let s := inPart (tile { part := some ctxp, mem := { rebuild := [b] }, fetch := { pending := [r] } }) prt (opr 1)
     (tileOf s 0 0).fetch.pending.find? isData = some r ∧ r.kind = .weights ∧ (tileOf s 0 0).mem.rebuild = [b] ∧ b.kept = none ∧ b.lines.length < b.srcs.length ∧
     readAnswer s 0 ctxp [] r = some (0, 0) ∧ after (.fetchDataArrival 0 0) s (fun u => (tileOf u 0 0).mem.rebuild.map (·.lines) == [[0]]) = true) := by decide +kernel
theorem witness_fetch_marks :
    (∀ rsv ∈ [0, 1],
     let e : Nat × Nat := (1 * 2 ^ 62 + 5 * 2 ^ 53 + 1 * 2 ^ 37, rsv)
     let s := atE e.1 e.2 [(0, ring0)]
     ((atEntry s 0 0 1).map (·.2)) = some (ctxp, e) ∧ (tileOf s 0 0).fetch.rings ≠ [] ∧ e.2 = rsv ∧ bitsOf e.1 0 37 = 0 ∧
     after (.mark 0 0) s (fun u => if rsv = 0 then (tileOf u 0 0).fetch.mark == some ⟨false, 5, 1⟩ else (opOf u 0).map (·.code) == some 0x22) = true) ∧
    (∀ scope ∈ [false, true],
     let m : MarkWait := ⟨scope, 5, 1⟩
     let t : Tile := { part := some ctxp, mem := { wbAcked := 1 }, fetch := { running := true, mark := some m, rings := [(0, { ring0 with live := [(0, ⟨0, 0, 2, [100, 101], 0, true⟩)] })] } }
     let s := inPart (tile t) prt (opr 1)
     tileOf s 0 0 = t ∧ t.fetch.mark = some m ∧ t.fetch.running = true ∧ m.wbn ≤ t.mem.wbAcked ∧ (∀ r ∈ t.fetch.rings, ∀ x ∈ r.2.live, x.2.released = true) ∧
     (m.scope = true → scopeMet s 0 ctxp t m = true) ∧
     after (.markRelease 0 0) s (fun u => (tileOf u 0 0).fetch.mark == none && (tileOf u 0 0).fetch.layer == 1) = true) ∧
    (∀ rsv ∈ [0, 1],
     let e : Nat × Nat := (3 * 2 ^ 62 + rsv, 0)
     let s := atE e.1 e.2 [(0, ring0)]
     ((atEntry s 0 0 3).map (·.2)) = some (ctxp, e) ∧ (tileOf s 0 0).fetch.rings ≠ [] ∧ e.2 = 0 ∧ bitsOf e.1 0 62 = rsv ∧
     after (.fetchListEnd 0 0) s (fun u => if rsv = 0 then !(tileOf u 0 0).fetch.running else (opOf u 0).map (·.code) == some 0x22) = true) := by decide +kernel

/-- A chain of CD0 to CD3 with a staging ring of four pieces. -/
def chainPrt : Partition := { prt with cur := { blk with span := 15, chain := true }, shards := 15 }
/-- CD1 stores slices 1 and 2, its predecessor CD0 slices 0 and 1: slice 2 is sent, and slice 3, received, is forwarded after it. -/
theorem witness_staging :
    (let s : State := { State.reset with parts := [(0, chainPrt)] }
     partOf s 0 = some chainPrt ∧ chainPred chainPrt 1 = some 0 ∧ chainPrt.cur.chain = true ∧ slicesTo chainPrt 0 = [2, 3] ∧
     (stagingOf s 0 0).pieces.length + (stagingOf s 0 0).incoming.length < chainPrt.cur.staging ∧
     portOpen s 1 (d2dPort 1 0 2) = true ∧ creditFree s 1 (d2dPort 1 0 2) 3 (partCls s 0) (some 0) = true ∧ inTurn chainPrt 0 (stagingOf s 1 0).lastSent 0 0 4096 = true ∧
     (readLines s 0 1 4096 pieceLines).1 = 0 ∧ holdsSlice chainPrt 1 2 = true ∧
     after (.stagingPieceSend 1 0 0 2 (some 4096)) s (fun u => (stagingOf u 0 0).incoming.map (·.slice) == [2]) = true) ∧
    (let y : StagePiece := ⟨0, 0, 3, [], false, 2, 0⟩
     let s : State := { State.reset with parts := [(0, chainPrt)], dies := [(1, { staging := [(0, { pieces := [y], lastSent := some (0, 0, 5120) })] })] }
     (stagingOf s 1 0).pieces.find? (fun x => !x.forwarded) = some y ∧ inTurn chainPrt 0 (stagingOf s 1 0).lastSent 0 1 5120 = true ∧
     portOpen s 1 (d2dPort 1 0 3) = true ∧ creditFree s 1 (d2dPort 1 0 3) 3 (partCls s 0) (some 0) = true ∧ partTiles s 1 0 = [] ∧
     after (.stagingPieceSend 1 0 0 3 none) s (fun u => (stagingOf u 0 0).incoming.map (·.slice) == [3] && (stagingOf u 1 0).pieces.map (·.forwarded) == [true]) = true) ∧
    (let x : StagePiece := ⟨2, 0, 1, [], true, 0, 0⟩
     let s : State := { State.reset with dies := [(0, { staging := [(0, { incoming := [x], counts := [(2, 6)] })] })] }
     (stagingOf s 0 0).incoming = [x] ∧ partTiles s 0 0 = [] ∧
     after (.stagingPieceArrival 0 0) s (fun u => (stagingOf u 0 0).pieces.map (·.idx) == [6]) = true) := by decide +kernel

/-! ## Operations -/

/-- Host memory that holds bytes from an address on. -/
def hostAt (a : Nat) (b : List Byte) : SMap Byte := (((List.range b.length).map (· + a)).zip b).filter fun e => e.2 ≠ 0
/-- Context 0, bound to partition 0, with bytes in the first slot of its rings. -/
def tcx (t : Tc) (b : List Byte) : State :=
  { State.reset with tcs := [(0, t)], parts := [(0, prt)], regs := [(0x100000, 0x08000000)], host := hostAt 0 b }
/-- A first descriptor with GEN = 1. -/
def descr (opc : Nat) : List Byte := [BitVec.ofNat 8 opc, 0x80] ++ leBytes 34 0 ++ leBytes 28 (b2n (opc == 10))
theorem witness_descriptor_fetch : ∀ opc ∈ [10, 11, 0xFE], ∀ x ∈ [false, true],
    let s := tcx { phase := .active, nTail := b2n (!x), xTail := b2n x } (descr opc)
    (tcOf s 0).phase = .active ∧ pendingOf s 0 x ≠ 0 ∧ dieUp s (ctxHome s 0) = true ∧ (x = true ∨ expressAhead s 0 = false) ∧ hostRead s 0 64 = descr opc ∧
    ringBase s 0 (if x then 0x18 else 0x10) + 64 * (fetchedOf (tcOf s 0) x % ringSize s 0 x) = 0 ∧ tagFree s 0 = true ∧
    (byteAt (descr opc) 1).testBit 7 = ((0 / ringSize s 0 x + 1) % 2 == 1) ∧ tagFree (setRaw s (tcB 0 + 0x28) 0) 0 = false ∧
    (descFault s (newOp s 0 x (descr opc))).isSome = decide (opc = 0xFE) := by decide +kernel
theorem test_descriptor_fetch :
    (let s := tcx { phase := .active, nTail := 1 } (descr 11)
     after (.descriptorFetch 0 false true) s (fun u => (opOf u (opKey 0 0 false 0)).map (·.phase) == some .fetched && (tcOf u 0).nFetched == 1) &&
     after (.descriptorFetch 0 false true) (tcx { phase := .active, nTail := 1 } (leBytes 64 11)) (fun u => (tcOf u 0).phase == .error && (tcOf u 0).errc == 1) &&
     after (.descriptorFetch 0 false false) s (fun u => (tcOf u 0).phase == .error && (tcOf u 0).errc == 4) &&
     after (.descriptorFetch 0 false true) (setRaw s (tcB 0 + 0x28) 0) (fun u => fld u (qpB 0 + 8) 0 32 == 1 && (tcOf u 0).nFetched == 0) &&
     after (.descriptorFetch 0 true true) (tcx { phase := .active, xTail := 1 } (leBytes 64 11)) (fun u => (tcOf u 0).phase == .error && (tcOf u 0).errc == 2) &&
     after (.descriptorFetch 0 false true) (tcx { phase := .active, nTail := 1 } (descr 0xFE)) (fun u => (opOf u (opKey 0 0 false 0)).map (fun o => (o.phase, o.code)) == some (.recordDue, 0x22))) = true := by
  decide +kernel

/-- Context 0 active with the operation `o` of it. -/
def withOp (o : Op) : State := { tcx { phase := .active } [] with ops := [(opKey 0 0 false o.opseq, o)] }
/-- The Weir with no rate, and with a rate of 1 a second, or of 1 MB/s, and an empty bucket; behind an older operation of the ring. -/
theorem witness_weir :
    (∀ x ∈ [(0, 0), (1, 0), (0, 1)], let s := setRaw (setRaw (withOp (opr 11)) (tcB 0 + 0x2C) (BitVec.ofNat 32 (0x00400000 + x.1))) (tcB 0 + 0x30) (BitVec.ofNat 32 x.2)
     Names s 0 false 0 0 (opr 11) ∧ (opr 11).phase = .fetched ∧ waitsBefore s (opr 11) = false ∧ fld s (tcB 0 + 0x2C) 0 16 = x.1 ∧ fld s (tcB 0 + 0x30) 0 20 = x.2 ∧
     (tcOf s 0).opsTokens = 0 ∧ (tcOf s 0).bytesTokens = 0 ∧ mltNs s = 0 ∧
     after (.weirAdmission 0 false 0) s (fun u => (opOf u 0).map (·.phase) == some (if x = (0, 0) then .admitted else .fetched)) = true) ∧
    (let s : State := { withOp (opr 11) with ops := [(0, opr 11), (1, { opr 11 with opseq := 1 })] }
     Names s 0 false 1 1 { opr 11 with opseq := 1 } ∧ waitsBefore s { opr 11 with opseq := 1 } = true) := by unfold Names; decide +kernel

/-- A descriptor with given bytes at 24 to 27 (DEP0, DEP1) and from 32 on. -/
def descOf' (opc : Nat) (deps : Nat) (body : List Byte) : List Byte := leBytes 24 opc ++ leBytes 8 deps ++ body ++ leBytes (32 - body.length) 0
/-- A dependence that ended OK, one that ended with a checksum error, one that has not completed. -/
theorem witness_operation_ready :
    (∀ code ∈ [(0 : BitVec 8), 0x31],
     let o : Op := { opr 11 with phase := .admitted, opseq := 1, desc := descOf' 11 1 [] }
     let s : State := { withOp o with tcs := [(0, { phase := .active, codes := [(0, code)] })] }
     Names s 0 false 1 1 o ∧ depCode s o 24 = some code ∧ depCode s o 26 = some 0 ∧ (opFlag o 1 || depRuns code && depRuns 0) = decide (code = 0)) ∧
    (let o : Op := { opr 11 with phase := .admitted, opseq := 1, desc := descOf' 11 1 [] }
     let s : State := { withOp o with ops := [(0, opr 11), (1, o)] }
     Names s 0 false 1 1 o ∧ o.phase = .admitted ∧ depCode s o 24 = none) := by unfold Names; decide +kernel
theorem witness_nop_descriptor :
    Names (withOp { opr 11 with phase := .ready }) 0 false 0 0 { opr 11 with phase := .ready } ∧ opcOf (opr 11) = 11 ∧
    after (.nopDescriptor 0 false 0) (withOp { opr 11 with phase := .ready }) (fun u => (opOf u 0).map (fun o => (o.phase, o.code)) == some (.recordDue, 0)) = true := by unfold Names; decide +kernel
/-- A range with an operation that waits, a message that runs and one past its decision. -/
theorem witness_cancel :
    (let o : Op := { opr 10 with phase := .ready, opseq := 4, desc := descOf' 10 0 (leBytes 4 0 ++ leBytes 2 3) }
     let s : State := { withOp o with ops := [(0, { opr 11 with phase := .admitted }), (1, { opr 6 with opseq := 1, phase := .held }), (2, { opr 11 with opseq := 2, phase := .recordDue }), (4, o)] }
     Names s 0 false 4 4 o ∧ keysRise s.ops = true ∧ opcOf o = 10 ∧ o.phase = .ready ∧ dF o 32 4 = 0 ∧ dF o 36 2 = 3 ∧ dF o 38 1 = 0 ∧
     undispatched { opr 11 with phase := .admitted } = true ∧ decided { opr 11 with opseq := 2, phase := .recordDue } = true ∧ opcOf (opr 6) ∈ [1, 5, 6] ∧
     after (.cancel 0 false 4) s (fun u => u.ops.map (fun e => (e.2.code, e.2.info.xaddr)) == [(1, 0), (1, 0), (0, 0), (0, 2)]) = true) := by unfold Names; decide +kernel
/-- An operation that waits, ones that run or are held, one past its decision; before its time, and with no timeout. -/
theorem witness_operation_timeout :
    (∀ o ∈ [{ opr 11 with phase := .admitted }, { opr 5 with phase := .running }, { opr 3 with phase := .held }],
     let s : State := { withOp o with clp := { mlt := 10000000000 * 2 ^ 40 } }
     Names s 0 false 0 0 o ∧ dF o 28 2 = 0 ∧ o.fetchedAt + 10000 * 1000000 ≤ mltNs s ∧ (undispatched o = true ∨ (o.phase = .running ∨ o.phase = .held) ∧ opcOf o ∈ [1, 3, 4, 5, 6, 8]) ∧
     after (.operationTimeout 0 false 0) s (fun u => (opOf u 0).map (·.code) == some 0x11) = true) ∧
    (let o : Op := { opr 11 with phase := .recordDue }; let s : State := { withOp o with clp := { mlt := 10000000000 * 2 ^ 40 } }
     Names s 0 false 0 0 o ∧ decided o = true ∧ dF o 28 2 = 0 ∧ o.fetchedAt + 10000 * 1000000 ≤ mltNs s) ∧
    (let s := withOp (opr 11); Names s 0 false 0 0 (opr 11) ∧ mltNs s < (opr 11).fetchedAt + 10000 * 1000000) ∧
    (let o : Op := { opr 11 with desc := descOf' 11 (0xFFFF * 2 ^ 32) [] }; Names (withOp o) 0 false 0 0 o ∧ dF o 28 2 = 0xFFFF) := by unfold Names; decide +kernel

/-- A dispatch record of kernels of one word on logical tile 0, whose fetch list at line 1 is an END. -/
def drec (kernels : Nat) : List Byte :=
  leBytes 8 0 ++ leBytes 4 kernels ++ leBytes 148 1 ++ (List.replicate kernels (leBytes 4 0 ++ leBytes 2 1 ++ leBytes 4 0 ++ leBytes 6 1)).flatten ++
    leBytes 4 0 ++ leBytes 4 1 ++ leBytes 40 7
/-- A KERNEL and the module it may run on. -/
def kop (kernels : Nat) : Op := { opr 1 with drec := drec kernels, phase := .ready }
def kst (o : Op) (t : Tile) : State :=
  { withOp o with tiles := [(0, t)], dies := [(0, { ltMap := [(0, some (0, 0))], hbm := { lines := [(1, 3 * 2 ^ 62)] } })] }
def ktgt : Target := ⟨0, 0, 0, ⟨0, 0, 1, 7 :: List.replicate 7 0⟩, 0, 0⟩
/-- A KERNEL dispatched at once, and as one held for a capability that has been set. -/
theorem witness_kernel : ∀ caps ∈ [0, 8],
    (let o : Op := { kop 1 with drec := leBytes 4 0 ++ leBytes 4 caps ++ (kop 1).drec.drop 8 }; let s := setRaw (kst o {}) (cfgB + 4) 8
     Names s 0 false 0 0 o ∧ opcOf o = 1 ∧ capsOf o = caps ∧ targetFree s 0 ktgt = true ∧ mayDispatch s o = true ∧ (opFlag o 3 && strict s o.part) = false ∧ o.launch = 0 ∧
     targetsOf s { o with runDie := firstDie s o } 0 = some [ktgt] ∧ (readBytes s 0 (resolveDie s 0 0 0 0) 0 0 8).1 = 0 ∧ (kernelRec o 0).words = 1 ∧
     after (if caps = 0 then .kernel 0 false 0 else .capabilityRelease 0 false 0) s (fun u => (tileOf u 0 0).seq.status == .run && rdS (tileOf u 0 0) 1 == 7) = true) := by unfold Names; decide +kernel
/-- A launch far away, a tile that is taken, one that is off, ENT = 1 under determinism mode, a capability that is not set. -/
theorem witness_kernel_waits :
    (let o : Op := { kop 1 with launch := 20000 }; let s := kst o {}
     Names s 0 false 0 0 o ∧ mayDispatch s o = true ∧ (opFlag o 3 && strict s o.part) = false ∧ o.launch ≠ 0 ∧ mltNs s + 10000 < o.launch) ∧
    (let o := kop 1; let s := kst o { part := some ctxp }
     Names s 0 false 0 0 o ∧ mayDispatch s o = true ∧ targetsOf s { o with runDie := firstDie s o } 0 = some [ktgt] ∧ targetFree s 0 ktgt = false) ∧
    (let o := kop 1; let s : State := { kst o {} with dies := [] }
     Names s 0 false 0 0 o ∧ mayDispatch s o = true ∧ targetsOf s { o with runDie := firstDie s o } 0 = none ∧
     after (.kernel 0 false 0) s (fun u => (opOf u 0).map (·.code) == some 0x10) = true) ∧
    (let o : Op := { kop 1 with desc := leBytes 64 (1 + 8 * 256) }; let s := setRaw (kst o {}) (hltB + 0x2000) 0x40000000
     Names s 0 false 0 0 o ∧ mayDispatch s o = true ∧ (opFlag o 3 && strict s o.part) = true ∧
     after (.kernel 0 false 0) s (fun u => (opOf u 0).map (·.code) == some 0x22) = true) ∧
    (let o : Op := { kop 1 with drec := leBytes 4 0 ++ leBytes 4 8 ++ (kop 1).drec.drop 8 }
     Names (kst o {}) 0 false 0 0 o ∧ mayDispatch (kst o {}) o = false) := by unfold Names; decide +kernel
theorem witness_kernel_dispatch : ∀ off ∈ [false, true],
    (let o : Op := { kop 2 with phase := .running }; let s0 := kst o { part := some ctxp, ended := true }
     let s : State := if off then { s0 with dies := [] } else s0
     Names s 0 false 0 0 o ∧ opcOf o = 1 ∧ targetFree s 0 ktgt = true ∧ o.finished = false ∧ kernelEnded s 0 = true ∧ o.kernel + 1 < kCount o ∧
     targetsOf s o 1 = (if off then none else some [ktgt]) ∧ (off = false → (readBytes s 0 0 0 0 8).1 = 0) ∧
     after (.kernelDispatch 0 false 0) s (fun u => if off then (opOf u 0).map (·.code) == some 0x10 else (tileOf u 0 0).seq.status == .run && (opOf u 0).map (·.kernel) == some 1) = true) := by unfold Names; decide +kernel

theorem witness_commit : ∀ r ∈ [true, false], ∀ x ∈ [(false, false), (true, false), (false, true)],
    let o : Op := { opr 3 with phase := .running, finished := true, chkFail := x.1, badRun := x.2 }
    let s : State := { withOp o with parts := [(0, { prt with replay := r })] }
    Names s 0 false 0 0 o ∧ partOf s 0 = some { prt with replay := r } ∧ opcOf o ≠ 2 ∧ runEnded s 0 o = true ∧ o.runs = [] ∧ opFlag o 4 = false ∧ replayable s o = r ∧
    after (.commitDecision 0 false 0) s (fun u => (opOf u 0).map (fun o => (o.phase, o.code)) ==
      some (if x = (false, false) then (.recordDue, 0) else if r then (.held, 0) else (.recordDue, if x.1 then 0x31 else 0))) = true := by
  unfold Names; decide +kernel
/-- A replay that qualifies, one that does not and is held, the third of these; a run that has not ended. -/
theorem witness_commit_replay :
    (∀ x ∈ [([(⟨1, false, true, 0⟩ : RunRec)], true, OpPhase.recordDue, (0x32 : BitVec 8)), ([⟨1, false, false, 7⟩], true, .held, 0),
            ([⟨1, false, false, 7⟩, ⟨2, false, false, 8⟩], true, .recordDue, 0x31), ([⟨1, false, true, 0⟩], false, .held, 0)],
     let o : Op := { opr 3 with phase := .running, finished := true, chkFail := !x.2.1, runs := x.1 }
     let s := withOp o
     let rs := o.runs ++ [⟨o.runDie, x.2.1, !x.2.1, resultCrc o⟩]
     Names s 0 false 0 0 o ∧ partOf s 0 = some prt ∧ runEnded s 0 o = true ∧ o.runs ≠ [] ∧ (((upTo rs.length).reverse.find? (qualifies rs)).isSome = decide (x.2.2.2 = 0x32)) ∧
     (rs.length < 3 ∨ x.2.2.2 = 0x31) ∧
     after (.commitDecision 0 false 0) s (fun u => (opOf u 0).map (fun o => (o.phase, o.code)) == some (x.2.2.1, x.2.2.2)) = true) ∧
    runEnded (withOp (opr 3)) 0 (opr 3) = false := by
  unfold Names; decide +kernel
/-- The digest record at RDADDR 0, and at one past the bank set. -/
theorem witness_commit_digest : ∀ bad ∈ [false, true],
    (let o : Op := { kop 1 with desc := leBytes 44 0x1001 ++ leBytes 4 (if bad then 2 ^ 24 else 0) ++ leBytes 16 0, phase := .running, finished := true }
     let s := kst o { part := some ctxp, ended := true }
     let b := boundBlock s o 0
     Names s 0 false 0 0 o ∧ runEnded s 0 o = true ∧ o.runs = [] ∧ opFlag o 4 = true ∧ opcOf o = 1 ∧ homeDie prt = some 0 ∧
     ((writeBytes s o.part 0 (dF o 44 4) 0 (b ++ sha256 b)).1 = 0) = (bad = false)) := by
  unfold Names; decide +kernel
/-- Two dies: the replay goes to CD1, and where CD1 is fenced to none. -/
theorem witness_replay : ∀ f ∈ [false, true], ∀ chk ∈ [false, true],
    let o : Op := { opr 3 with phase := .held, runs := [⟨0, false, chk, 0⟩], own := 0x30 }
    let p : Partition := { prt with cur := { blk with span := 3 } }
    let s : State := { withOp o with parts := [(0, p)], dies := [(1, { fenced := f })] }
    Names s 0 false 0 0 o ∧ partOf s 0 = some p ∧ p.cur.chain = false ∧ 2 ≤ (spanDies p).length ∧ replayDie s p o = (if f then none else some 1) ∧ tagsOn s 1 < 3072 ∧
    opcOf o = 3 ∧ o.runs.any (fun r => r.chk) = chk ∧ opFlag o 4 = false ∧
    after (.replayDispatch 0 false 0 0) s (fun u => (opOf u 0).map (fun o => (o.phase, o.runDie)) == some (if f then (.recordDue, 0) else (.running, 1))) = true := by unfold Names; decide +kernel
/-- A partition of one die: a KERNEL whose tile is free or taken. -/
theorem witness_replay_kernel : ∀ busy ∈ [false, true],
    let o : Op := { kop 1 with phase := .held, runs := [⟨0, false, true, 0⟩] }
    let s := kst o (if busy then { seq := { status := .test } } else {})
    Names s 0 false 0 0 o ∧ partOf s 0 = some prt ∧ (spanDies prt).length < 2 ∧ o.chkTiles = [] ∧ opcOf o = 1 ∧
    targetsOf (freeTiles (foldFlags s 0) 0) (rerun o 0) 0 = some [ktgt] ∧ targetFree (freeTiles (foldFlags s 0) 0) 0 ktgt = !busy ∧
    (readBytes s 0 (resolveDie s 0 0 0 (kernelRec o 0).image) (kernelRec o 0).image 0 8).1 = 0 ∧
    after (.replayDispatch 0 false 0 0) s (fun u => (opOf u 0).map (·.phase) == some (if busy then .held else .running)) = true := by unfold Names; decide +kernel
/-- A chain; a tile that failed its check and has a spare, or has none. -/
theorem witness_replay_chain :
    (let o : Op := { opr 3 with phase := .held, runs := [⟨0, false, true, 0⟩] }
     let s : State := { withOp o with parts := [(0, chainPrt)] }
     Names s 0 false 0 0 o ∧ partOf s 0 = some chainPrt ∧ chainPrt.cur.chain = true ∧ o.chkTiles = []) ∧
    (∀ spare ∈ [false, true],
     let o : Op := { opr 3 with phase := .held, runs := [⟨0, false, true, 0⟩], chkTiles := [0] }
     let s : State := { withOp o with dies := [(0, { ltMap := [(0, some (0, 0))] })], hub := { State.reset.hub with retired := if spare then [] else List.range 136 } }
     Names s 0 false 0 0 o ∧ dieUp s 0 = true ∧ ptOf s 0 0 = some (0, 0) ∧ (List.range 136).any (fun q => freeTarget s 0 q) = spare ∧
     after (.replayDispatch 0 false 0 0) s (fun u => (opOf u 0).map (·.phase) == some (if spare then .held else .recordDue)) = true) := by unfold Names; decide +kernel
/-- Every tag of CD1 in use. -/
theorem witness_replay_tags :
    (let o : Op := { opr 3 with phase := .held, runs := [⟨0, false, true, 0⟩] }
     let p : Partition := { prt with cur := { blk with span := 3 } }
     let s : State := { withOp o with parts := [(0, p)], ops := (0, o) :: (List.range 3072).map fun i => (i + 1, { opr 11 with home := 1, ctx := 1 }) }
     Names s 0 false 0 0 o ∧ replayDie s p o = some 1 ∧ 3072 ≤ tagsOn s 1) := by unfold Names; decide +kernel

theorem witness_digest :
    (let o : Op := { opr 8 with phase := .ready }; let s := withOp o
     Names s 0 false 0 0 o ∧ partOf s 0 = some prt ∧ prt.digest.busy = false ∧ opcOf o = 8 ∧ mayDispatch s o = true ∧
     after (.digest 0 false 0) s (fun u => ((partOf u 0).map (·.digest.requested)) == some [0]) = true) ∧
    (∀ w ∈ [(1, 1, (0 : BitVec 8)), (1, 2, 0x33), (2, 3, 0x33)],
      let o : Op := { opr 8 with phase := .running }
      let p : Partition := { prt with digest := { busy := true, weights := [(0, [1]), (1, [BitVec.ofNat 8 w.1]), (2, [BitVec.ofNat 8 w.2.1])], runBy := [0] } }
      let s : State := { withOp o with parts := [(0, p)] }
      partOf s 0 = some p ∧ p.digest.busy = true ∧ p.cur.chain = false ∧ opOf s 0 = some o ∧
      majority p.digest.weights = (if w.2.1 = 1 then some [0, 1, 2] else if w.1 = 1 then some [0, 1] else none) ∧
      after (.digestCompare 0 true) s (fun u => ((partOf u 0).map (fun q => (q.digest.odd, q.digest.nomaj))) == some (if w = (1, 2, 0x33) then 4 else 0, w.1 == 2) && (opOf u 0).map (·.code) == some w.2.2) = true) ∧
    (∀ agree ∈ [false, true],
      let p : Partition := { chainPrt with digest := { busy := true } }
      let s : State := { withOp (opr 8) with parts := [(0, p)] }
      partOf s 0 = some p ∧ p.digest.busy = true ∧ p.cur.chain = true ∧ after (.digestCompare 0 agree) s (fun u => ((partOf u 0).map (·.digest.agree)) == some agree) = true) := by unfold Names; decide +kernel
/-- A reload from CD0, whose page is read back there, and with no die of the majority up. -/
theorem witness_reload : ∀ up ∈ [true, false],
    (let p : Partition := { prt with outDies := 4, cur := { blk with span := 7, wCount := 1 }, bankDies := 7, digest := { reload := true, odd := 4, doneWeights := [(0, [1]), (1, [1]), (2, [2])] } }
     let s : State := { withOp (opr 8) with parts := [(0, p)], dies := [(0, { fenced := !up, hbm := { lines := [(0, 9)] } }), (1, { fenced := !up })] }
     partOf s 0 = some p ∧ p.digest.reload = true ∧ p.digest.odd.testBit 2 = true ∧ p.digest.leave.contains 2 = false ∧ p.digest.rejoin.contains 2 = false ∧
     p.outDies.testBit 2 = true ∧ (majority p.digest.doneWeights).bind (fun l => (l.filter (dieUp s)).head?) = (if up then some 0 else none) ∧
     (up = true → (copyWeights s p 0 2).dies.length = 3) ∧
     after (.replicaReloadComplete 0 2) s (fun u => (partOf u 0).map (·.digest.rejoin) == some (if up then [2] else [])) = true) := by decide +kernel

/-- A pair on CD0 and CD1 of this module with one record of each side, the mirror's with the CRC given. -/
def lsState (crc : W64) : State :=
  { withOp { opr 1 with phase := .running } with pairs := [⟨0, 1, 0xFF, [⟨0, 0, 3, 5, 3, 0⟩], [⟨0, 0, 3, crc, 3, 1⟩]⟩] }
theorem witness_lockstep :
    (lsState 5).pairs.find? (fun q => q.primary == 0) = some ⟨0, 1, 0xFF, [⟨0, 0, 3, 5, 3, 0⟩], [⟨0, 0, 3, 5, 3, 1⟩]⟩ ∧
    partner [⟨0, 0, 3, 5, 3, 1⟩] ⟨0, 0, 3, 5, 3, 0⟩ = some ⟨0, 0, 3, 5, 3, 1⟩ ∧
    after (.lockstepRecord 0) (lsState 5) (fun u => u.pairs == [⟨0, 1, 0xFF, [], []⟩] && u.ops == (lsState 5).ops) = true := by decide +kernel
theorem witness_lockstep_diverges :
    partner [⟨0, 0, 3, 6, 3, 1⟩] ⟨0, 0, 3, 5, 3, 0⟩ = some ⟨0, 0, 3, 6, 3, 1⟩ ∧ flag (lsState 6) (hltB + 0x2600) 31 = false ∧
    keysRise (lsState 6).ops = true ∧ (0, { opr 1 with phase := .running }) ∈ (lsState 6).ops ∧
    after (.lockstepRecord 0) (lsState 6) (fun u => flag u (hltB + 0x2600) 31 && flag u (suspectReg 0) 7 && flag u (suspectReg 1) 7 && (opOf u 0).map (·.code) == some 0x31) = true := by decide +kernel

theorem witness_records : ∀ p ∈ [TcPhase.active, .draining, .error], ∀ head ∈ [0, 1],
    let o : Op := { opr 11 with phase := .recordDue }
    let w : WaitRec := ⟨1, 2, 3, 4, 5, 6, 0, 0, 0⟩
    let s : State := { withOp o with tcs := [(0, { phase := p, cHead := head, waiting := [w] })] }
    let goes := p != .error && head == 0
    (tcOf s 0).phase = p ∧ slotFree s 0 = decide (head = 0) ∧ Names s 0 false 0 0 o ∧ completed s 0 o = true ∧ o.discard = false ∧ (tcOf s 0).waiting = w :: [] ∧
    after (.completionRecordWrite 0 (some (false, 0)) true) s (fun u => if goes then (tcOf u 0).records == 1 && u.ops == [] && mget 0 u.host 31 == 1 else u == s) = true ∧
    after (.completionRecordWrite 0 none true) s (fun u => if goes then mget 0 u.host 12 == 1 && mget 0 u.host 16 == 2 && mget 0 u.host 17 == 3 && mget 0 u.host 18 == 3 else u == s) = true ∧
    after (.completionRecordWrite 0 none false) s (fun u => if goes then (tcOf u 0).phase == .error && (tcOf u 0).errc == 5 else u == s) = true := by unfold Names; decide +kernel
/-- An operation that has not completed; one whose record a link reset has taken; no message that waits. -/
theorem witness_records_none :
    (let s := withOp (opr 11)
     Names s 0 false 0 0 (opr 11) ∧ completed s 0 (opr 11) = false ∧ (tcOf s 0).waiting = [] ∧ after (.completionRecordWrite 0 none true) s (fun u => u == s) = true) ∧
    (let o : Op := { opr 11 with phase := .recordDue, discard := true }
     Names (withOp o) 0 false 0 0 o ∧ completed (withOp o) 0 o = true ∧ o.discard = true ∧
     after (.completionRecordWrite 0 (some (false, 0)) true) (withOp o) (fun u => u.ops == [] && u.host == []) = true) := by unfold Names; decide +kernel

/-! ## The host interface and registers -/

/-- The module in stage C with every capability, CD0 and CD1 powered, some registers set. -/
def upState (regs : List (Nat × Nat)) : State :=
  ((0x30000, 0xC0000000) :: (0x30004, 0xFF) :: regs).foldl (fun s e => setRaw s e.1 (BitVec.ofNat 32 e.2))
    { State.reset with hub := { entered := true, started := true }, dies := (List.range 2).map fun d => (d, { powered := true }) }

/-- What Reaches says, as a test. -/
def reachesB (s : State) (req : Fin 3) (off k : Nat) : Bool :=
  (req != 1 || twoLinks s) && decide (off % 4 = 0) && decide (off < 2 ^ 26) && (match locate s req off with | .ok p => p.key == k && !waits s none p | .error _ => false)
theorem reaches_of {s : State} {req : Fin 3} {off k : Nat} (h : reachesB s req off k = true) : Reaches s req off k := by
  unfold reachesB at h
  simp only [Bool.and_eq_true, decide_eq_true_eq] at h
  obtain ⟨⟨⟨h1, h2⟩, h3⟩, h4⟩ := h
  refine ⟨fun e => by simpa [e] using h1, h2, h3, ?_⟩
  split at h4
  · rename_i p hp
    simp only [Bool.and_eq_true, beq_iff_eq, Bool.not_eq_true'] at h4
    exact ⟨p, hp, h4.1, h4.2⟩
  · cases h4

/-- The index written is 63, the last of the ring, and 64. -/
theorem witness_doorbells : let s : State := { upState [] with tcs := [(0, { phase := .active })] }
    pageCtx s 0 0 = some 0 ∧ pageCtx s 1 0 = none ∧ cap State.reset 1 = false ∧ cap s 1 = true ∧ (tcOf s 0).phase = .active ∧ ringSize s 0 false = 64 ∧ ringSize s 0 true = 64 ∧ cqSize s 0 = 64 ∧
    after (.normalRingTail 0 0 63 true) s (fun u => (tcOf u 0).phase == .active && (tcOf u 0).nTail == 63) = true ∧
    after (.normalRingTail 0 0 64 true) s (fun u => (tcOf u 0).phase == .error) = true ∧
    after (.expressRingTail 0 0 1 false) s (fun u => fld u (qpB 0) 12 4 == 1) = true ∧
    after (.completionRingHead 0 0 63 true) s (fun u => (tcOf u 0).cHead == 63) = true ∧
    after (.expressRingTail 0 0 64 true) s (fun u => (tcOf u 0).errc == 3) = true ∧ after (.completionRingHead 0 0 64 true) s (fun u => (tcOf u 0).errc == 3) = true := by decide +kernel
/-- MODE 0, 1 and 2 with and without MASK; a timer that runs. -/
theorem witness_coalescing_timer : ∀ mode ∈ [0, 1, 2], ∀ mask ∈ [0, 1], ∀ now ∈ [999, 1000],
    let s : State := { upState [(0x10000C, mode * 2 ^ 30 + mask * 2 ^ 29 + 16 * 2 ^ 16 + 1), (0x100034, 0x1000)] with tcs := [(0, { firstUnsig := some 0 })], clp := { mlt := now * 2 ^ 40 } }
    (tcOf s 0).firstUnsig = some 0 ∧ fld s (tcB 0 + 0xC) 0 8 = 1 ∧ mltNs s = now ∧ irqMode s 0 = mode ∧ flag s (tcB 0 + 0xC) 29 = decide (mask = 1) ∧
    after (.coalescingTimerExpiry 0) s (fun u => now == 999 || mode == 2 || (u.out == (if mask = 1 ∨ mode = 0 then [] else [.irqWrite 0x1000 0]) && (tcOf u 0).pend == decide (mask = 1 ∧ mode ≠ 0))) = true := by decide +kernel
theorem witness_context_drain :
    (∀ busy ∈ [false, true],
     let s : State := { State.reset with tcs := [(0, { phase := .draining })], ops := if busy then [(0, opr 11)] else [] }
     (tcOf s 0).phase = .draining ∧ (tcOf s 0).waiting = [] ∧ s.ops.any (fun e => e.2.ctx == 0 && e.2.life == (tcOf s 0).life) = busy ∧
     after (.contextDrainDone 0) s (fun u => (tcOf u 0).phase == (if busy then .draining else .disabled)) = true) ∧
    (twoLinks State.reset = false ∧ ∀ c ∈ [Instr.perstAssert 1, .functionLevelReset 1, .hotReset 1, .linkDown 1],
     let s : State := { State.reset with pwr := { State.reset.pwr with split8 := true }, tcs := [(0, { phase := .active }), (2048, { phase := .active })] }
     twoLinks s = true ∧ after c s (fun u => (tcOf u 0).phase == .active && (tcOf u 2048).phase == .disabled) = true) := by decide +kernel

/-- BAR4 over partition 0's bank set on CD0: the highest line of it, a line with an uncorrectable error. -/
theorem witness_bar4 :
    cap State.reset 1 = false ∧
    (let s : State := { upState [(0x1040, 0x80000000)] with parts := [(0, prt)] }
     cap s 1 = true ∧ bar4Line s (64 * (2 ^ 24 - 1)) = some (2 ^ 24 - 1) ∧ bar4Line s (64 * 2 ^ 24) = none ∧
     after (.bar4Write 0 (64 * (2 ^ 24 - 1) + 60) [1, 2, 3, 4]) s (fun u => after (.bar4Read 0 (64 * (2 ^ 24 - 1) + 61) 2) u (fun v => v.out == [.readData 0 [2, 3]])) = true) ∧
    (let s : State := { upState [(0x1040, 0x80000000)] with parts := [(0, prt)], dies := [(0, { powered := true, hbm := { poison := [(hk 3, true)] } })] }
     bar4Line s 192 = some 3 ∧ (readBytes s 0 0 3 0 4).1 = 0x50 ∧ after (.bar4Read 0 192 4) s (fun u => u.out == [.abort 0 false] && flag u (suspectReg 0) 1) = true) ∧
    (let s : State := { upState [(0x1040, 0x80000000)] with parts := [(0, prt)], dies := [(0, { powered := true, fenced := true })] }
     bar4Line s 0 = some 0 ∧ (readBytes s 0 0 0 0 4).1 ≠ 0 ∧ (writeBytes s 0 0 0 0 [1]).1 ≠ 0 ∧
     after (.bar4Write 0 0 [1]) s (fun u => fld u (hubB + 0x1040) 26 5 == 1) = true) := by
  decide +kernel

theorem witness_context_writes :
    (let s := upState [(0x1024, 0x01000000)]
     Reaches s 0 (tcB 0) (tcB 0) ∧ (tcOf s 0).phase = .disabled ∧ flag s (tcB 0) 31 = false ∧ abiReady s (linkOf s 0) = true ∧
     after (.tcEnSet 0 0) s (fun u => (tcOf u 0).phase == .active) = true) ∧
    (let s : State := { upState [(0x100000, 0x80000000)] with tcs := [(0, { phase := .active })] }
     Reaches s 0 (tcB 0) (tcB 0) ∧ (tcOf s 0).phase = .active ∧ after (.tcEnClear 0 0) s (fun u => (tcOf u 0).phase == .draining) = true) ∧
    (let s : State := { upState [] with tcs := [(0, { phase := .error })] }
     Reaches s 0 (tcB 0) (tcB 0) ∧ (tcOf s 0).phase = .error ∧ after (.tcReset 0 0) s (fun u => (tcOf u 0).phase == .draining) = true) ∧
    (let s := upState [(0x1024, 0xFFFFFFFF)]
     Reaches s 0 (tcB 0) (tcB 0) ∧ (tcOf s 0).phase ≠ .active ∧ flag s (tcB 0) 31 = false ∧ abiReady s (linkOf s 0) = false ∧
     after (.tcEnSet 0 0) s (fun u => !flag u (tcB 0) 31 && (tcOf u 0).phase == .disabled) = true) :=
  ⟨⟨reaches_of (by decide +kernel), by decide +kernel⟩, ⟨reaches_of (by decide +kernel), by decide +kernel⟩, ⟨reaches_of (by decide +kernel), by decide +kernel⟩, reaches_of (by decide +kernel), by decide +kernel⟩
theorem witness_interrupt_unmask : ∀ mode ∈ [0, 1, 2], ∀ pend ∈ [false, true],
    let s : State := { upState [(0x10000C, mode * 2 ^ 30 + 2 ^ 29 + 16 * 2 ^ 16)] with tcs := [(0, { pend := pend })] }
    Reaches s 0 (tcB 0 + 0xC) (tcB 0 + 0xC) ∧ (tcOf s 0).pend = pend ∧ irqMode s 0 = mode ∧
    after (.interruptUnmask 0 0) s (fun u => !(tcOf u 0).pend && (mode == 2 || u.out == (if pend ∧ mode = 1 then [.irqWrite 0 0] else []))) = true := by
  intro m h p h'
  refine ⟨reaches_of ?_, ?_⟩ <;> (revert p m; decide +kernel)
/-- The two links; the module offers version 0x01000000, so does the driver; or the driver offers none. -/
theorem witness_abi :
    (∀ v ∈ [0x01000000, 0x02000000], Reaches (upState [(0x1000, v)]) 0 0x1020 0x1020 ∧
      after (.abiNegotiation 0) (upState [(0x1000, v)]) (fun u => raw u 0x1024 == (if v = 0x01000000 then 0x01000000 else 0xFFFFFFFF) && flag u 0x1020 30 && flag u 0x1020 29 == decide (v = 0x02000000)) = true) ∧
    (let s : State := { upState [] with pwr := { State.reset.pwr with split8 := true } }
     Reaches s 1 0x60000 (ownB 1) ∧ raw s (ownB 1) &&& 3 = 0) :=
  ⟨fun v h => ⟨reaches_of (by revert v; decide +kernel), by revert v; decide +kernel⟩, ⟨reaches_of (by decide +kernel), by decide +kernel⟩⟩

/-- HLT_MODE, which its LOCK bit locks: before and after. -/
theorem witness_register_accesses : ∀ l ∈ [0, 0x80000000], let s := upState [(0x42000, l + 0x200003E8)]
    Reaches s 0 0x42000 0x42000 ∧ (∃ m, fieldsOf 0x42000 = some m ∧ m.rwl ≠ 0) ∧
    after (.registerWrite 0 0x42000 4 0xF 0x40000010) s (fun u => (raw u 0x42000 == 0x40000010) == decide (l = 0)) = true := by
  intro l h
  refine ⟨reaches_of (by revert l; decide +kernel), ⟨_, rfl, by decide⟩, by revert l; decide +kernel⟩
/-- An access of 8 bytes: HLT_TRP_CTRL and its neighbour, before and after the first half of each kind. -/
theorem witness_register_pairs : let s := upState []; let off : Fin 67108864 := Fin.ofNat 67108864 (hltB + 0x400)
    off.val % 8 = 0 ∧ Reaches s 0 off.val off.val ∧ Reaches s 0 (off.val + 4) (off.val + 4) ∧ Reaches (writeReg s off.val 1) 0 (off.val + 4) (off.val + 4) ∧
    Reaches (clearRead s off.val) 0 (off.val + 4) (off.val + 4) :=
  ⟨by decide +kernel, reaches_of (by decide +kernel), reaches_of (by decide +kernel), reaches_of (by decide +kernel), reaches_of (by decide +kernel)⟩
theorem witness_indirect :
    (let s := upState []
     Reaches s 0 0x60000 (ownB 0) ∧ Reaches s 0 0x60004 (ownB 0 + 4) ∧ Reaches s 0 0x61008 (ownB 0 + 0x1008) ∧ wideBusy s 0 = false ∧ stageAUp s = true) ∧
    (∀ ainc ∈ [0, 0x80000000], let s := upState [(ownB 0, ainc + 16 * 2 ^ 26 + 0x14 * 2 ^ 20 + 0x2000)]
     (locateInd s 0 (raw s (ownB 0)).toNat).toOption = some ⟨0x42000, 16, 12⟩ ∧ Reaches s 0 0x42000 0x42000 ∧
     after (.indDataAccess 0 none) s (fun u => u.out == [.readData 0 (leBytes 4 0x200003E8)] && fld u (ownB 0) 0 16 == (if ainc = 0 then 0x2000 else 0x2004)) = true) := by
  refine ⟨⟨reaches_of (by decide +kernel), reaches_of (by decide +kernel), reaches_of (by decide +kernel), by decide +kernel⟩, fun a h => ⟨?_, ?_, ?_⟩⟩
  · revert a; decide +kernel
  · exact reaches_of (by revert a; decide +kernel)
  · revert a; decide +kernel
theorem witness_smbus : stageAUp State.reset = false ∧ stageAUp (upState []) = true ∧
    after (.smbusOffsetWrite 0x42000) (upState []) (fun u => after .smbusRegisterRead u fun v => v.out == [.smbus (leBytes 4 0x200003E8)]) = true := by
  decide +kernel
/-- A target that there is not; a register of a tile, of which CD0's clock runs or is stopped; a capture asked for in the cycle of another. -/
theorem witness_indirect_errors :
    (∀ a ∈ [17 * 2 ^ 26, 9 * 2 ^ 20], ∀ stop ∈ [false, true], let s : State := { upState [(ownB 0, a)] with hub := { entered := true, started := true, stopped := if stop then [(0, 1)] else [] } }
     Reaches s 0 0x60004 (ownB 0 + 4) ∧ flag s 8 30 = false ∧ (match locateInd s 0 (raw s (ownB 0)).toNat with | .error c => decide (a = 17 * 2 ^ 26) && c == 5 | .ok p => waits s none p == stop && p.key == seqB 0) = true ∧
     after (.indDataAccess 0 none) s (fun u => flag u 8 30 == (stop || decide (a = 17 * 2 ^ 26))) = true) ∧
    (let s : State := { upState [] with hub := { entered := true, started := true, wides := [(0, ⟨0, false, []⟩)] } }
     Reaches s 0 0x61008 (ownB 0 + 0x1008) ∧ wideBusy s 0 = true ∧ after (.wideReq 0) s (fun u => flag u (ownB 0 + 0x1008) 27) = true) :=
  ⟨fun a h b h' => ⟨reaches_of (by revert b a; decide +kernel), by revert b a; decide +kernel⟩, reaches_of (by decide +kernel), by decide +kernel⟩
/-- A 2-byte access; an 8-byte one at a multiple of 4; a place without a register; one behind a stopped clock; a second error; a link that is not there. -/
theorem witness_bus_errors :
    flag (upState []) 8 30 = false ∧ ¬ ((2 : Nat) = 4 ∧ 0 % 4 = 0 ∧ (3 : W64) = 0xF) ∧ locate (upState []) 0 0x3FC = .error 1 ∧
    after (.registerRead 0 4 8 0xFF) (upState []) (fun u => flag u 8 30 && fld u 0x14 24 5 == 2) = true ∧
    after (.registerWrite 0 0x3FC 4 0xF 7) (upState []) (fun u => raw u 0x10 == 0x3FC && fld u 0x14 24 5 == 1 && fld u 0x14 29 1 == 1) = true ∧
    (let s : State := { upState [] with hub := { entered := true, started := true, stopped := [(0, 12)] } }
     (match locate s 0 0x2000000 with | .ok p => waits s none p | .error _ => false) = true ∧ after (.registerRead 0 0x2000000 4 0xF) s (fun u => fld u 0x14 24 5 == 4) = true) ∧
    (let s := upState [(8, 0x40000000)]; flag s 8 30 = true ∧ after (.registerRead 0 4 8 0xFF) s (fun u => u.regs == s.regs && u.out == [.abort 0 false]) = true) ∧
    (twoLinks (upState []) = false ∧ after (.registerRead 1 4 8 0xFF) (upState []) (fun u => u == upState []) = true) :=
  ⟨by decide +kernel, by decide, rfl, by decide +kernel, by decide +kernel, by decide +kernel, by decide +kernel, by decide +kernel⟩

/-! ## The Fountain, copies, messages and packets -/

/-- A descriptor with a body. -/
def descB (opc : Nat) (body : List Byte) : List Byte := descOf' opc 0 body
/-- GENERATE of `n` words from 0 on of seed 0, to a line. -/
def genX (n dst : Nat) : Op := { opr 3 with desc := descB 3 (leBytes 4 0 ++ leBytes 4 n ++ leBytes 8 0 ++ leBytes 4 dst ++ leBytes 12 0), phase := .running }
/-- GENERATE of the words 0 and 1, to line 0. -/
def genO : Op := genX 2 0
/-- SAMPLE of two FP32 logits, at line 1: parameters and result at lines. -/
def smpX (params result rows : Nat) : Op :=
  { opr 4 with desc := descB 4 (leBytes 4 params ++ leBytes 4 result ++ leBytes 4 2 ++ leBytes 2 rows ++ leBytes 18 0x60), phase := .running }
/-- SAMPLE of one row: parameters at line 0, result at line 2. -/
def smpO : Op := smpX 0 2 1
/-- The operation at the head of CD0's unit, with the logits 1.0 and 2.0; blocks at lines 0, 3 (SEED_SRC), 4 (METHOD 3) and 5 (logits past the bank set). -/
def ftnState (o : Op) : State :=
  { withOp o with dies := [(0, { fountain := { queue := [0] }, hbm := { lines := [(0, BitVec.ofNat 512 (1 * 2 ^ 192)), (1, 0x400000003F800000),
      (3, BitVec.ofNat 512 (1 * 2 ^ 192 + 2 ^ 123)), (4, BitVec.ofNat 512 (1 * 2 ^ 192 + 3 * 2 ^ 120)), (5, BitVec.ofNat 512 (2 ^ 24 * 2 ^ 192))] } })] }
/-- A GENERATE that is written, one of no words, one past the bank set; an uncorrectable error in the unit. -/
theorem witness_generate : ∀ x ∈ [(2, 0, (0 : BitVec 8)), (0, 0, 0x22), (2, 2 ^ 24, 0x22)],
    let o := genX x.1 x.2.1
    let s := ftnState o
    Names s 0 false 0 0 o ∧ partOf s o.part = some prt ∧ o.phase = .running ∧ (dieOf s 0).fountain.queue.head? = some 0 ∧ opcOf o = 3 ∧ genOk (genArgs o) = decide (x.1 = 2) ∧
    spanDie prt (genArgs o).die = some 0 ∧ (x.1 = 2 → (writeBytes s 0 0 (genArgs o).dst 0 (genBytes (opSeed o) (genArgs o)).1).1 = x.2.2) ∧
    after (.generate 0 false 0 false) s (fun u => (opOf u 0).map (fun o => (o.finished, o.code)) == some (x.2.2 == 0, x.2.2) && (dieOf u 0).fountain.queue == []) = true ∧
    after (.generate 0 false 0 true) s (fun u => flag u (suspectReg 0) 1 && (dieOf u 0).fountain.queue == []) = true := by unfold Names; decide +kernel
/-- Greedy: the token is 1, YMAX 2.0; the first of two rows. -/
theorem witness_sample :
    (∀ rows ∈ [1, 2], let o := smpX 0 2 rows; let s := ftnState o
     Names s 0 false 0 0 o ∧ partOf s 0 = some prt ∧ o.phase = .running ∧ (dieOf s 0).fountain.queue.head? = some 0 ∧ opcOf o = 4 ∧ smpRows o = rows ∧ spanDie prt (smpDie o) = some 0 ∧
     (readBytes s 0 0 0 0 32).1 = 0 ∧ (rowArgs (readBytes s 0 0 0 0 32).2).ok = true ∧ (rowArgs (readBytes s 0 0 0 0 32).2).src = false ∧
     (rowArgs (readBytes s 0 0 0 0 32).2).logits = 1 ∧ (readBytes s 0 0 1 0 8).1 = 0 ∧
     after (.sample 0 false 0 1 false) s (fun u => (readBytes u 0 0 2 0 16).2 == leBytes 4 1 ++ leBytes 8 0 ++ leBytes 4 0x40000000 && (opOf u 0).map (·.finished) == some (rows == 1)) = true ∧
     after (.sample 0 false 0 0 true) s (fun u => flag u (suspectReg 0) 1) = true) := by unfold Names; decide +kernel
/-- Parameters past the bank set; a SEED_SRC row where it is refused; METHOD 3; logits past the bank set; a result past it. -/
theorem witness_sample_ends : ∀ x ∈ [(2 ^ 24, 2, false), (3, 2, true), (4, 2, false), (5, 2, false), (0, 2 ^ 24, false)],
    let o : Op := { smpX x.1 x.2.1 1 with strictAt := x.2.2 }
    let s := ftnState o
    let pr := readBytes s 0 0 x.1 0 32
    let a := rowArgs pr.2
    Names s 0 false 0 0 o ∧ spanDie prt (smpDie o) = some 0 ∧
    (x.1 = 2 ^ 24 ∧ pr.1 = 0x22 ∨ pr.1 = 0 ∧ (a.ok = false ∨ (a.src && o.strictAt) = true) ∧ (x.1 = 3 ∨ x.1 = 4) ∨
      pr.1 = 0 ∧ a.ok = true ∧ a.src = false ∧ ((readBytes s 0 0 a.logits 0 8).1 = 0x22 ∧ x.1 = 5 ∨ (readBytes s 0 0 a.logits 0 8).1 = 0 ∧ x.1 = 0)) ∧
    after (.sample 0 false 0 1 false) s (fun u => (opOf u 0).map (·.code) == some 0x22 && (dieOf u 0).fountain.queue == []) = true := by unfold Names; decide +kernel
/-- A ready operation enters a unit that has room, is held by a full one, finds no die, or is refused for ENT. -/
theorem witness_fountain_queue :
    (∀ o ∈ [genO, smpO], ∀ n ∈ [1, 8], let x : Op := { o with phase := .ready, opseq := 1 }
      let s : State := { withOp x with ops := [(0, { genO with phase := .running }), (1, x)], dies := [(0, { fountain := { queue := List.replicate n 0 } })] }
      Names s 0 false 1 1 x ∧ mayDispatch s x = true ∧ (opFlag x 3 && strict s 0) = false ∧ (partOf s x.part).bind (fun p => spanDie p 0) = some 0 ∧ (genArgs x).die = 0 ∧ smpDie x = 0 ∧
      after (if opcOf o = 3 then .generate 0 false 1 false else .sample 0 false 1 1 false) s (fun u => if n = 1 then (dieOf u 0).fountain.queue == [0, 1] else (dieOf u 0).fountain.heldOps == [1]) = true) ∧
    (let x : Op := { genO with phase := .ready }
     let s : State := { withOp x with parts := [(0, { prt with cur := { blk with span := 0 } })] }
     Names s 0 false 0 0 x ∧ mayDispatch s x = true ∧ (partOf s x.part).bind (fun p => spanDie p 0) = none ∧
     after (.generate 0 false 0 false) s (fun u => (opOf u 0).map (·.code) == some 0x10) = true) ∧
    (let x : Op := { opr 3 with desc := leBytes 64 0x0803, phase := .ready }
     let s := setRaw (withOp x) (hltB + 0x2000) 0x40000000
     Names s 0 false 0 0 x ∧ mayDispatch s x = true ∧ (opFlag x 3 && strict s x.part) = true) ∧
    (∀ n ∈ [1, 8], let s : State := { State.reset with dies := [(0, { fountain := { queue := List.replicate n 1, heldOps := [5, 6] } })] }
     (dieOf s 0).fountain.heldOps = [5, 6] ∧ after (.fountainQueueRelease 0) s (fun u => (dieOf u 0).fountain.queue == List.replicate n 1 ++ (if n = 8 then [] else [5])) = true) ∧
    (∀ drawn ∈ [false, true], let o : Op := { opr 3 with desc := leBytes 64 0x0803, phase := .ready, seedDrawn := drawn }
     let s : State := { withOp o with ks := { entropyOk := true } }
     Names s 0 false 0 0 o ∧ opFlag o 3 = true ∧ o.seedDrawn = drawn ∧ s.ks.entropyOk = true ∧ (withOp o).ks.entropyOk = false) := by unfold Names; decide +kernel

/-- A COPY of two lines between kinds `sk` and `dk`, from and to given addresses, positions `sp` and `dp`, remote module `m`. -/
def cpX (sk dk sa da sp dp m : Nat) : Op :=
  { opr 5 with desc := descB 5 (leBytes 8 sa ++ leBytes 8 da ++ leBytes 4 2 ++ leBytes 1 (sk + 4 * dk) ++ leBytes 1 sp ++ leBytes 1 dp ++ leBytes 1 m ++ leBytes 8 0), phase := .running }
/-- Addresses 64 and 1024 (host bytes) or lines 64 and 1024, remote module 0xFF. -/
def cpO (sk dk : Nat) : Op := cpX sk dk 64 1024 0 0 0xFF
theorem witness_copy : ∀ sk ∈ [0, 1], ∀ dk ∈ [0, 1, 2],
    let s := withOp (cpO sk dk)
    Names s 0 false 0 0 (cpO sk dk) ∧ opcOf (cpO sk dk) = 5 ∧ cpKind (cpO sk dk) false = sk ∧ cpKind (cpO sk dk) true = dk ∧ cpLines (cpO sk dk) = 2 ∧ cpDie s (cpO sk dk) false = some 0 ∧
    cpDie s (cpO sk dk) true = some 0 ∧ (readLines s 0 0 64 2).1 = 0 ∧ toLines (hostRead s 64 128) = [0, 0] ∧ (writeBytes s 0 0 1024 0 ([(0 : Line), 0].flatMap lineBytes)).1 = 0 ∧
    ((issueReq s 0 (cpPkt s (cpO sk 2) true 0 2 [0, 0]) ⟨0, 0, 0, some 0, 0, 2, true, false⟩).map (·.2)) = some true ∧
    after (.copy 0 false 0 64) s (fun u => (opOf u 0).map (fun o => (o.linesSent, o.linesDone)) == some (2, if dk = 2 then 0 else 2)) = true := by unfold Names; decide +kernel
/-- A remote source; a module no route leads to; a position with no die; a line past the bank set, as source and as destination. -/
theorem witness_copy_ends :
    (let o := cpO 2 0; let s := withOp o
     Names s 0 false 0 0 o ∧ cpKind o false = 2 ∧ ((issueReq s 0 (cpPkt s o false 0 2 []) ⟨0, 0, 0, some 0, 0, 2, false, false⟩).map (·.2)) = some true) ∧
    (∀ x ∈ [(cpX 2 0 0 0 0 0 5, (0x12 : BitVec 8)), (cpX 0 2 0 0 0 0 5, 0x12), (cpX 1 0 0 0 1 0 0, 0x10), (cpX 0 1 0 0 0 1 0, 0x10), (cpX 1 0 (2 ^ 24) 0 0 0 0, 0x22), (cpX 0 1 0 (2 ^ 24) 0 0 0, 0x22)],
     let o := x.1; let s := withOp o
     Names s 0 false 0 0 o ∧ opcOf o = 5 ∧ o.phase = .running ∧ o.finished = false ∧
     (x.2 = 0x12 ∧ ((issueReq s 0 (cpPkt s o (cpKind o false == 0) 0 2 (if cpKind o false = 0 then [0, 0] else [])) ⟨0, 0, 0, some 0, 0, 2, cpKind o false == 0, false⟩).map (·.2)) = some false ∨
      x.2 = 0x10 ∧ (cpDie s o false = none ∨ cpDie s o true = none) ∨ x.2 = 0x22 ∧ (readLines s 0 0 (2 ^ 24) 2).1 = 0x22 ∧ (writeBytes s 0 0 (2 ^ 24) 0 ([(0 : Line), 0].flatMap lineBytes)).1 = 0x22) ∧
     after (.copy 0 false 0 64) s (fun u => (opOf u 0).map (·.code) == some x.2) = true) := by unfold Names; decide +kernel
/-- A ready COPY; one whose lines have all been sent; one with no free tag. -/
theorem witness_copy_waits :
    (let o : Op := { cpO 0 0 with phase := .ready }
     Names (withOp o) 0 false 0 0 o ∧ mayDispatch (withOp o) o = true ∧ after (.copy 0 false 0 1) (withOp o) (fun u => (opOf u 0).map (·.linesDone) == some 1) = true) ∧
    (let o : Op := { cpO 2 0 with linesSent := 2 }
     Names (withOp o) 0 false 0 0 o ∧ mayDispatch (withOp o) o = false ∧ min (min 64 64) (cpLines o - o.linesSent) = 0) := by unfold Names; decide +kernel
/-- A MESSAGE that is sent, that no route takes, whose lines are past the bank set; one that has been sent. -/
theorem witness_message :
    (∀ x ∈ [(0, 0xFF, (0 : BitVec 8)), (0, 5, 0x12), (2 ^ 24, 0xFF, 0x22)],
     let o : Op := { opr 6 with desc := descB 6 (leBytes 4 x.1 ++ leBytes 4 0 ++ leBytes 1 x.2.1 ++ leBytes 23 0), phase := .ready }
     let s := withOp o
     Names s 0 false 0 0 o ∧ opcOf o = 6 ∧ mayDispatch s o = true ∧ (readLines s 0 0 x.1 1).1 = (if x.1 = 0 then 0 else 0x22) ∧
     after (.message 0 false 0) s (fun u => (opOf u 0).map (fun o => (o.linesSent, o.code)) == some (if x.2.2 = 0 then 1 else 0, x.2.2)) = true) ∧
    (let o : Op := { opr 6 with phase := .running, linesSent := 1 }
     Names (withOp o) 0 false 0 0 o ∧ opcOf o = 6 ∧ mayDispatch (withOp o) o = false ∧ o.linesSent ≠ 0) := by unfold Names; decide +kernel
/-- Every tag of CD0's port is live: no request can be issued. -/
theorem witness_no_tag : freeTag { tags := (List.range 4096).map fun i => (i, ⟨0, 0, 0, none, 0, 1, false, false⟩) } = none := by
  unfold freeTag
  rw [List.find?_eq_none]
  intro t h
  obtain ⟨i, -, rfl⟩ := List.mem_map.mp h
  simpa [mhas] using Nat.mod_lt i (by decide)

/-- A packet of one line from this module to a die of it; and the module with that packet in CD0's queue from this module, and at the front of
a lane of its port. -/
def pkt (typ : Nat) (payload : List Line) : Pkt := { typ := typ, dmod := 0xFF, ddie := 0, sdie := 1, smod := 0xFF, tag := 7, gen := 2, payload := payload }
def peerPrt : Partition := { prt with cur := { blk with peers := [0xFF], msgCtx := some 0 } }
def pktState (loc : Bool) (q : Pkt) : State :=
  { withOp (opr 5) with
    parts := [(0, peerPrt)], tcs := [(0, { phase := .active })]
    ports := [(0, if loc then { loop := [pktFlits q] } else { rxq := [(pktVl q.typ, pktFlits q)] })] }
/-- Whether a packet is taken as it was sent. -/
def takes (s : State) (vl typ : Nat) (loc : Bool) (q : Pkt) (f : State → Bool) : Bool := match takePkt s 0 vl typ loc with | some (p, s1) => p == q && f s1 | none => false
theorem witness_requests : ∀ loc ∈ [true, false], ∀ typ ∈ [1, 2, 3],
    let q := pkt typ (if typ = 1 then [] else [0x77])
    let s := pktState loc q
    takes s 2 typ loc q (fun s1 => refusal s1 q == 0 && (readLines s1 0 0 0 1).1 == 0 && (writeLines s1 0 0 0 q.payload).1 == 0 && (routePkt s1 0 (answerOf s1 0 q 0 [0])).isSome &&
      (routePkt s1 0 (answerOf s1 0 q 0 [])).isSome) = true ∧
    (portOf s 0).refuse = false ∧ q.dmod = modId s 0 ∧ partOf s 0 = some peerPrt ∧ (tcOf s 0).phase = .active := by decide +kernel
theorem test_requests :
    (after (.readRequest 0 true) (pktState true (pkt 1 [])) (fun u => (((portOf u 1).loop.map (fun f => (pktOf (f.headD 0)).typ)) == [4])) &&
     after (.writeRequest 0 true) (pktState true (pkt 2 [0x77])) (fun u => readLine u 0 0 0 == (0, 0x77)) &&
     after (.messagePacket 0 true) (pktState true (pkt 3 [0x77])) (fun u => (tcOf u 0).waiting == [⟨0, 0xFF, 1, 1, 0, 3, 0, 7, 2⟩])) = true := by decide +kernel
/-- A request of a module that is no peer. -/
theorem witness_request_refused :
    (let q : Pkt := { pkt 1 [] with smod := 3, dmod := 0xFF }
     takes (pktState true q) 2 1 true q (fun s1 => refusal s1 q == 0x20) = true) ∧
    (let q : Pkt := { pkt 1 [] with part := 9 }
     takes (pktState true q) 2 1 true q (fun s1 => refusal s1 q == 0x20 && (routePkt s1 0 (answerOf s1 0 q 0x20 [])).isSome) = true) := by decide +kernel
/-- A request for module 5, whose route is port 1, or that has none; a port that is being retired; no request; a MESSAGE to a partition without a message context. -/
theorem witness_transit : ∀ typ ∈ [1, 2, 3],
    let q : Pkt := { pkt typ (if typ = 1 then [] else [0x77]) with dmod := 5 }
    let s0 : State := { pktState false q with ports := [(0, { rxq := [(2, pktFlits q)] }), (1, { phase := .up })] }
    let s : State := setRaw s0 (vlR 0 (0x400 + 20)) 0x80000001
    takes s 2 typ false q (fun s1 => (routePkt s1 0 q).isSome) = true ∧ takes s0 2 typ false q (fun s1 => (routePkt s1 0 q).isNone) = true ∧
    (portOf s 0).refuse = false ∧ q.dmod ≠ modId s 0 ∧ (takePkt State.reset 0 2 typ true).isNone = true ∧
    (let p := pkt typ (if typ = 1 then [] else [0x77])
     let v : State := { pktState false p with ports := [(0, { rxq := [(2, pktFlits p)], refuse := true })], parts := [(0, { peerPrt with cur := { peerPrt.cur with msgCtx := none } })] }
     takes v 2 typ false p (fun s1 => refusal s1 p == 0 && ((partOf s1 p.part).bind (fun p => p.cur.msgCtx)).isNone) = true ∧ (portOf v 0).refuse = true) := by decide +kernel

/-- An express message (14 R339) for module `m`: type 0x10, line 5 of logical tile 0 of die 0, from module 0xFF. -/
def expressLine (m : Nat) : Line := BitVec.ofNat 512 (0x10 + 5 * 2 ^ 8 + m * 2 ^ 32 + 0xFF * 2 ^ 51)
/-- An express message for a tile of this module: at once, behind an instruction that holds its line, behind a raised Sluice, not admitted. -/
theorem witness_express : ∀ k ∈ [0, 1, 2, 3],
    (let w : Instr := .expressMessageArrival 0
     let t : Tile := { mem := { shadow := some ⟨0, [], false, []⟩, loadLines := if k = 1 then some (0, 8) else none } }
     let s : State := { pktState true (pkt 1 []) with
       ports := [(0, { rxq := [(0, [expressLine 0xFF])] })], tiles := [(0, t)], parts := [(0, if k = 3 then prt else peerPrt)]
       dies := [(0, { ltMap := [(0, some (0, 0))], runnel := { sluices := if k = 2 then [(0, { phase := .closed })] else [] } })] }
     let x := (expressLine 0xFF).toNat
     headFlit (portOf s 0) 0 = some (expressLine 0xFF) ∧ bitsOf x 32 8 = modId s 0 ∧ ptOf s (bitsOf x 28 4) (bitsOf x 21 7) = some (0, 0) ∧
     ltOwner s 0 (bitsOf x 21 7) = some (if k = 3 then prt else peerPrt) ∧ bitsOf x 0 8 = 0x10 ∧ dieUp s 0 = true ∧ peerPrt.cur.peers.contains (bitsOf x 51 8) = true ∧
     prt.cur.peers.contains (bitsOf x 51 8) = false ∧ (tileOf s 0 0).fetch.rings = [] ∧ ((sluiceOf s 0 0).phase = .opened ↔ k ≠ 2) ∧ linesHeld (tileOf s 0 0).mem 5 1 = decide (k = 1) ∧
     headFlit (portOf State.reset 0) 0 = none ∧
     after w s (fun u => (mget 0 (tileOf u 0 0).mem.obuf 5 == expressLine 0xFF) == decide (k = 0) && (tileOf u 0 0).mem.xpWait == (if k = 1 then [(5, expressLine 0xFF)] else [])) = true) := by decide +kernel
/-- An express message for module 5, whose route is port 1, or that has none. -/
theorem witness_express_transit :
    (let s0 : State := { State.reset with ports := [(0, { rxq := [(0, [expressLine 5])] }), (1, { phase := .up })] }
     let s : State := setRaw s0 (vlR 0 (0x400 + 20)) 0x80000001
     let x := (expressLine 5).toNat
     headFlit (portOf s 0) 0 = some (expressLine 5) ∧ bitsOf x 32 8 ≠ modId s 0 ∧ routeOf s 0 (bitsOf x 32 8) (bitsOf x 59 4) = some 1 ∧
     routeOf s0 0 (bitsOf x 32 8) (bitsOf x 59 4) = none) := by decide +kernel

/-- A live request of CD0 under tag 7. -/
def tagRec (write message : Bool) : TagRec := ⟨2, 0, 0, some 0, 0, 1, write, message⟩
/-- The module with an answer to it. -/
def ansState (loc : Bool) (q : Pkt) (o : Op) (r : TagRec) : State :=
  { withOp o with ports := [(0, { tags := [(7, r)], loop := if loc then [pktFlits q] else [], rxq := if loc then [] else [(3, pktFlits q)] })] }
theorem witness_write_acknowledged : ∀ loc ∈ [true, false], ∀ st ∈ [0, 0x22], ∀ m ∈ [true, false],
    let q : Pkt := { pkt 5 [] with status := st }
    let s := ansState loc q (cpO 0 2) (tagRec true m)
    takes s 3 5 loc q (fun _ => true) = true ∧ q.dmod = modId s 0 ∧ opOf s 0 = some (cpO 0 2) ∧ mfind (portOf s q.ddie).tags q.tag = some (tagRec true m) ∧ (tagRec true m).gen = q.gen ∧
    mltNs s < (tagRec true m).issued + timeoutNs s 0 ∧ (cpO 0 2).runDie = q.ddie := by decide +kernel
/-- A line read for a COPY to host memory, a local die, another module, a position with no die and a line past the bank set. -/
theorem witness_read_response : ∀ loc ∈ [true, false], ∀ x ∈ [(cpO 2 0, (0 : BitVec 8)), (cpO 2 1, 0), (cpO 2 2, 0), (cpX 2 1 64 1024 0 1 0, 0x10), (cpX 2 1 64 (2 ^ 24) 0 0 0, 0x22), (cpX 2 2 64 1024 0 0 5, 0x12)],
    let q : Pkt := pkt 4 [0x55]
    let o := x.1
    let s := ansState loc q o (tagRec false false)
    takes s 3 4 loc q (fun _ => true) = true ∧ q.dmod = modId s 0 ∧ mfind (portOf s q.ddie).tags q.tag = some (tagRec false false) ∧ (tagRec false false).gen = q.gen ∧
    mltNs s < 0 + timeoutNs s 0 ∧ opOf s 0 = some o ∧ o.phase = .running ∧ o.runDie = q.ddie ∧ q.status = 0 ∧
    (x.2 = 0x10 → cpDie s o true = none) ∧ (x.2 = 0x22 → (writeBytes s 0 0 (2 ^ 24) 0 (lineBytes 0x55)).1 = 0x22) ∧
    after (.readResponse 0 loc) s (fun u => (cpKind o true != 0 || hostRead u 1024 1 == [0x55]) && (opOf u 0).map (·.code) == some x.2) = true := by decide +kernel
/-- An answer of another generation, of an operation that no longer runs, of none; of a module beyond this one; no answer. -/
theorem witness_stale_answers :
    (let q : Pkt := { pkt 4 [0x55] with gen := 3 }
     takes (ansState true q (cpO 2 0) (tagRec false false)) 3 4 true q (fun _ => true) = true ∧ (tagRec false false).gen ≠ q.gen) ∧
    (let o : Op := { cpO 2 0 with phase := .recordDue }
     let s := ansState true (pkt 4 [0x55]) o (tagRec false false)
     takes s 3 4 true (pkt 4 [0x55]) (fun _ => true) = true ∧ opOf s 0 = some o ∧ o.phase ≠ .running ∧
     after (.readResponse 0 true) s (fun u => u.host == [] && !mhas (portOf u 0).tags 7) = true) ∧
    (let q : Pkt := { pkt 4 [0x55] with dmod := 5 }
     let s : State := { State.reset with ports := [(0, { rxq := [(3, pktFlits q)] })] }
     takes s 3 4 false q (fun _ => true) = true ∧ q.dmod ≠ modId s 0 ∧ (takePkt State.reset 0 3 4 true).isNone = true) := by decide +kernel
theorem witness_transaction_timeout : ∀ ph ∈ [PortPhase.up, .lost],
    let s : State := { withOp (cpO 2 0) with ports := [(0, { phase := ph, tags := [(7, tagRec false false)] })], clp := { mlt := 10 ^ 10 * 2 ^ 40 } }
    mfind (portOf s 0).tags 7 = some (tagRec false false) ∧ 0 + timeoutNs s 0 ≤ mltNs s ∧ decided (cpO 2 0) = false ∧
    after (.transactionTimeout 0 7) s (fun u => (opOf u 0).map (·.code) == some (if ph = .lost then 0x12 else 0x11)) = true := by decide +kernel
/-- A request whose time has not come, one whose operation is past its decision, no request. -/
theorem witness_timeout_not_due :
    (let s (mlt : Nat) : State := { withOp { cpO 2 0 with phase := .recordDue } with ports := [(0, { tags := [(7, tagRec false false)] })], clp := { mlt := mlt } }
     mltNs (s 0) < 0 + timeoutNs (s 0) 0 ∧ 0 + timeoutNs (s (10 ^ 10 * 2 ^ 40)) 0 ≤ mltNs (s (10 ^ 10 * 2 ^ 40)) ∧ decided { cpO 2 0 with phase := .recordDue } = true ∧
     mfind (portOf State.reset 0).tags 7 = none) := by decide +kernel

/-- A Cascade progress message and a lock-step record; a packet for another module; no packet. -/
theorem witness_management :
    (let q := pkt 6 [1]
     let s : State := { pktState true q with csteps := [(stepKey 0 0, { group := 0, epoch := 0, step := 0, exact := true, fast := false, autorpl := false, launch := 0, pieces := 1, dst := 0 })] }
     takes s 4 6 true q (fun _ => true) = true ∧ byteAt (q.payload.flatMap lineBytes) 0 = 1 ∧ (cstepOf s 0 0).isSome = true) ∧
    (let q := pkt 6 [2]
     let s : State := { pktState false q with pairs := [⟨0, 1, 5, [], []⟩] }
     takes s 4 6 false q (fun _ => true) = true ∧ q.dmod = modId s 0 ∧ byteAt (q.payload.flatMap lineBytes) 0 = 2 ∧
     after (.managementPacket 0 false) s (fun u => u.pairs.map (·.fromMirror.length) == [1]) = true) ∧
    (let q : Pkt := { pkt 6 [2] with dmod := 5 }
     let s : State := setRaw { pktState false q with ports := [(0, { rxq := [(4, pktFlits q)] }), (1, { phase := .up })] } (vlR 0 (0x400 + 20)) 0x80000001
     takes s 4 6 false q (fun s1 => (routePkt s1 0 q).isSome) = true ∧ q.dmod ≠ modId s 0 ∧ (takePkt State.reset 0 4 6 true).isNone = true ∧ (takePkt State.reset 0 4 7 true).isNone = true) := by decide +kernel
/-- The messages of a step (14 R362; the model's layout, note 158) of this epoch and another, at the module that decides and at one that does not; of no step. -/
theorem witness_step_messages : ∀ kind ∈ [3, 4, 5, 6, 7], ∀ rank ∈ [0, 1], ∀ ep ∈ [0, 1],
    let q := pkt 6 [BitVec.ofNat 512 (kind + ep * 2 ^ 24)]
    let b := q.payload.flatMap lineBytes
    let c : CStep := { group := 0, epoch := 1, step := 0, exact := true, fast := false, autorpl := false, launch := 0, pieces := 1, dst := 0 }
    let g : Group := { epoch := 1, myRank := rank, stations := [⟨0, 0, 0, 0, 1⟩, ⟨1, 1, 0, 1, 1⟩] }
    let s : State := { pktState true q with csteps := [(0, c)], groups := [(0, g)] }
    takes s 4 6 true q (fun _ => true) = true ∧ byteAt b 0 = kind ∧ fieldLe b 1 2 = 0 ∧ fieldLe b 7 4 = 0 ∧ fieldLe b 3 4 = ep ∧ groupOf s 0 = some g ∧ cstepOf s 0 0 = some c ∧
    decides g = decide (rank = 1) ∧ groupOf (pktState true q) 0 = none ∧
    after (.managementPacket 0 true) s (fun u => (ep == 1 && kind == 4 && (cstepOf u 0 0).map (·.nacked) == some [0]) || ep == 0 && u.csteps == s.csteps || kind != 4 && ep == 1) = true := by decide +kernel
/-- R338: a packet of no listed TYPE behind a management packet is discarded with its one line, and counted. -/
theorem test_unlisted_type :
    after (.managementPacket 0 false) { pktState false (pkt 6 [1]) with ports := [(0, { rxq := [(4, pktFlits (pkt 6 [1]) ++ pktFlits { pkt 9 [3] with dmod := 1 })] })] }
      (fun u => mget [] (portOf u 0).rxq 4 == [] && fld u (vlR 0 0x14) 0 8 == 1 && mget 0 (portOf u 0).owed 4 == 4) = true := by decide +kernel
/-- SURVEY with a result buffer of 128 bytes at host address 4096. -/
def svyO (ph : OpPhase) : Op := { opr 9 with desc := descB 9 (leBytes 8 4096 ++ leBytes 24 128), phase := ph }
theorem witness_survey :
    (let q : Pkt := { pkt 7 [BitVec.ofNat 512 (1 + 3 * 2 ^ 32), 0, 0] with lines := 3 }
     let s0 := pktState true q
     let s : State := { s0 with ops := [(0, svyO .running)], hub := { s0.hub with surveyOps := [(3, 0)] } }
     let b := q.payload.flatMap lineBytes
     takes s 4 7 true q (fun _ => true) = true ∧ byteAt b 0 = 1 ∧ mfind s.hub.surveyOps (fieldLe b 4 4) = some 0 ∧ opOf s 0 = some (svyO .running) ∧ 128 * (0 + 1) ≤ dF (svyO .running) 40 4 ∧
     after (.surveyPacket 0 true) s (fun u => (opOf u 0).map (·.count) == some 1) = true) ∧
    (let q : Pkt := { pkt 7 [BitVec.ofNat 512 (3 * 2 ^ 32), 0, 0] with lines := 3 }
     let s0 := pktState false q
     let s : State := { s0 with hub := { s0.hub with surveys := [(3, 0xFF)] } }
     takes s 4 7 false q (fun _ => true) = true ∧ byteAt (q.payload.flatMap lineBytes) 0 = 0 ∧ mhas s.hub.surveys (fieldLe (q.payload.flatMap lineBytes) 4 4) = true) := by decide +kernel
/-- A flood taken up on the port that is up and sent on from the other; a report for another module, one there is no room for, one of no SURVEY. -/
theorem witness_survey_flood :
    (let q : Pkt := { pkt 7 [BitVec.ofNat 512 (3 * 2 ^ 32), 0, 0] with lines := 3 }
     let s : State := { State.reset with ports := [(0, { rxq := [(4, pktFlits q)], phase := .up, pver := 1 }), (1, { phase := .up, pver := 1 })] }
     takes s 4 7 false q (fun s1 => (portOf s1 1).phase == .up) = true ∧ byteAt (q.payload.flatMap lineBytes) 0 = 0 ∧ mhas s.hub.surveys (fieldLe (q.payload.flatMap lineBytes) 4 4) = false ∧ q.hops < 8 ∧
     after (.surveyPacket 0 false) s (fun u => mfind u.hub.surveys 3 == some 0xFF && (mget [] (portOf u 1).txq (txKey 4 0)).length == 1) = true) ∧
    (let q : Pkt := { pkt 7 [BitVec.ofNat 512 (1 + 3 * 2 ^ 32), 0, 0] with lines := 3 }
     let o : Op := { svyO .running with count := 1 }
     let s0 := pktState true q
     let s : State := { s0 with ops := [(0, o)], hub := { s0.hub with surveyOps := [(3, 0)] } }
     takes s 4 7 true q (fun _ => true) = true ∧ mfind s.hub.surveyOps 3 = some 0 ∧ opOf s 0 = some o ∧ dF o 40 4 < 128 * (o.count + 1) ∧
     after (.surveyPacket 0 true) s (fun u => (opOf u 0).map (·.count) == some 1) = true ∧ mfind s0.hub.surveyOps 3 = none) ∧
    (let q : Pkt := { pkt 7 [BitVec.ofNat 512 (1 + 3 * 2 ^ 32), 0, 0] with lines := 3, dmod := 5 }
     let s : State := { State.reset with ports := [(0, { rxq := [(4, pktFlits q)] })] }
     takes s 4 7 false q (fun _ => true) = true ∧ q.dmod ≠ modId s 0) := by decide +kernel
theorem witness_survey_operation :
    (let s := withOp (svyO .ready)
     Names s 0 false 0 0 (svyO .ready) ∧ opcOf (svyO .ready) = 9 ∧ mayDispatch s (svyO .ready) = true ∧ (let v : State := { s with ports := [(0, { phase := .up, pver := 1 })] }; after (.survey 0 false 0) v (fun u => ((portOf u 0).plumb.map (·.surveys)) == some [0xFF00]) = true)) ∧
    (let s : State := { withOp (svyO .running) with clp := { mlt := 1000000000 * 2 ^ 40 } }
     Names s 0 false 0 0 (svyO .running) ∧ (svyO .running).dispatchedAt + 1000000000 ≤ mltNs s ∧ after (.survey 0 false 0) s (fun u => (opOf u 0).map (·.phase) == some .recordDue) = true) ∧
    (let s := withOp (svyO .running); mayDispatch s (svyO .running) = false ∧ mltNs s < (svyO .running).dispatchedAt + 1000000000) := by
  unfold Names; decide +kernel

/-! ## The Cascade -/

/-- Group 0 of epoch 1: `n` dies of this module, from CD0 on, each with one contribution. -/
def grp (n : Nat) : Group :=
  { epoch := 1, contributions := n, stations := (List.range n).map fun i => ⟨0, i, 0, i, 1⟩, map := List.replicate n ⟨0, 0⟩, parts := [0] }
/-- Its step 0, of one exact piece. -/
def cst : CStep := { group := 0, epoch := 1, step := 0, exact := true, fast := false, autorpl := true, launch := 0, pieces := 1, dst := 0 }
/-- The CASCADE operation that runs it, under an epoch. -/
def cscE (ep : Nat) (ph : OpPhase) : Op := { opr 2 with desc := descB 2 (leBytes 4 ep ++ leBytes 8 0 ++ leBytes 4 1), phase := ph }
/-- Under the group's own. -/
def cscO (ph : OpPhase) : Op := cscE 1 ph
def cscState (n : Nat) (cs : List CStep) (o : Op) (mlt : Nat) : State :=
  { withOp o with
    parts := [(0, { prt with cur := { blk with span := 2 ^ n - 1 } })], groups := [(0, grp n)], csteps := cs.map fun c => (0, c), clp := { mlt := mlt }
    dies := (List.range n).map fun d => (d, { ltMap := [(0, some (0, 0))] }) }
/-- The state in which the time of a piece has come. -/
def dueState (n : Nat) (c : CStep) (pos : Nat) (final : Bool) : State :=
  cscState n [c] (cscO .running) (dueAt (cscState n [c] (cscO .running) 0) (grp n) c 0 pos final * 2 ^ 40)
theorem due_of (n : Nat) (c : CStep) (pos : Nat) (final : Bool) : dueAt (dueState n c pos final) (grp n) c 0 pos final ≤ mltPs (dueState n c pos final) := by
  show dueAt (cscState n [c] (cscO .running) 0) (grp n) c 0 pos final ≤ dueAt (cscState n [c] (cscO .running) 0) (grp n) c 0 pos final * 2 ^ 40 * 1000 / 2 ^ 40
  omega

/-- A step set up, joined where it stands; under an epoch to come, or behind 64 steps of CD0, it waits; under an epoch that is past it ends. -/
theorem witness_cascade :
    (∀ cs ∈ [[], [cst]], let s := cscState 3 cs (cscO .ready) 0
     Names s 0 false 0 0 (cscO .ready) ∧ opcOf (cscO .ready) = 2 ∧ mayDispatch s (cscO .ready) = true ∧ groupOf s 0 = some (grp 3) ∧ cscGroup (cscO .ready) = 0 ∧
     cascadeFault s (cscO .ready) = none ∧ (grp 3).epoch = cscEpoch (cscO .ready) ∧ (∀ d ∈ groupDies (grp 3), stepsOn s d < 64) ∧ cstepOf s 0 (cscStep (cscO .ready)) = cs.head? ∧
     after (.cascade 0 false 0) s (fun u => (cstepOf u 0 0).map (·.pieces) == some 1) = true) ∧
    (∀ ep ∈ [0, 2], let s := cscState 3 [] (cscE ep .ready) 0
     Names s 0 false 0 0 (cscE ep .ready) ∧ mayDispatch s (cscE ep .ready) = true ∧ cscEpoch (cscE ep .ready) = ep ∧ cascadeFault s (cscE ep .ready) = (if ep = 0 then some 0x13 else none) ∧
     after (.cascade 0 false 0) s (fun u => (opOf u 0).map (·.code) == some (if ep = 0 then 0x13 else 0) && u.csteps == []) = true) ∧
    (let s : State := { cscState 3 [] (cscO .ready) 0 with csteps := (List.range 64).map fun i => (i + 1, { cst with step := i + 1 }) }
     mayDispatch s (cscO .ready) = true ∧ cascadeFault s (cscO .ready) = none ∧ cstepOf s 0 0 = none ∧ 0 ∈ groupDies (grp 3) ∧ 64 ≤ stepsOn s 0) := by unfold Names; decide +kernel
/-- Three stations: the first sends its own piece, the second a running one, the second a final one; and a chain of one. -/
theorem witness_piece_forward :
    (∀ e ∈ [(0, false), (1, false), (1, true)], let c : CStep := { cst with running := [(2 ^ 24, [])], final := [(2 ^ 24, [])] }
      let s := dueState 3 c e.1 e.2
      let st : Station := ⟨0, e.1, 0, e.1, 1⟩
      groupOf s 0 = some (grp 3) ∧ cstepOf s 0 0 = some c ∧ stationAt (grp 3) e.1 = some st ∧ isLocal (grp 3) st = true ∧ c.sent = [] ∧ c.attempts = 0 ∧
      stationReady s (grp 3) c st = true ∧ (stationAt (grp 3) (nextPos c 3 0 e.1)).isSome = true ∧ mget 0 c.late (lateKey e.1 e.2) = 0 ∧ dueAt s (grp 3) c 0 e.1 e.2 ≤ mltPs s ∧
      c.epoch = (grp 3).epoch ∧
      ((e.2 = false ∧ relPos c 3 0 e.1 = 0 ∧ landed s (grp 3) st = true ∧ evenAt s (grp 3) c st 0 [] = true) ∨
       (e.2 = false ∧ 0 < relPos c 3 0 e.1 ∧ relPos c 3 0 e.1 < 2 ∧ mfind c.running (e.1 * 2 ^ 24 + 0) = some []) ∨ (e.2 = true ∧ mfind c.final (e.1 * 2 ^ 24 + 0) = some []))) ∧
    (let s := dueState 1 cst 0 false
     groupOf s 0 = some (grp 1) ∧ cstepOf s 0 0 = some cst ∧ stationReady s (grp 1) cst ⟨0, 0, 0, 0, 1⟩ = true ∧ dueAt s (grp 1) cst 0 0 false ≤ mltPs s ∧
     landed s (grp 1) ⟨0, 0, 0, 0, 1⟩ = true ∧ evenAt s (grp 1) cst ⟨0, 0, 0, 0, 1⟩ 0 [] = true) := by
  refine ⟨fun e h => ⟨?_, ?_, ?_, ?_, ?_, ?_, ?_, ?_, ?_, due_of .., ?_, ?_⟩, ⟨by decide +kernel, by decide +kernel, by decide +kernel, due_of .., by decide +kernel, by decide +kernel⟩⟩ <;> (revert e; decide +kernel)
/-- Contributions of 8 and of 7 units at one station; a running value of one accumulator where the station's have 256. -/
theorem witness_uneven :
    (let g : Group := { grp 1 with contributions := 2, stations := [⟨0, 0, 0, 0, 2⟩], map := [⟨0, 0⟩, ⟨0, 505⟩] }
     let s : State := { cscState 1 [cst] (cscO .running) 0 with groups := [(0, g)] }
     stationReady s g cst ⟨0, 0, 0, 0, 2⟩ = true ∧ landed s g ⟨0, 0, 0, 0, 2⟩ = true ∧ relPos cst 1 0 0 = 0 ∧ evenAt s g cst ⟨0, 0, 0, 0, 2⟩ 0 [] = false) ∧
    (let s := cscState 3 [cst] (cscO .running) 0
     landed s (grp 3) ⟨0, 1, 0, 1, 1⟩ = true ∧ evenAt s (grp 3) cst ⟨0, 1, 0, 1, 1⟩ 0 [(0, 0, false)] = false) := by decide +kernel

/-- A piece from position 0 to position 1. -/
def piece0 (final : Bool) : Piece := { group := 0, epoch := 1, step := 0, num := 0, fromPos := 0, toPos := 1, final := final }
/-- A piece received with a good check and with a bad one, the third of these; at the first, the second (`last` of the distribution) and the last of the stations. -/
theorem witness_piece_receive : ∀ f ∈ [false, true], ∀ ok ∈ [false, true], ∀ bad ∈ [0, 2],
    let c : CStep := { cst with phase := .running, transit := [(pieceKey 0 0 f, piece0 f)], crcFails := [(pieceKey 0 0 f, bad)] }
    let s := cscState 3 [c] (cscO .running) 0
    cstepOf s 0 0 = some c ∧ mfind c.transit (pieceKey 0 0 f) = some (piece0 f) ∧ stationAt (grp 3) 1 = some ⟨0, 1, 0, 1, 1⟩ ∧ stationReady s (grp 3) c ⟨0, 1, 0, 1, 1⟩ = true ∧
    (grp 3).held = [] ∧ c.nacked = [] ∧ landed s (grp 3) ⟨0, 1, 0, 1, 1⟩ = true ∧ evenAt s (grp 3) c ⟨0, 1, 0, 1, 1⟩ 0 [] = true ∧ mget 0 c.crcFails (pieceKey 0 0 f) = bad ∧
    after (.pieceReceive (.chain 0 0 0 0 f ok)) s (fun u => (cstepOf u 0 0).map (·.nacked.length) == (if ok then some 0 else if bad = 0 then some 1 else none) &&
      (ok || bad == 0 || flag u (suspectReg 1) 2)) = true := by decide +kernel
theorem witness_piece_port_and_resend :
    (let s : State := { cscState 3 [] (cscO .ready) 0 with ports := [(0, { rxq := [(1, [0])] })] }
     mget [] (portOf s 0).rxq 1 = [0] ∧ wireLen (lineBytes 0) ≤ 1 ∧ (arrive s (parseWire (lineBytes 0)).1 (parseWire (lineBytes 0)).2).isSome = true) ∧
    (let c : CStep := { cst with phase := .running, transit := [(pieceKey 0 0 false, piece0 false)], nacked := [pieceKey 0 0 false] }
     let s := cscState 3 [c] (cscO .running) 0
     cstepOf s 0 0 = some c ∧ pieceKey 0 0 false ∈ c.nacked ∧ after (.pieceResend 0 0 0 0 false) s (fun u => (cstepOf u 0 0).map (·.nacked) == some []) = true) := by decide +kernel

/-- A step that is decided; held for a suspect event here or on the way; ended for a failed checksum; run again in fixed order. -/
theorem witness_cascade_commit : ∀ x ∈ [(0, CPhase.decided), (1, .held), (2, .held), (3, .done), (4, .waiting)],
    let c : CStep := { cst with phase := .running, returned := [0], holdAsked := x.1 == 2, chkAsked := x.1 == 3, fast := x.1 == 4, sat := x.1 == 4 }
    let s := cscState 1 [c] { cscO .running with suspect := x.1 == 1 } 0
    groupOf s 0 = some (grp 1) ∧ cstepOf s 0 0 = some c ∧ keysRise s.ops = true ∧ decides (grp 1) = true ∧ earlierOpen s c = false ∧
    (∀ k, k < c.pieces → k ∈ c.returned) ∧ stepHeld s c = (if x.1 = 1 then [0] else []) ∧ (∀ e ∈ stepOps s 0 0, e.2.chkFail = false) ∧ (c.fast && c.exact && c.sat) = decide (x.1 = 4) ∧
    after (.cascadeCommit 0 0) s (fun u => (cstepOf u 0 0).map (·.phase) == (if x.1 = 3 then none else some x.2)) = true := by decide +kernel
/-- A marker at the last station, at the first of two, at one whose DST is past the bank set. -/
theorem witness_commit_marker : ∀ n ∈ [1, 2], ∀ dst ∈ [0, 2 ^ 24],
    (let c : CStep := { cst with phase := .decided, dst := dst, final := [(0, [(1, 0, false)])] }
     let s := cscState n [c] (cscO .committed) 0
     groupOf s 0 = some (grp n) ∧ cstepOf s 0 0 = some c ∧ stationAt (grp n) 0 = some ⟨0, 0, 0, 0, 1⟩ ∧ isLocal (grp n) ⟨0, 0, 0, 0, 1⟩ = true ∧ (localStations (grp n)).length = n ∧
     (1 : W32).toNat = (grp n).epoch ∧ c.markers = [] ∧ markerDue (grp n) c 0 = true ∧ ((writeResult s (grp n) c 0 ⟨0, 0, 0, 0, 1⟩).1 = 0 ↔ dst = 0) ∧
     after (.commitMarker 0 1 0 0) s (fun u => (cstepOf u 0 0).isNone == decide (n = 1) && (opOf u 0).map (·.phase) == some (if n = 1 then .recordDue else .committed)) = true) := by decide +kernel
/-- A held step runs again, and ends after its third run. -/
theorem witness_step_replay : ∀ r ∈ [[], [(⟨0, false, true, 0⟩ : RunRec), ⟨0, false, true, 0⟩]],
    (let c : CStep := { cst with phase := .held }
     let o : Op := { cscO .held with runs := r }
     let s := cscState 1 [c] o 0
     Names s 0 false 0 0 o ∧ cscGroup o = 0 ∧ cscStep o = 0 ∧ o.phase = .held ∧ o.runs.length = r.length ∧ keysRise s.ops = true ∧ cstepOf s 0 0 = some c ∧
     after (.replayDispatch 0 false 0 9) s (fun u => (cstepOf u 0 0).map (fun c => (c.phase, c.launch)) == (if r = [] then some (.waiting, 9) else none)) = true) := by unfold Names; decide +kernel

theorem witness_membership :
    (∀ ph ∈ [CPhase.running, .waiting], let c : CStep := { cst with phase := ph }
     let s := cscState 1 [c] (cscO .running) 0
     groupOf s 0 = some (grp 1) ∧ cstepOf s 0 0 = some c ∧ localStations (grp 1) = [(0, ⟨0, 0, 0, 0, 1⟩)] ∧ stationReady s (grp 1) c ⟨0, 0, 0, 0, 1⟩ = true ∧
     stationAt (grp 1) ((0 + 1) % (grp 1).stations.length) = some ⟨0, 0, 0, 0, 1⟩ ∧
     after (.cascadeProgressMessage 0 0) s (fun u => (cstepOf u 0 0).map (fun x => mhas x.heard 0) == some (ph == .running)) = true) ∧
    (∀ t ∈ [0, 10 ^ 9], let c : CStep := { cst with phase := .running }
     let s := cscState 3 [c] (cscO .running) (t * 2 ^ 40)
     cstepOf s 0 0 = some c ∧ stationAt (grp 3) 1 = some ⟨0, 1, 0, 1, 1⟩ ∧ isLocal (grp 3) ⟨0, 1, 0, 1, 1⟩ = true ∧ (grp 3).stations.length ≤ 4096 ∧
     (max (startOf c) (mget 0 c.heard 1) + timeoutNs s 1 ≤ mltNs s ↔ t ≠ 0) ∧
     after (.upstreamLost 0 0 1) s (fun u => (groupOf u 0).map (·.lost) == some (if t = 0 then [] else [0])) = true) := by decide +kernel
/-- A step that fails for the first time, for the third, one without AUTORPL; one stored here that another module decides. -/
theorem witness_membership_change : ∀ x ∈ [(0, true, true), (2, true, true), (0, false, true), (0, true, false)],
    let c : CStep := { cst with phase := .running, attempts := x.1, autorpl := x.2.1, final := [(0, []), (2 ^ 24, []), (2 * 2 ^ 24, [])] }
    let g : Group := if x.2.2 then grp 3 else { grp 3 with stations := (grp 3).stations ++ [⟨1, 0, 1, 3, 0⟩] }
    let s : State := { cscState 3 [c] (cscO .running) 0 with groups := [(0, g)] }
    s.csteps = [(stepKey 0 c.step, c)] ∧ c.step < 2 ^ 32 ∧ keysRise s.ops = true ∧ keysRise s.csteps = true ∧ groupOf s 0 = some g ∧ decides g = x.2.2 ∧ storedHere g c = true ∧
    after (.membershipChange 0 [1]) s (fun u => u.csteps.map (·.2.phase) == (if x.1 = 0 ∧ x.2.1 = true then [.failed] else []) &&
      (opOf u 0).map (·.code) == some (if x.1 = 0 ∧ x.2.1 = true then 0 else 0x13)) = true := by
  decide +kernel
/-- A list of epoch 2 with one station. -/
def list2 : List Byte := leBytes 2 0 ++ leBytes 2 1 ++ leBytes 4 2 ++ leBytes 4 0x01000000 ++ leBytes 4 1 ++ leBytes 16 (2 ^ 32)
/-- The list of R206 accepted or not, for a group that changed or not; the survivors' own list. -/
theorem witness_membership_rebuild : ∀ changed ∈ [false, true],
    (let g : Group := { grp 3 with lost := [1], changed := changed }
     let s : State := { cscState 3 [] (cscO .ready) 0 with groups := [(0, g)] }
     let listed : Group := ⟨fieldLe list2 4 4, BitVec.ofNat 32 (fieldLe list2 8 4), fieldLe list2 12 4, 0, listStations list2, [⟨0, 0⟩], [0], [], false, g.held, g.lastStep⟩
     groupOf s 0 = some g ∧ s.csteps = [] ∧ g.held = [] ∧ listOk list2 0 (some g) = true ∧ slotsFree s 0 listed = true ∧ mltConflict s 0 listed.stations = false ∧
     listOk list2 1 (some g) = false ∧ list2 ≠ [] ∧
     after (.membershipRebuild 0 list2 [(0, 0)] 0 [0] []) s (fun u => (groupOf u 0).map (fun g => (g.epoch, g.stations.length)) == some (2, 1) && flag u hltB 5) = true ∧
     after (.membershipRebuild 0 [] [] 0 [] []) s (fun u => (groupOf u 0).map (fun g => (g.epoch, g.stations.map (fun x => (x.die, x.first, x.count)))) ==
       some (if changed then (2, [(0, 0, 1), (2, 1, 2)]) else (1, [(0, 0, 1), (1, 1, 1), (2, 2, 1)]))) = true) := by
  decide +kernel
/-- A new membership finds a failed step, one past its third attempt, one whose map breaks R194, one decided, one known to be committed and stored here. -/
theorem witness_membership_steps : ∀ k ∈ [0, 1, 2, 3, 4],
    let c : CStep := { cst with phase := if k = 3 then .decided else .failed, attempts := if k = 1 then 3 else 1, final := [(0, []), (2 ^ 24, []), (2 * 2 ^ 24, [])] }
    let g : Group := { grp 3 with changed := true, contributions := if k = 2 then 4 else 3 }
    let s : State := { cscState 3 [c] (cscO .running) 0 with groups := [(0, g)] }
    let known : List W32 := if k = 4 then [0] else []
    groupOf s 0 = some g ∧ s.csteps = [(stepKey 0 c.step, c)] ∧ keysRise s.ops = true ∧ g.changed = true ∧ mltConflict s g.myRank (survivors g) = false ∧
    mapOk { g with stations := survivors g, epoch := 2, lost := [], changed := false } = decide (k ≠ 2) ∧ storedHere g c = true ∧ c.autorpl = true ∧
    after (.membershipRebuild 0 [] [] 0 [] known) s (fun u => (cstepOf u 0 0).map (fun c => (c.phase, c.epoch)) == (if k = 0 then some (.waiting, 2) else none) &&
      (k == 0 || (opOf u 0).map (·.code) == some (if k = 1 then 0x13 else if k = 2 then 0x22 else 0))) = true := by
  decide +kernel

/-! ## Mortar, Runnel, HBM -/

/-- REGION_LOAD of region 0 of CD0: 656 bytes at host address 0, 1,000 µs. -/
def rlO (ph : OpPhase) : Op := { opr 7 with desc := descB 7 (leBytes 8 0 ++ leBytes 4 656 ++ leBytes 4 1000 ++ leBytes 16 0), phase := ph }
/-- The module with a load at the head of CD0's queue. -/
def rlState (l : RegionLoad) (now : Nat) : State :=
  { withOp (rlO .running) with parts := [(0, { prt with cur := { blk with regions := 1 } })], dies := [(0, { mortar := { loads := [l] } })], clp := { mlt := now * 2 ^ 40 } }
theorem witness_region_load :
    (let st (r : Nat) (o : Op) : State := { rlState {op := 0, region := 0} 0 with dies := [], ops := [(0, o)], parts := [(0, { prt with cur := { blk with regions := r } })] }
     let sends (r : Nat) (o : Op) (code : BitVec 8) : Bool := mayDispatch (st r o) o && opcOf o == 7 && after (.regionLoad 0 false 0) (st r o) fun u =>
       (opOf u 0).map (fun y => (y.phase, y.code)) == some (.recordDue, code) && u.dies == []
     let far : Op := { rlO .ready with desc := descB 7 (leBytes 8 0 ++ leBytes 4 656 ++ leBytes 3 1000 ++ leBytes 1 1 ++ leBytes 16 0) }
     let short : Op := { rlO .ready with desc := descB 7 (leBytes 8 0 ++ leBytes 4 640 ++ leBytes 4 1000 ++ leBytes 16 0) }
     Names (st 1 (rlO .ready)) 0 false 0 0 (rlO .ready) ∧ opcOf (rlO .ready) = 7 ∧ mayDispatch (st 1 (rlO .ready)) (rlO .ready) = true ∧
     spanDie prt (dF (rlO .ready) 47 1 % 16) = some 0 ∧ (1 : Nat).testBit (rlRegion (rlO .ready)) = true ∧
     dF (rlO .ready) 40 4 = 656 + leNat (hostRead (st 1 (rlO .ready)) (dF (rlO .ready) 32 8 + 24) 4) ∧
     after (.regionLoad 0 false 0) (st 1 (rlO .ready)) (fun u => (dieOf u 0).mortar.loads == [{ op := 0, region := 0 }]) = true ∧
     sends 0 (rlO .ready) 0x10 = true ∧ spanDie prt (dF far 47 1 % 16) = none ∧ sends 1 far 0x10 = true ∧ sends 1 short 0x22 = true) ∧
    (∀ ph ∈ [RegionPhase.empty, .released], ∀ acc ∈ [false, true], let l : RegionLoad := { op := 0, region := 0, accepted := acc, deadline := 5 }
     let s := { rlState l 0 with dies := [(0, { mortar := { loads := [l], regions := [(0, { phase := ph, isolated := false, clocksOn := true })] } })] }
     opOf s 0 = some (rlO .running) ∧ (dieOf s 0).mortar.loads = [l] ∧ raisedAlready (dieOf s 0).runnel [regionPort 0] = false ∧
     after (.regionLoadAcceptance 0) s (fun u => if acc then u == s else
       (dieOf u 0).mortar.loads.map (·.deadline) == [1000000] &&
       (regionOf u 0 0).phase == (if ph = .released then RegionPhase.released else .loading) &&
       (sluiceOf u 0 (regionPort 0)).phase == (if ph = .released then SluicePhase.drain else .opened)) = true) ∧
    (let s := { rlState { op := 0, region := 0 } 0 with ops := [] }
     opOf s 0 = none ∧ after (.regionLoadAcceptance 0) s (fun u => (dieOf u 0).mortar.loads == []) = true) := by
  unfold Names; decide +kernel
theorem witness_region_verify :
    (let l : RegionLoad := { op := 0, region := 0, accepted := true, deadline := 1000000 }
     let s := rlState l 1000000
     creditsBack s 0 l.region = true ∧ mltNs s = l.deadline ∧ regionFault s 0 l (loadImage s (rlO .running)) = some 0x22 ∧ decided (rlO .running) = false ∧
     after (.regionImageVerified 0) s (fun u => (opOf u 0).map (·.code) == some 0x22 && (dieOf u 0).mortar.loads == [] && regionOf u 0 0 == {}) = true ∧
     after (.regionDeadlineExpiry 0) s (fun u => u == s) = true ∧ after (.regionRelease 0) s (fun u => u == s) = true) ∧
    (∀ l ∈ [({ op := 0, region := 0 } : RegionLoad), { op := 0, region := 0, accepted := true, verified := true }, { op := 0, region := 0, accepted := true }],
     let s := rlState l 1
     after (.regionImageVerified 0) s (fun u => u == s) = true) ∧
    (let l : RegionLoad := { op := 0, region := 0, accepted := true, verified := true }
     let s : State := { rlState l 0 with dies := [(0, { mortar := { loads := [l], regions := [(0, { phase := .loading, bram := [(3, 7)] })] } })] }
     after (.regionRelease 0) s (fun u => (regionOf u 0 0).phase == .released && (regionOf u 0 0).bram == [(3, 7)] && !(regionOf u 0 0).isolated &&
       (dieOf u 0).mortar.loads == [] && (opOf u 0).map (·.phase) == some .recordDue) = true) ∧
    (let l : RegionLoad := { op := 0, region := 0, accepted := true, deadline := 1000000 }
     let s := rlState l 1000001
     l.deadline < mltNs s ∧ after (.regionDeadlineExpiry 0) s (fun u => (opOf u 0).map (·.code) == some 0x40 && regionOf u 0 0 == {}) = true) := by decide +kernel

/-- A running region with a memory of words of 4 and of 9 bits, or of 72; its first row holds 0x39. -/
def bramState (wide outReg secded : Bool) : State :=
  { State.reset with dies := [(0, { mortar := { regions := [(0,
      { phase := .released, isolated := false, clocksOn := true, setReset := false
        bramCfg := [(0, ⟨if wide then .x72 else .x4, if wide then .x72 else .x9, 0, outReg, secded⟩)], bram := [(0, 0x39)], bramLatch := [(1, (5, false))] })] } })] }
theorem witness_block_memory : ∀ r ∈ [false, true], let s := bramState false r false
    let out (u : State) : SMap (BitVec 72 × Bool) := if r then (regionOf u 0 0).bramLatch else (regionOf u 0 0).bramOut
    mfind (regionOf s 0 0).bramCfg 0 = some ⟨.x4, .x9, 0, r, false⟩ ∧ regionLive s 0 0 = true ∧ (8191 : Nat) < BramShape.x4.depth ∧ (4095 : Nat) < BramShape.x9.depth ∧
    sameWord .x4 2 .x9 0 = true ∧ sameWord .x4 3 .x9 0 = false ∧
    after (.blockMemoryAccess 0 0 0 (some ⟨1, some 0x1A⟩) (some ⟨0, none⟩) 0) s (fun u =>
      mget 0 (regionOf u 0 0).bram 0 == 0xA9 && mfind (out u) 1 == some (0x39, false) && (!r || mfind (regionOf u 0 0).bramOut 1 == some (5, false))) = true ∧
    after (.blockMemoryAccess 0 0 0 (some ⟨3, none⟩) (some ⟨0, some 0x155⟩) 0) s (fun u =>
      mget 0 (regionOf u 0 0).bram 0 == 0x155 && mfind (out u) 0 == some (0, false) && mfind (out u) 1 == some (0x155, false) && u.fresh == 0) = true ∧
    after (.blockMemoryAccess 0 0 0 (some ⟨2, none⟩) (some ⟨0, some 0x155⟩) 0) s (fun u => mget 0 (regionOf u 0 0).bram 0 == 0x155 && u.fresh == 1) = true ∧
    after (.blockMemoryAccess 0 0 0 (some ⟨0, some 5⟩) (some ⟨0, some 0x155⟩) 0) s (fun u => mget 0 (regionOf u 0 0).bram 0 == 0x35 && mfind (out u) 0 == some (5, false)) = true ∧
    after (.blockMemoryAccess 0 0 0 (some ⟨8192, some 5⟩) (some ⟨4096, some 5⟩) 0) s (fun u => (regionOf u 0 0).bram == [(0, 0x39)] && u.fresh == 0) = true ∧
    after (.blockMemoryAccess 0 0 1 (some ⟨0, some 5⟩) none 0) s (fun u => u == s) = true ∧
    (let t := modRegion s 0 0 fun x => { x with isolated := true }
     regionLive t 0 0 = false ∧ after (.blockMemoryAccess 0 0 0 (some ⟨0, some 5⟩) none 0) t (fun u => u == t) = true) := by decide +kernel
/-- A protected memory: one bit in error is corrected and counted, two are flagged (R253). -/
theorem test_protected_memory : ∀ x ∈ [((1 : BitVec 72), (0x39 : BitVec 72), false, 1), (3, 0x3A, true, 0)], let s := bramState true false true
    (⟨.x72, .x72, 0, false, true⟩ : BramCfg).protected_ = true ∧
    after (.blockMemoryAccess 0 0 0 none (some ⟨0, none⟩) x.1) s (fun u =>
      mfind (regionOf u 0 0).bramOut 1 == some (x.2.1, x.2.2.1) && fld u (morB 0 + 0x200) 0 16 == x.2.2.2) = true := by decide +kernel
theorem witness_config_scrub : let s := bramState false false false
    (regionOf s 0 0).scrubPaused = false ∧ raisedAlready (dieOf s 0).runnel [regionPort 0] = false ∧
    after (.configScrub 0 (some 0) 7 .uncorrectable) s (fun u => (regionOf u 0 0).phase == .fault && (regionOf u 0 0).isolated && (sluiceOf u 0 (regionPort 0)).phase == .drain) = true ∧
    after (.configScrub 0 (some 0) 7 .corrected) s (fun u => fld u (morB 0 + 0x200) 16 16 == 1) = true ∧
    (let t := modRegion s 0 0 fun x => { x with scrubPaused := true }
     ∀ e ∈ [ReadErr.corrected, .uncorrectable], after (.configScrub 0 (some 0) 7 e) t (fun u => u == t) = true) ∧
    (let t := rlState { op := 0, region := 0, accepted := true } 0
     opOf t 0 = some (rlO .running) ∧ decided (rlO .running) = false ∧
     after (.configScrub 0 none 7 .uncorrectable) t (fun u => flag u (morB 0) 30 && (regionOf u 0 7).phase == .fault && (dieOf u 0).mortar.loads == [] &&
       (opOf u 0).map (·.code) == some 0x10) = true) ∧
    after (.ringOscillatorWindow 0 3 9) s (fun u => raw u (morB 0 + 0x30C) == 9) = true := by decide +kernel

/-- A request of tile 0 to edge slot 20 of plane 3, of partition 0. -/
def rq (place : ReqPlace) (write : Bool) : RunReq :=
  { id := 0, init := 0, target := 156, plane := 3, cls := 0, part := some 0, write := write, addr := 5, lines := 1, data := [0x77], lt := none, gen := 0, issued := 0, place := place }
/-- CD0 with that request, the Sluice of its target in a phase. -/
def runState (q : RunReq) (ph : SluicePhase) : State :=
  { State.reset with parts := [(0, prt)], dies := [(0, { runnel := { reqs := [q], nextId := 1, sluices := if ph = .opened then [] else [(q.target, { phase := ph, newPt := 9 })] } })] }
theorem witness_runnel_request :
    (let s : State := { State.reset with dies := [(0, { ltMap := [(3, some (7, 2))] })] }
     let full : State := { s with dies := [(0, { ltMap := [(3, some (7, 2))], runnel := { nextId := 8, reqs := (List.range 8).map fun i => { rq .inside true with id := i, target := 7, plane := 0, cls := 3, part := none } } })] }
     let waiting : State := { s with dies := [(0, { ltMap := [(3, some (7, 2))], runnel := { nextId := 1, reqs := [{ rq .waiting true with credited := false }] } })] }
     ptOf s 0 (3 : Fin 128) = some (7, 2) ∧ creditFree s 0 7 0 3 none = true ∧ creditFree full 0 7 0 3 none = false ∧
     after (.runnelRequest 0 1 0 0 3 none true 5 1 [0x77] (some 3)) s (fun u => (dieOf u 0).runnel.reqs.map (fun q => (q.target, q.gen, q.place, q.credited, q.path.length)) ==
       [(7, 2, .transit, true, 6)]) = true ∧
     after (.runnelRequest 0 1 0 0 3 none true 5 1 [0x77] (some 3)) full (fun u => ((dieOf u 0).runnel.reqs.drop 8).map (fun q => (q.target, q.place, q.credited)) == [(7, .waiting, false)]) = true ∧
     after (.runnelRequest 0 1 0 0 3 none true 5 1 [0x77] (some 3)) waiting (fun u => ((dieOf u 0).runnel.reqs.drop 1).map (·.target) == [7]) = true ∧
     after (.runnelRequest 0 1 0 0 3 none true 5 1 [0x77] (some 4)) s (fun u => u == s) = true ∧
     after (.runnelRequest 0 1 7 0 3 none true 5 1 [0x77] none) s (fun u => u == s) = true) ∧
    (∀ x ∈ [(RegionPhase.released, none, some 0x22), (.released, some 1, none), (.empty, some 0, none)],
     let s : State := { State.reset with parts := [(0, prt)], dies := [(0, { mortar := { regions := [(0, { phase := x.1, isolated := false, boundTo := x.2.1 })] } })] }
     after (.runnelRequest 0 136 156 3 0 (some 0) true 5 1 [0x77] none) s (fun u => (dieOf u 0).runnel.reqs.map (·.status) == (match x.2.2 with | some c => [c] | none => [])) = true) := by decide +kernel
theorem witness_runnel_arrival : (∀ ph ∈ [SluicePhase.opened, .drain, .closed, .redirect], ∀ w ∈ [false, true],
    let q := rq .transit w
    let s := runState q ph
    reqOf (dieOf s 0).runnel 0 = some q ∧ (∀ x ∈ (dieOf s 0).runnel.reqs, sameFlow x q = true → x.place = .transit → 0 ≤ x.id) ∧ outranked s (dieOf s 0).runnel q = false ∧
    (sluiceOf s 0 q.target).phase = ph ∧ 136 ≤ q.target ∧ slotUse 0 q.plane (q.target - 136) = .bridge 0 ∧
    after (.runnelRequestArrival 0 0) s (fun u => (dieOf u 0).runnel.reqs.map (fun q => (q.place, q.status, q.target)) ==
      [match ph with | .opened => (.inside, 0, 156) | .redirect => (.transit, 0, 9) | _ => (.response, 0x10, 156)] &&
      (!(w && ph == .opened) || mget 0 (hbmOf u 0).lines (hk 5) == 0x77)) = true) ∧
    (∀ q ∈ [rq .waiting true, { rq .transit true with id := 1 }], ∀ x ∈ [{ rq .transit true with id := 0 }],
     let s : State := { State.reset with parts := [(0, prt)], dies := [(0, { runnel := { reqs := [q] ++ (if q.id = 1 then [x] else []) } })] }
     after (.runnelRequestArrival 0 q.id) s (fun u => u == s) = true) ∧
    (∀ q ∈ [{ rq .transit true with target := 4 }, { rq .transit true with part := none }], let s := runState q .opened
     after (.runnelRequestArrival 0 0) s (fun u => (dieOf u 0).runnel.reqs.map (·.place) == [.inside] && u.dies.map (fun e => e.2.hbm) == s.dies.map (fun e => e.2.hbm)) = true) ∧
    after (.runnelRequestArrival 0 5) State.reset (fun u => u == State.reset) = true := by decide +kernel
/-- On plane 0 an express message at its port goes before a control message (R291). -/
theorem test_express_first :
    let a : RunReq := { rq .transit true with target := 7, plane := 0, cls := 3 }
    let s : State := { State.reset with clp := { mlt := 25 * 2 ^ 40 }, dies := [(0, { runnel := { reqs := [a, { a with id := 1, cls := 0 }] } })] }
    after (.runnelRequestArrival 0 0) s (fun u => u == s) = true ∧
    after (.runnelRequestArrival 0 1) s (fun u => (dieOf u 0).runnel.reqs.map (·.place) == [.transit, .inside]) = true := by decide +kernel
/-- Responses: one absorbed by the closed Sluice of tile 0, one of a region, one that is not the oldest of its flow. -/
theorem witness_runnel_response :
    (∀ c ∈ [false, true], let q := rq .response false
     let s : State := { State.reset with dies := [(0, { runnel := { reqs := [q], sluices := if c then [(0, { phase := .closed })] else [] } })] }
     reqOf (dieOf s 0).runnel 0 = some q ∧ q.place = .response ∧ absorbs s 0 q.init = c ∧
     after (.runnelResponse 0 0) s (fun u => (dieOf u 0).runnel.reqs == [] && fld u (runB 0) 0 16 == b2n c && (mget {} (dieOf u 0).runnel.stats 3).count == b2n (!c)) = true) ∧
    (∀ iso ∈ [false, true], let s : State := { State.reset with dies := [(0, { mortar := { regions := [(2, { phase := .released, isolated := iso })] }, runnel := { reqs := [{ rq .response false with init := 138, status := 0x10 }] } })] }
     absorbs s 0 138 = iso ∧ after (.runnelResponse 0 0) s (fun u => (regionOf u 0 2).lastResp == (if iso then 0 else 2) && fld u (morB 0 + 0x108) 0 16 == b2n (!iso)) = true) ∧
    (let s : State := { State.reset with dies := [(0, { runnel := { reqs := [rq .inside false, { rq .response false with id := 1 }] } })] }
     after (.runnelResponse 0 1) s (fun u => u == s) = true ∧ after (.runnelResponse 0 0) s (fun u => (dieOf u 0).runnel.reqs.map (·.id) == [1]) = true) ∧
    after (.runnelResponse 0 0) (runState (rq .transit true) .opened) (fun u => u == runState (rq .transit true) .opened) = true := by decide +kernel
theorem witness_runnel_snapshot :
    let s : State := { upState [] with dies := [(0, { powered := true, runnel := { stats := [(7, { count := 5 })] } })] }
    Reaches s 0 (runB 0 + 0x100) (runB 0 + 0x100) ∧ after (.runnelSnapshot 0 0 1 3) s (fun u => (dieOf u 0).runnel.snap.count == 5 && (dieOf u 0).runnel.stats == []) = true :=
  ⟨reaches_of (by decide +kernel), by decide +kernel⟩
theorem witness_sluices :
    (let s : State := { State.reset with dies := [(0, { runnel := { sluices := [(3, { phase := .redirect })] } })] }
     raisedAlready (dieOf s 0).runnel [0, 3, 169] = false ∧
     after (.sluiceRaise 0 [0, 3, 169]) s (fun u => (sluiceOf u 0 169).phase == .drain && (sluiceOf u 0 3).phase == .closed && (dieOf u 0).runnel.domains == [[0, 3, 169]]) = true) ∧
    (let s : State := { State.reset with dies := [(0, { runnel := { domains := [[0, 3]] } })] }
     raisedAlready (dieOf s 0).runnel [3] = true ∧ after (.sluiceRaise 0 [3]) s (fun u => u == s) = true) ∧
    (match exec (.sluiceRaise 0 [170]) State.reset with | .fault f => f == .illFormed | _ => false) = true ∧
    (∀ late ∈ [false, true], let s : State := { State.reset with clp := { mlt := (if late then 20000 * 2 ^ 40 else 0) }, dies := [(5, { hubSluice := { phase := .drain }, runnel := { reqs := [rq .inside true, { rq .inside true with id := 1, target := 7, init := 145 }], sluices := [(7, { phase := .drain, raisedAt := 7 }), (156, { phase := .drain })] } })] }
     (dieOf s 5).hubSluice.phase = .drain ∧
     after (.sluiceDrainExpiry 5) s (fun u => ((sluiceOf u 5 156).phase == .closed) == late && (sluiceOf u 5 7).phase == .drain && ((dieOf u 5).hubSluice.phase == .closed) == late &&
       (dieOf u 5).runnel.reqs.map (·.place) == [if late then .response else .inside, .inside]) = true) ∧
    (let s : State := { State.reset with dies := [(0, { runnel := { domains := [[3], [4]], sluices := [(3, { phase := .closed })] } })] }
     (dieOf s 0).runnel.domains.filter (domainSafe s 0) = [[3]] ∧ (dieOf s 0).fenced = false ∧ s.parts = [] ∧
     after (.sluiceSafe 0) s (fun u => flag u (runB 0) 30 && (dieOf u 0).runnel.domains == [[4]]) = true ∧
     (let t := modRun s 0 fun r => { r with domains := [[4], [3]] }
      after (.sluiceSafe 0) t (fun u => !flag u (runB 0) 30 && (dieOf u 0).runnel.domains == [[4]]) = true ∧
      after (.sluiceSafe 1) t (fun u => u == t) = true)) ∧
    (∀ x ∈ [(some 3, true), (none, false)], let s : State := { State.reset with dies := [(0, { ltMap := [(0, x.1.map (·, 0))], runnel := { reqs := [{ rq .transit true with target := 3 }], sluices := [(3, { phase := .closed })] } })] }
     canAnswer s 0 3 = x.2 ∧ (sluiceOf s 0 3).phase = .closed ∧
     after (.sluiceOpen 0 (3 : Fin 170)) s (fun u => ((sluiceOf u 0 3).phase == .opened) == x.2 && (dieOf u 0).runnel.reqs.map (·.credited) == [!x.2]) = true) ∧
    (∀ late ∈ [false, true], let s : State := { State.reset with clp := { mlt := (if late then 160 * 2 ^ 40 else 0) }, dies := [(0, { runnel := { sluices := [(3, { phase := .redirect })] } })] }
     (sluiceOf s 0 3).phase = .redirect ∧ after (.redirectEnd 0 3) s (fun u => ((sluiceOf u 0 3).phase == .closed) == late) = true) := by decide +kernel
/-- A fenced die whose every Sluice is closed is powered down once its neighbours' ports toward it are closed too (R295 step 7). -/
theorem witness_dark : ∀ around ∈ [false, true],
    let shut (l : List Nat) : SMap Sluice := l.map (·, { phase := .closed })
    let s : State := { State.reset with dies := [(0, { fenced := true, basin := [(1, 2)], runnel := { domains := [upTo 170], sluices := shut (upTo 170) } })] ++
      if around then (neighbourPorts 0).map fun n => (n.1, { runnel := { sluices := shut n.2 } }) else [] }
    (dieOf s 0).fenced = true ∧ (dieOf s 0).runnel.domains.filter (domainSafe s 0) = [upTo 170] ∧ (∀ p, p < 170 → p ∈ upTo 170) ∧ aroundSafe s 0 = around ∧ s.parts = [] ∧
    after (.sluiceSafe 0) s (fun u => if around then (dieOf u 0).basin == [] && (dieOf u 0).fenced && (dieOf u 0).runnel.domains == [] else u == s) = true := by decide +kernel

/-- CD0's controller with a request queued; the serving class has every slot. -/
def hreq (write : Bool) : HbmReq := ⟨0, 5, 1, 2, 3, false, write, 0x99, -1, 0⟩
def hbmState (h : Hbm) : State := setRaw { State.reset with dies := [(0, { hbm := h })] } (hbmB 0 + 8) 0x2000
theorem witness_hbm_queues :
    (queueOf (hbmOf State.reset 0) 5 false false).length < 24 ∧ (queueOf (hbmOf State.reset 0) 5 false true).length < 16 ∧ bankClass State.reset 0 1 = false ∧
    after (.hbmWrite 0 5 1 2 3 false (-1) 0x99) State.reset (fun u => hbmSee (hbmOf u 0) 1 (hbmKey 5 1 2 3) == (false, 0x99)) = true ∧
    after (.hbmRead 0 5 1 2 3 false) State.reset (fun u => (hbmOf u 0).queue.map (·.id) == [0]) = true ∧
    (let s := hbmState { queue := [hreq true], nextId := 1, openRow := [(bankKey 5 1, 2)], powerDown := [(5, true)] }
     after (.hbmRead 0 5 1 2 3 false) s (fun u => (hbmOf u 0).queue.map (·.id) == [0, 1] && mget false (hbmOf u 0).inOrder (bankKey 5 1) && !mget false (hbmOf u 0).powerDown 5) = true) ∧
    (∀ w ∈ [false, true], let n := if w then 16 else 24
     let c : Instr := if w then .hbmWrite 0 5 1 2 3 false (-1) 0x99 else .hbmRead 0 5 1 2 3 false
     let s := hbmState { queue := (List.range n).map fun i => { hreq w with id := i }, nextId := n }
     (queueOf (hbmOf s 0) 5 false w).length = n ∧ after c s (fun u => u == s) = true) ∧
    (let s : State := { State.reset with parts := [(0, { prt with cur := { blk with training := true, banks := 2 } })] }
     bankClass s 0 1 = true ∧ after (.hbmRead 0 5 1 2 3 false) s (fun u => u == s) = true ∧ after (.hbmWrite 0 5 1 2 3 false (-1) 0x99) s (fun u => u == s) = true ∧
     after (.hbmRead 0 5 1 2 3 true) s (fun u => (hbmOf u 0).queue.map (·.training) == [true]) = true) := by decide +kernel
theorem witness_hbm_issue : ∀ w ∈ [false, true],
    let s := hbmState { queue := [hreq w], nextId := 1 }
    slotsOf s 0 false ≠ 0 ∧ flag s (hbmStat 0) 30 = false ∧ pickHbm (hbmOf s 0) (mltNs s) 5 false = some (hreq w) ∧ hbmSee (hbmOf s 0) 0 (hreq w).key = (false, 0) ∧ (hreq w).mask = -1 ∧
    after (.hbmCommandIssue 0 5 false .clean) s (fun u => (hbmOf u 0).queue == [] && mget 0 (hbmOf u 0).lines (hbmKey 5 1 2 3) == (if w then 0x99 else 0) &&
      (hbmOf u 0).answers == (if w then [] else [(0, 0, 0)])) = true := by decide +kernel
theorem witness_hbm_errors :
    (∀ x ∈ [((0 : Nat), false, ReadErr.uncorrectable), (0, true, .clean), (1, false, .clean), (1, false, .uncorrectable), (1, true, .clean)],
     let q := if x.1 = 0 then hreq false else { hreq true with mask := 2 }
     let s := hbmState { queue := [q], nextId := 1, lines := [(hbmKey 5 1 2 3, 0x1155)], poison := if x.2.1 then [(hbmKey 5 1 2 3, true)] else [] }
     let bad := x.2.1 || x.2.2 == .uncorrectable
     pickHbm (hbmOf s 0) (mltNs s) 5 false = some q ∧ hbmSee (hbmOf s 0) 0 q.key = (x.2.1, 0x1155) ∧
     after (.hbmCommandIssue 0 5 false x.2.2) s (fun u => mget 0 (hbmOf u 0).lines (hbmKey 5 1 2 3) == (if x.1 = 1 && !bad then 0x55 else 0x1155) &&
       (hbmOf u 0).answers == (if bad then [(0, 0x50, 0)] else []) && (!bad || mget false (hbmOf u 0).poison (hbmKey 5 1 2 3)) &&
       (x.2.1 || !bad || flag u (hltB + 0x2200) 1)) = true) ∧
    (∀ s ∈ [hbmState {}, setRaw (hbmState { queue := [hreq false] }) (hbmB 0 + 8) 0, setRaw (hbmState { queue := [hreq false] }) (hbmStat 0) 0x40020000],
     after (.hbmCommandIssue 0 5 false .clean) s (fun u => u == s) = true) := by decide +kernel
theorem witness_patrol_scrub : (mget false (hbmOf State.reset 0).poison (hbmKey 5 1 2 3) = false ∧
    after (.patrolScrub 0 5 1 2 3 .uncorrectable) State.reset (fun u => mget false (hbmOf u 0).poison (hbmKey 5 1 2 3) && (hbmOf u 0).repairDue == [(5, 1, 2)] && fld u (hbmB 0 + 0x10) 0 32 == 1) = true ∧
    after (.patrolScrub 0 5 1 2 3 .corrected) State.reset (fun u => fld u (hbmB 0 + 0xC) 0 32 == 1 && (hbmOf u 0).poison == []) = true) ∧
    (let s := hbmState { poison := [(hbmKey 5 1 2 3, true)] }
     ∀ e ∈ [ReadErr.clean, .corrected, .uncorrectable], after (.patrolScrub 0 5 1 2 3 e) s (fun u => u == s) = true) := by decide +kernel
theorem witness_power_down :
    (∀ x ∈ [(200, 2000, true), (200, 1999, false), (0, 2000, false)],
     let s := setRaw { State.reset with clp := { mlt := x.2.1 * 2 ^ 40 } } (hbmCtrl 0) (BitVec.ofNat 32 (0x08000000 + x.1))
     fld s (hbmCtrl 0) 0 16 = x.1 ∧ (hbmOf s 0).queue = [] ∧ (hbmOf s 0).openRow = [] ∧
     after (.powerDownEntry 0 5) s (fun u => mget false (hbmOf u 0).powerDown 5 == x.2.2) = true) := by decide +kernel
theorem witness_row_repair_start :
    (∀ u ∈ [0, 1], ∀ tr ∈ [0x40020000, 0x40030000, 0], let s := setRaw (hbmState { repairDue := [(5, 1, 2)], softUsed := if u = 0 then [] else [(spareKey 5 1, u)] }) (hbmStat 0) (BitVec.ofNat 32 tr)
     let trains := tr == 0x40020000
     (hbmOf s 0).repair = none ∧ (flag s (hbmStat 0) 30 && fld s (hbmStat 0) 16 5 == 2) = trains ∧ mget 0 (hbmOf s 0).softUsed (spareKey 5 1) = u ∧
     after (.rowRepair 0 none) s (fun v => if trains then v == s else if u = 0 then (hbmOf v 0).repair == some (5, 1, 2) && flag v (hbmB 0 + 0x1C) 31 else
       (hbmOf v 0).repair == none && (hbmOf v 0).repairDue == [] && fld v (hbmB 0 + 0x1C) 0 8 == 1) = true) := by decide +kernel
theorem witness_row_repair_end :
    (let s := hbmState { repair := some (5, 1, 2) }
     (hbmOf s 0).repair = some (5, 1, 2) ∧ after (.rowRepair 0 (some 1)) s (fun u => mget false (hbmOf u 0).poison (hbmKey 5 1 2 0) && (hbmOf u 0).repair == none) = true ∧
     after (.rowRepair 0 none) s (fun u => u == s) = true) ∧
    (let s := hbmState {}
     after (.rowRepair 0 (some 1)) s (fun u => u == s) = true ∧ after (.rowRepair 0 none) s (fun u => u == s) = true) := by decide +kernel
theorem witness_hbm_training :
    let s := setRaw (hbmState {}) cfgB 0x80000000
    let t := setRaw s (hbmStat 0) 0x40000000
    flag s (hbmStat 0) 30 = false ∧ 2 ≤ stageOf s ∧ (hbmOf s 0).trained < 32 ∧ (hbmOf s 0).repair = none ∧
    after (.channelTraining 0 none) s (fun u => flag u (hbmStat 0) 30 && fld u (hbmStat 0) 16 5 == 0) = true ∧
    after (.channelTraining 0 (some true)) s (fun u => u == s) = true ∧ after (.channelTraining 0 none) t (fun u => u == t) = true ∧
    (∀ ok ∈ [false, true], after (.channelTraining 0 (some ok)) t (fun v => fastCh (hbmOf v 0) 0 == ok && (hbmOf v 0).trained == 1 && flag v (hbmStat 0) 28 == !ok) = true) := by
  decide +kernel

/-! ## The Vidonlink -/

/-- The module with the port of CD0 as given, enabled as after reset; MLT in ns. -/
def port (p : Port) (now : Nat) : State := { State.reset with ports := [(0, p)], clp := { mlt := now * 2 ^ 40 } }
/-- Nine lanes, physical lane n carrying logical lane n, their scramblers at rest. -/
def straight : SMap Lane := (List.range 9).map fun n => (n, { logical := n, txLogical := n })
/-- The lanes of group 0 with a frame 0 that has one flit, 0x2006, on virtual lane 4; `e` is put over lane 0. -/
def wire (e : BitVec 680) : List (Nat × BitVec 680) :=
  [(0, 90897248928212408498055817994756984849533597529116653577573140099326256796889115885423656608758556624991503129665385255564041665596498454214659869323791768828549947785577794425663897891174321219694819 ^^^ e),
   (1, 4283355845309886389464857893252091015853248007606539283201956847907924847790163538874918203198561503763507496268860352839273575620623038578928691477927635511548223850023350068709740158425696547998309761287),
   (2, 3370565671572777383327381368948741373994231621219149847975967375030490577035803037153493843533408078135342821840760554102899469214703001101705077070178118568971925274360577857087223295802524014313538540769),
   (3, 3674162482993006827710887801051229703391673836966399470925061662962240274737412684210808856606661657262814442293842940856483368377795305938782041033719583076859282099964407690468940714759046247538330997)]
set_option maxRecDepth 1000000 in
theorem witness_frame_receive :
    (let p : Port := { phase := .up, lanes := straight }
     (match rsDecode (gather p 0 (wire 0)).1 with
      | some cw => let f := parseFrame (symBits (cw.take 262)); f.crcOk && !isNull f && f.fseq == p.expect && f.flits.headD (0, 0) == (4, 0x2006) && !unlisted 4 0x2006
      | none => false) = true ∧ (∀ e ∈ wire 0, e.1 ≤ 8)) := by decide +kernel
/-- A null frame on group 1. -/
def nullWire : List (Nat × BitVec 680) :=
  [(4, 0x0000c000000000000000000000000000000000000000000000000000000000000000000000000000000000000000000000000000000000000000000000000000000000000000000000000000000000000000043407),
   (5, 0xaa96d000000000000000000000000000000000000000000000000000000000000000000000000000000000000000000000000000000000000000000000000000000000000000000000000000000000000000078826),
   (6, 0xac0000000000000000000000000000000000000000000000000000000000000000000000000000000000000000000000000000000000000000000000000000000000000000000000000000000000000000153e9b9a),
   (7, 0x0000000000000000000000000000000000000000000000000000000000000000000000000000000000000000000000000000000000000000000000000000000000000000000000000000000000000000001a61891e)]
set_option maxRecDepth 1000000 in
/-- A null frame; the codeword of zeros, whose CRC is wrong; the frame 0 where frame 1,020, or 5, is due. -/
theorem witness_frames_not_taken :
    (match rsDecode (gather { phase := .up, lanes := straight } 1 nullWire).1 with
     | some cw => let f := parseFrame (symBits (cw.take 262)); f.crcOk && isNull f
     | none => false) = true ∧
    (match rsDecode (gather { phase := .up, lanes := straight } 0 []).1 with
     | some cw => !(parseFrame (symBits (cw.take 262))).crcOk
     | none => false) = true ∧
    ((0 + 1024 - 1020) % 1024 < 512 ∧ ¬ (0 + 1024 - 5) % 1024 < 512) := by decide +kernel
set_option maxRecDepth 1000000 in
theorem test_frame_out_of_order : 
    after (.frameReceive 0 0 (wire 0)) (port { phase := .up, lanes := straight, expect := 1020 } 0) (fun u =>
      (portOf u 0).expect == 1020 && (portOf u 0).ackWant == 2 && (portOf u 0).discarding) = true := by decide +kernel
set_option maxRecDepth 1000000 in
theorem witness_hunt : let s := port { phase := .training, step := 5, lanes := straight, cwGood := [(1, 3)] } 0
    (portOf s 0).phase = .training ∧ (portOf s 0).step = 5 ∧
    after (.frameReceive 0 1 []) s (fun u => mget 0 (portOf u 0).cwGood 1 == 4) = true := by decide +kernel
set_option maxRecDepth 1000000 in
/-- Six symbols in error. -/
theorem witness_frame_lost : rsDecode (gather { phase := .up, lanes := straight } 0 (wire (2 ^ 60 - 1))).1 = none := by decide +kernel
theorem witness_frame_send : ∀ q ∈ [[], [(txKey 4 0, [[(0x55 : Line)]])]],
    let p : Port := { phase := .up, txq := q }
    let s := port p 0
    portEn s 0 = true ∧ (portOf s 0).phase = .up ∧ p.wakeAt = none ∧ p.resendAt = none ∧ p.retireAt = none ∧ p.lpAt = none ∧ p.fseq % 2 = p.turn ∧ p.kept.length < 511 ∧
    ((fillFrame p (groupsCross s 0).length).1.all (fun x => x.1 == 7) && (owedCredits p).2 == 0) = decide (q = []) := by decide +kernel
theorem witness_frame_resend :
    (let k : Kept := ⟨6, [(4, 0x55), (7, 0), (7, 0), (7, 0), (7, 0)], 0, 0, 0, 0, 1⟩
     let s := port { phase := .up, fseq := 7, resendAt := some 0, kept := [k], lanes := straight } 0
     portEn s 0 = true ∧ (portOf s 0).phase = .up ∧ (portOf s 0).wakeAt = none ∧ (portOf s 0).resendAt = some 0 ∧ (portOf s 0).kept[0]? = some k ∧ k.fseq % 2 = (portOf s 0).turn ∧
     after (.frameSend 0) s (fun u => (portOf u 0).resendAt == none && (portOf u 0).fseq == 7 && fld u (vlB 0 + 0x14) 20 12 == 1) = true) ∧
    (let s := setRaw (port { phase := .up } 0) (vlR 0 4) 0
     portEn s 0 = false ∧ after (.frameSend 0) s (fun u => u == s) = true) ∧
    (∀ x ∈ [(1, 0), (0, 511)], let p : Port := { phase := .up, turn := x.1, kept := List.replicate x.2 ⟨0, [], 0, 0, 0, 0, 0⟩ }
     p.fseq % 2 ≠ p.turn ∨ 511 ≤ p.kept.length) := by decide +kernel
theorem witness_link_timers :
    (let s := port { phase := .up } 100
     (portOf s 0).phase = .up ∧ (portOf s 0).ackAt + 100 ≤ mltNs s ∧ after (.ackIntervalExpiry 0) s (fun u => (portOf u 0).ackWant == 1) = true) ∧
    (∀ n ∈ [0, 8], let s := port { phase := .up, kept := [⟨0, [], 0, 0, 0, 0, n⟩] } 2000
     (portOf s 0).heardAt + 2000 ≤ mltNs s ∧ (portOf s 0).kept ≠ [] ∧ after (.ackTimeout 0) s (fun u => (portOf u 0).phase == (if n = 0 then .up else .recovery)) = true) ∧
    (let s := port { phase := .recovery, recoverAt := some 0 } 12000000
     (portOf s 0).recoverAt = some 0 ∧ (portOf s 0).phase = .recovery ∧ 0 + 12000000 ≤ mltNs s) ∧
    (∀ ph ∈ [PortPhase.training, .recovery], let s := port { phase := ph, step := 5, cwGood := [(0, 16), (1, 16)], kept := [⟨0, [], 0, 0, 0, 0, 7⟩] } 0
     (portOf s 0).step = 5 ∧ 16 ≤ mget 0 (portOf s 0).cwGood 0 ∧ 16 ≤ mget 0 (portOf s 0).cwGood 1 ∧ (portOf s 0).peerValid = false ∧
     after (.linkUp 0) s (fun u => (portOf u 0).phase == .up && flag u hltB 6) = true) := by decide +kernel
theorem witness_ack_timeout_idle :
    (∀ p ∈ [({ phase := .down, kept := [⟨0, [], 0, 0, 0, 0, 0⟩] } : Port), { phase := .up }, { phase := .up, heardAt := 1, kept := [⟨0, [], 0, 0, 0, 0, 0⟩] }], let s := port p 2000
     after (.ackTimeout 0) s (fun u => u == s) = true) := by decide +kernel
theorem witness_port_lost_idle :
    (∀ x ∈ [(some 1, PortPhase.recovery), (some 0, .up), (none, .down)], let s := port { phase := x.2, recoverAt := x.1 } 12000000
     (portOf s 0).recoverAt = x.1 ∧ (∀ t, x.1 = some t → x.2 ≠ .recovery ∨ mltNs s < t + 12000000)) := by
  intro x hx; simp only [List.mem_cons, List.mem_nil_iff, or_false] at hx
  rcases hx with rfl | rfl | rfl <;> exact ⟨by decide +kernel, by rintro t ⟨⟩ <;> decide +kernel⟩
theorem witness_link_up_idle :
    (∀ x ∈ [(4, 16, 16), (5, 15, 16), (5, 16, 15)], let s := port { phase := .training, step := x.1, cwGood := [(0, x.2.1), (1, x.2.2)] } 0
     after (.linkUp 0) s (fun u => u == s) = true) := by decide +kernel
theorem witness_link_up_again :
    (∀ m ∈ [3, 5], let s := port { phase := .recovery, step := 5, cwGood := [(0, 16), (1, 16)], kept := [⟨6, [], 0, 0, 0, 0, 7⟩], fseq := 7, peerValid := true, peerMod := 3, peerSeen := some (m, 0, 0) } 0
     (portOf s 0).peerValid = true ∧ (portOf s 0).peerSeen = some (m, 0, 0) ∧ (portOf s 0).peerMod = 3 ∧ (portOf s 0).phase = .recovery ∧
     (m ≠ 3 ∨ after (.linkUp 0) s (fun u => (portOf u 0).fseq == 7 && (portOf u 0).kept.map (·.resends) == [0] && (portOf u 0).resendAt == some 0) = true)) := by decide +kernel
/-- A link control flit at CD0's port, with fields from byte 1 on. -/
def lcPort (p : Port) (b : List Byte) (now : Nat) : State := port { p with rxq := [(6, [lcFlit b])] } now
theorem witness_remove : (lcHead (lcPort { phase := .up } [8] 5) 0 8).isSome = true ∧
    after (.remove 0) (lcPort { phase := .up } [8] 5) (fun u => (portOf u 0).refuse && (portOf u 0).retireAt == some 5) = true := by decide +kernel

theorem witness_training :
    (∀ ph ∈ [PortPhase.down, .lost], let s := port { phase := ph } 0
     portEn s 0 = true ∧ (portOf s 0).phase = ph ∧ after (.signalDetect 0 8) s (fun u => (portOf u 0).phase == .training) = true ∧
     after (.trainingBurst 0) s (fun u => u.out.length == 9 && (portOf u 0).phase == .down) = true) ∧
    (let w := ctlWord 1 3 15 0 0 false 9 4
     let s := port { phase := .training, step := 1 } 0
     crc8 (bitsDown 56 (w.toNat / 256)) = w.toNat % 256 ∧ (portOf s 0).phase = .training ∧ (portOf s 0).step = 1 ∧
     after (.trainingBlock 0 2 w 50) s (fun u => (portOf u 0).peerSeen == some (9, 4, 3) && (mget {} (portOf u 0).lanes 2).logical == 3) = true) := by decide +kernel
theorem witness_training_late : ∀ ph ∈ [PortPhase.training, .recovery], ∀ n ∈ [1, 2],
    let w := ctlWord 1 3 15 0 0 false 9 4
    let s := port { phase := ph, step := 1, attempts := n } 1000000
    crc8 (bitsDown 56 (w.toNat / 256)) = w.toNat % 256 ∧ (portOf s 0).trainRef + 1000000 ≤ mltNs s ∧
    ((List.range 9).filter (fun i => i == 2 || (mget {} (portOf s 0).lanes i).locked)).length < 8 ∧
    after (.trainingBlock 0 2 w 50) s (fun u => (portOf u 0).step == (if n = 1 then 1 else 0) && (portOf u 0).attempts == (if n = 1 then 2 else 0) &&
      (portOf u 0).phase == (if n = 2 ∧ ph = .training then .down else ph)) = true := by decide +kernel
theorem witness_training_idle :
    (∀ x ∈ [(PortPhase.training, 1, ctlWord 1 3 15 0 0 false 9 4 ^^^ 1), (.up, 1, ctlWord 1 3 15 0 0 false 9 4), (.training, 0, ctlWord 1 3 15 0 0 false 9 4),
       (.training, 5, ctlWord 1 3 15 0 0 false 9 4)], let s := port { phase := x.1, step := x.2.1 } 0
     after (.trainingBlock 0 2 x.2.2 50) s (fun u => u == s) = true) ∧
    (∀ s ∈ [port { phase := .up } 0, setRaw (port { phase := .down } 0) (vlR 0 4) 0],
     after (.trainingBurst 0) s (fun u => u == s) = true ∧ after (.signalDetect 0 8) s (fun u => u == s) = true) := by decide +kernel
theorem witness_lane_trigger :
    (∀ x ∈ [(false, true, 2), (true, true, 2), (false, false, 2), (false, true, 8)],
     let s := port { phase := .up, lanes := straight, spareUsed := x.1 } 0
     let l : Fin 9 := if x.2.2 = 8 then 8 else 2
     after (.laneSpareTrigger 0 l x.2.1) s (fun u => if x.2.2 = 8 then u == s else if !x.1 && x.2.1 then (portOf u 0).swap == some ⟨2, true, none⟩ && (portOf u 0).phase == .up
       else (portOf u 0).phase == .recovery) = true) ∧
    (let s := port { phase := .lp1, lanes := straight } 0
     after (.laneSpareTrigger 0 2 true) s (fun u => u == s) = true) ∧
    (let s := port { phase := .recovery, lanes := straight } 0
     (portOf s 0).recoverStep = 0 ∧ (portOf s 0).spareUsed = false ∧
     after (.recovery 0 (some 2) true) s (fun u => (portOf u 0).recoverStep == 1 && (portOf u 0).swap == some ⟨2, true, none⟩) = true) := by decide +kernel
theorem witness_lane_swap :
    (let s := port { phase := .up, lanes := straight } 0
     (portOf s 0).phase = .up ∧ (mget {} (portOf s 0).lanes 2).logical = 2 ∧ (portOf s 0).spareUsed = false ∧ (portOf s 0).swap = none) ∧
    ((lcHead (lcPort { phase := .up } [1, 2] 0) 0 1).isSome = true ∧ after (.swapreq 0) (lcPort { phase := .up } [1, 2] 0) (fun u => (portOf u 0).swap == some ⟨2, false, some 16⟩) = true) ∧
    (let s := lcPort { phase := .up, swap := some ⟨2, true, none⟩ } [2, 2, 0, 0, 16] 0
     (lcHead s 0 2).map (byteAt · 1) = some 2 ∧ after (.swapack 0) s (fun u => (portOf u 0).swap == some ⟨2, true, some 16⟩) = true) ∧
    (let s := port { phase := .up, lanes := straight, swap := some ⟨2, true, some 16⟩, period := 16 } 0
     (portOf s 0).swap = some ⟨2, true, some 16⟩ ∧ ((portOf s 0).period + 2 ^ 32 - 16) % 2 ^ 32 < 2 ^ 31 ∧ (mget {} (portOf s 0).lanes 8).logical = 8 ∧
     after (.swapSwitch 0) s (fun u => (portOf u 0).lsMap == 2 && (mget {} (portOf u 0).lanes 8).logical == 2) = true) := by decide +kernel
/-- R344, R345: the request for c(1) is in the lowest bits, and its answer too. -/
theorem test_taps : answerTaps {} 15 2 = { ({} : Lane) with c1 := -1, cstat := 1 } ∧ answerTaps { c1 := -16 } 15 2 = { ({} : Lane) with c1 := -16, cstat := 2 } ∧
    (answerTaps {} 7 0).cm1 = -12 := by decide
/-- R352: a recovery whose lane swap reaches its period is up again, and its kept frame is sent anew. -/
theorem test_recovery_swap :
    after (.swapSwitch 0) (port { phase := .recovery, recoverStep := 1, recoverAt := some 0, lanes := straight, swap := some ⟨2, true, some 16⟩, period := 16, kept := [⟨0, [], 0, 0, 0, 0, 8⟩] } 0)
      (fun u => (portOf u 0).phase == .up && (portOf u 0).recoverAt == none && (portOf u 0).resendAt == some 0 && (portOf u 0).lsMap == 2) = true := by decide +kernel
theorem witness_recovery :
    (∀ n ∈ [0, 1, 2], let s := port { phase := .recovery, recoverStep := n, lanes := straight } 0
     (portOf s 0).phase = .recovery ∧ (portOf s 0).recoverStep = n ∧ (mget {} (portOf s 0).lanes 2).logical = 2 ∧ (portOf s 0).spareUsed = false ∧
     after (.recovery 0 none false) s (fun u => (portOf u 0).fast == decide (n ≠ 2) && (portOf u 0).recoverStep == max 2 (n + 1)) = true) ∧
    (∀ ph ∈ [PortPhase.up, .lp1, .lp2, .training], let s := port { phase := ph } 0
     (portOf s 0).phase = ph ∧ after (.surpriseRemoval 0 true) s (fun u => (portOf u 0).phase == (if ph = .training then .down else .recovery)) = true) := by decide +kernel

theorem witness_link_power :
    (let s := setRaw (port { phase := .up } 0) (vlR 0 0x18) 0x40000000
     flag s (vlR 0 0x18) 30 = true ∧ mayRest s 0 = true ∧ after (.lp1IdleExpiry 0) s (fun u => (portOf u 0).lpAsked == some 1) = true) ∧
    (let s := lcPort { phase := .up } [3, 1] 0
     (lcHead s 0 3).isSome = true ∧ (portOf s 0).lpAsked = none ∧ groupsCross s 0 = [] ∧ (portOf s 0).txq = [] ∧ (portOf s 0).outst = [] ∧
     after (.lpreq 0) s (fun u => (portOf u 0).lpAt == some (1, 1)) = true) ∧
    (let s := lcPort { phase := .up, outst := [(2, [0])] } [3, 1] 0
     (lcHead s 0 3).isSome = true ∧ (portOf s 0).outst.any (fun e => !e.2.isEmpty) = true ∧
     after (.lpreq 0) s (fun u => (portOf u 0).lpAt == none && mget [] (portOf u 0).txq (txKey 6 0) == [[lcFlit [5, 1]]]) = true) ∧
    (let s := setRaw (port { phase := .up, quietAt := 1 } 800) (vlR 0 0x18) 0x40000008
     (∀ x ∈ [s, setRaw (port { phase := .up } 800) (vlR 0 0x18) 8, setRaw (port { phase := .up, refuse := true } 800) (vlR 0 0x18) 0x40000008],
      after (.lp1IdleExpiry 0) x (fun u => u == x) = true)) ∧
    (∀ p ∈ [({ phase := .lp1 } : Port), { phase := .up, txq := [(txKey 4 0, [[0]])] }], let s := port p 5
     after (.portWake 0) s (fun u => u == s) = true ∧ after (.wakeTone 0) s (fun u => u == s) = true) ∧
    (∀ t ∈ [4, 5], let s := lcPort { phase := .up, lpAsked := some 1 } [BitVec.ofNat 8 t, 1] 0
     (lcHead s 0 t).isSome = true ∧ (portOf s 0).lpAsked ≠ none ∧
     after (if t = 4 then .lpack 0 else .lpnak 0) s (fun u => (portOf u 0).lpAsked == none && (portOf u 0).lpAt == (if t = 4 then some (1, 1) else none)) = true) ∧
    (∀ ph ∈ [PortPhase.lp1, .lp2], let s := port { phase := ph, txq := [(txKey 4 0, [[0]])] } 5
     (portOf s 0).txq ≠ [] ∧ (portOf s 0).phase = ph ∧ after (.portWake 0) s (fun u => (portOf u 0).phase == .up && u.out.length == b2n (ph == .lp2)) = true) := by decide +kernel
theorem witness_wake :
    (let s := port { phase := .lp2 } 0
     (portOf s 0).phase = .lp2 ∧ after (.wakeTone 0) s (fun u => (portOf u 0).phase == .up) = true) ∧
    (let s := port { phase := .up, wakeAt := some (2000000, 1000) } 2000000
     (portOf s 0).wakeAt = some (2000000, 1000) ∧ 2000000 ≤ mltNs s ∧ after (.wakeTimeout 0) s (fun u => (portOf u 0).phase == .recovery) = true) ∧
    ((lcHead (lcPort { phase := .up } [9, 0x42] 0) 0 9).isSome = true ∧ after (.idupd 0) (lcPort { phase := .up } [9, 0x42] 0) (fun u => (portOf u 0).peerMod == 0x42) = true) := by decide +kernel

/-- The port as given in a module that is up. -/
def upPort (p : Port) (regs : List (Nat × Nat)) : State := { upState regs with ports := [(0, p)] }
theorem witness_link_writes :
    Reaches (upPort { phase := .up } []) 0 (vlR 0 4) (vlR 0 4) ∧ portEn (upPort { phase := .up } []) 0 = true ∧
    after (.modidWrite 0 0 7) (upPort { phase := .up } []) (fun u => modId u 0 == 7 && (mget [] (portOf u 0).txq (txKey 6 0)).length == 1) = true ∧
    after (.portDisable 0 0) (upPort { phase := .up } []) (fun u => (portOf u 0).phase == .disabled) = true ∧
    after (.retire 0 0) (upPort { phase := .up } []) (fun u => (portOf u 0).refuse && mget [] (portOf u 0).txq (txKey 6 0) == [[lcFlit [8]]]) = true ∧
    after (.retrain 0 0) (upPort { phase := .up } []) (fun u => (portOf u 0).phase == .training && (portOf u 0).step == 1) = true ∧
    after (.lp2req 0 0) (upPort { phase := .up } []) (fun u => (portOf u 0).lpAsked == some 2) = true ∧
    after (.plumbGo 0 0) (upPort { phase := .up } []) (fun u => (portOf u 0).plumb.isSome && flag u (vlR 0 0x20) 31) = true ∧
    Reaches (upPort { phase := .up } []) 0 (vlR 0 0x18) (vlR 0 0x18) ∧ mayRest (upPort { phase := .up } []) 0 = true ∧
    Reaches (upPort { phase := .up } []) 0 (vlR 0 0x1C) (vlR 0 0x1C) ∧ (portOf (upPort { phase := .up } []) 0).phase = .up :=
  ⟨reaches_of (by decide +kernel), by decide +kernel, by decide +kernel, by decide +kernel, by decide +kernel, by decide +kernel, by decide +kernel, by decide +kernel, reaches_of (by decide +kernel), by decide +kernel, reaches_of (by decide +kernel), by decide +kernel⟩
theorem witness_bitslip : let s := upPort { phase := .training, step := 5, lanes := straight } [(vlR 0 4, 0xC000FF00)]
    Reaches s 0 (vlR 0 0x10) (vlR 0 0x10) ∧ (portOf s 0).step = 5 ∧ (portOf s 0).phase = .training ∧ flag s (vlR 0 4) 30 = true ∧
    after (.bitslip 0 0 5 339) s (fun u => mget 0 (portOf u 0).cwShift 1 == 339) = true := ⟨reaches_of (by decide +kernel), by decide +kernel⟩
theorem witness_bitslip_refused : let s := upPort { phase := .training, step := 4, lanes := straight } [(vlR 0 4, 0xC000FF00)]
    Reaches s 0 (vlR 0 0x10) (vlR 0 0x10) ∧ (portOf s 0).step ≠ 5 ∧ after (.bitslip 0 0 5 339) s (fun u => flag u (vlR 0 0) 26) = true := ⟨reaches_of (by decide +kernel), by decide +kernel⟩

theorem witness_plumb :
    (let s := port { phase := .up, plumb := some {}, period := 3 } 0
     (portOf s 0).plumb = some {} ∧ (portOf s 0).phase = .up ∧ after (.plumbSample 0) s (fun u => (portOf u 0).plumb == some { waiting := true, sentPeriod := 3, nextAt := 10000 * 2 ^ fld s (vlR 0 0x1C) 20 4 }) = true) ∧
    (∀ p ∈ [({ phase := .up, plumb := some { nextAt := 1 } } : Port), { phase := .up }, { phase := .lp1, plumb := some {} }], let s := port p 0
     after (.plumbSample 0) s (fun u => u == s) = true) ∧
    (let s := lcPort { phase := .up, plumb := some {} } ([6, 0, 0, 0] ++ leBytes 4 3 ++ leBytes 8 100) 0
     (lcHead s 0 6).isSome = true ∧ (portOf s 0).plumb = some {} ∧
     after (.plumbTs 0 (List.replicate 9 105)) s (fun u => ((portOf u 0).plumb.map (·.baPending)) == some (List.replicate 9 5)) = true) ∧
    (let q : PlumbRun := { waiting := true, sentPeriod := 3, baPending := List.replicate 9 5 }
     let s := lcPort { phase := .up, plumb := some q } ([7, 0, 0, 0] ++ leBytes 4 3 ++ leBytes 4 8) 0
     (lcHead s 0 7).map (fieldLe · 4 4) = some q.sentPeriod ∧ (portOf s 0).plumb = some q ∧ q.baPending.length = 9 ∧
     after (.plumbRpt 0) s (fun u => ((portOf u 0).plumb.map (fun x => (mget 0 x.ab 0, mget 0 x.ba 0, mget 0 x.counts 8))) == some (8, 5, 1)) = true) ∧
    (let r : PlumbRes := ⟨[1, 2, 3, 4, 5, 6, 7, 8, 9], List.replicate 9 0, List.replicate 9 0⟩
     let s := setRaw (port { plumbRes := some r } 0) (vlR 0 0x1C) 0x40000008
     (portOf s 0).plumbRes = some r ∧ flag s (vlR 0 0x1C) 30 = true ∧ after (.plumbLog 0) s (fun u => (portOf u 0).plumbNext == 1) = true) := by decide +kernel
theorem witness_plumb_log :
    let r : PlumbRes := ⟨[1, 2, 3, 4, 5, 6, 7, 8, 9], List.replicate 9 0, List.replicate 9 0⟩
    let b : PlumbRes := ⟨[1, 2, 3, 4, 9000000, 6, 7, 8, 9], List.replicate 9 0, List.replicate 9 0⟩
    let st (p : Port) (now c : Nat) : State := setRaw (port p now) (vlR 0 0x1C) (BitVec.ofNat 32 c)
    (∀ s ∈ [st {} 0 0x40000008, st { plumbRes := some r } 0 8, st { plumbRes := some r, plumbBase := some b } 3599999999999 0x40010008],
     after (.plumbLog 0) s (fun u => u == s) = true) ∧
    (let s := st { plumbRes := some r, plumbBase := some b } 3600000000000 0x40010008
     drifted (fld s (vlR 0 0x1C) 0 16) b r ≠ [] ∧
     after (.plumbLog 0) s (fun u => flag u (vlR 0 0x20) 29 && (portOf u 0).loggedAt == 3600000000000 && (portOf u 0).plumbBase == some b) = true) := by decide +kernel

/-! ## Clepsydra -/

/-- The module at power good with Clepsydra as given. -/
def clep (c : Clep) : State := { State.reset with clp := c }
/-- `n` ns in units of 2^-40 ns. -/
def ns (n : Nat) : Nat := n * 2 ^ 40

/-- A frequency of 1 % is held at 100 ppm; a slew of −2 µs lasts 4 ms; EPOCH 1 is 5 ns ahead. -/
theorem witness_counter_changes :
    (∀ t ∈ [9, 10], ∀ c ∈ [CounterChange.freq (2 ^ 33), .slew (-131072000)], let s := clep { mlt := ns t, changes := [(10, c)] }
     s.clp.changes = [(10, c)] ∧ (mltNs s < 10 ↔ t = 9) ∧ after .counterChangeApply s (fun u => (u.clp.changes == []) == decide (t = 10)) = true) ∧
    after .counterChangeApply (clep { mlt := ns 10, changes := [(10, .freq (2 ^ 33))] }) (fun u => u.clp.freq == 109951162) = true ∧
    after .counterChangeApply (clep { mlt := ns 10, changes := [(10, .slew (-131072000))] }) (fun u => u.clp.slew == -549755813 && u.clp.slewEnds == 4000010) = true ∧
    (∀ t ∈ [19, 20], let s := setRaw (clep { mlt := ns t, slew := 549755813, slewEnds := 20 }) clpB 0x08000000
     flag s clpB 27 = true ∧ (s.clp.slewEnds ≤ mltNs s ↔ t = 20) ∧ after .slewEnd s (fun u => (u.clp.slew == 0) == decide (t = 20)) = true) := by decide +kernel
theorem witness_epochs :
    (∀ t ∈ [9, 10], let s := clep { mlt := ns t, pending := [⟨1, 5 * 65536, 10⟩] }
     s.clp.pending = [⟨1, 5 * 65536, 10⟩] ∧ (mltNs s < 10 ↔ t = 9) ∧
     after .epochApply s (fun u => (u.clp.dev == ns 15 && u.clp.mlt == ns 10 && fld u clpB 0 16 == 1) == decide (t = 10)) = true) ∧
    (let s := clep { mlt := ns 100, adopt := some (50 * 65536, ⟨3, 7 * 65536⟩) }
     s.clp.adopt = some (50 * 65536, ⟨3, 7 * 65536⟩) ∧ (0 : Int) < 50 * 65536 ∧
     after .adoption s (fun u => u.clp.mlt == ns 150 && u.clp.dev == ns 157 && flag u clpB 29 && fld u clpB 0 16 == 3) = true) := by decide +kernel
theorem witness_nothing_due : ∀ s ∈ [clep {}, clep { adopt := some (0, ⟨3, 7⟩) }, clep { adopt := some (-5, ⟨3, 7⟩) }], ∀ c ∈ [Instr.counterChangeApply, .epochApply, .slewEnd, .adoption, .timeWriteApply],
    after c s (fun u => u == s) = true := by decide +kernel

/-- Every counter cycle adds 1.25 ns with no correction (R367). -/
theorem test_tick : (tickClock (clep {})).clp = { dev := 5 * 2 ^ 38, mlt := 5 * 2 ^ 38 } := by decide +kernel

/-- Divisors 8, 64 and 10; then 7 and 65. -/
theorem witness_clkdiv :
    Reaches (upState []) 0 (morB 0 + 4) (morB 0 + 4) ∧
    after (.morClkdivWrite 0 0 0x0A4008) (upState []) (fun u => fld u (morB 0 + 4) 0 24 == 0x0A4008 && !flag u (morB 0) 29) = true ∧
    after (.morClkdivWrite 0 0 0x0A4007) (upState []) (fun u => flag u (morB 0) 29 && raw u (morB 0 + 4) == raw (upState []) (morB 0 + 4)) = true ∧
    after (.morClkdivWrite 0 0 0x0A4108) (upState []) (fun u => flag u (morB 0) 29 && raw u (morB 0 + 4) == raw (upState []) (morB 0 + 4)) = true :=
  ⟨reaches_of (by decide +kernel), by decide +kernel, by decide +kernel, by decide +kernel⟩
/-- A clock that an empty or a running region's image uses is not changed. -/
theorem witness_clkdiv_used :
    let s : State := { upState [] with dies := [(0, { powered := true, mortar := { regions := [(0, { phase := .released, isolated := false, clks := 1 })] } })] }
    Reaches s 0 (morB 0 + 4) (morB 0 + 4) ∧ clockUsed s 0 0 = true ∧ fld s (morB 0 + 4) 0 8 ≠ 9 ∧
    after (.morClkdivWrite 0 0 (BitVec.ofNat 32 (fld s (morB 0 + 4) 8 24 * 256 + 9))) s (fun u => flag u (morB 0) 29 && raw u (morB 0 + 4) == raw s (morB 0 + 4)) = true :=
  ⟨reaches_of (by decide +kernel), by decide +kernel⟩
/-- 3 s are to hold at MLT 10 µs. -/
def setState (r : List (Nat × Nat)) : State := upState ([(clpB + 0x10, 3), (clpB + 0x20, 10000)] ++ r)
theorem witness_set_go :
    Reaches (setState []) 0 (clpB + 0x28) (clpB + 0x28) ∧ (setState []).clp.set = none ∧ srcSel (setState []) ≠ 2 ∧
    after (.clpSetGo 0 0) (setState []) (fun u => u.clp.set == some ⟨false, (3000000000 - 10000) * 65536, 10000⟩) = true ∧
    after (.clpSetGo 0 2) (setState []) (fun u => u.clp.set == none && flag u clpB 24) = true :=
  ⟨reaches_of (by decide +kernel), by decide +kernel⟩
theorem witness_set_go_refused :
    (let s := { setState [(clpB + 4, 0x40000000)] with clp := { rootPort := some 0 } }
     Reaches s 0 (clpB + 0x28) (clpB + 0x28) ∧ srcSel s = 2 ∧ isSlave s = true ∧ after (.clpSetGo 0 0) s (fun u => u.clp == s.clp && flag u clpB 24) = true) ∧
    (let s := { setState [] with clp := { set := some ⟨true, 1, 5⟩ } }
     Reaches s 0 (clpB + 0x28) (clpB + 0x28) ∧ s.clp.set ≠ none ∧ after (.clpSetGo 0 0) s (fun u => u.clp == s.clp && flag u clpB 24) = true) :=
  ⟨⟨reaches_of (by decide +kernel), by decide +kernel⟩, reaches_of (by decide +kernel), by decide +kernel⟩
/-- A difference of 500 ns, 20 µs and 2 ms. -/
theorem witness_time_write : ∀ v ∈ [500, 20000, 2000000], ∀ t ∈ [99, 100],
    let s := clep { mlt := ns t, set := some ⟨true, v * 65536, 100⟩ }
    s.clp.set = some ⟨true, v * 65536, 100⟩ ∧ (mltNs s < 100 ↔ t = 99) ∧
    after .timeWriteApply s (fun u => t == 99 || (u.clp.set == none && u.clp.pending == (if v = 2000000 then [⟨1, 2000000 * 65536, 2100⟩] else []) &&
      (if v = 20000 then u.clp.changes == [(2100, .slew (20000 * 65536))] else u.clp.changes.length == b2n (v == 500)))) = true := by decide +kernel
theorem witness_time_write_modes :
    (let s := clep { mlt := ns 100, rootPort := some 0, set := some ⟨true, 8192, 100⟩ }
     isSlave s = true ∧ after .timeWriteApply s (fun u => u.clp == { s.clp with set := none } && raw u (clpB + 0xC) == 2) = true) ∧
    (let s := setRaw (setRaw (clep { mlt := ns 100, slew := 549755813, set := some ⟨true, 500 * 65536, 100⟩ }) clpB 0x08000000) (clpB + 4) 0x20000000
     isSlave s = false ∧ srcSel s = 1 ∧ flag s clpB 27 = true ∧
     after .timeWriteApply s (fun u => u.clp.hostOffset == 500 * 65536 && u.clp.changes.map (·.1) == [2100, 2100] && (u.clp.changes.map (·.2)).head? == some .slewEnd) = true) := by decide +kernel

theorem witness_ptm :
    (∀ m ∈ [0, 2], let s := setRaw (clep { misses := m }) (clpB + 4) 0x20000000
     srcSel s = 1 ∧ isSlave s = false ∧ after (.ptmDialogue none) s (fun u => flag u clpB 28 == decide (m = 2)) = true) ∧
    (∀ m ∈ [100, 5000], after (.ptmDialogue (some (m, 0))) (setRaw (clep {}) (clpB + 4) 0x20000000) (fun u => raw u (clpB + 0xC) == BitVec.ofNat 32 (16 * m) && flag u clpB 29 == decide (m = 100)) = true) := by
  decide +kernel
theorem witness_ptm_other :
    (∀ s ∈ [clep {}, { clep { rootPort := some 0, slew := 7 } with regs := (setRaw (clep {}) (clpB + 4) 0x20000000).regs }], (srcSel s ≠ 1 ∨ isSlave s = true) ∧
     after (.ptmDialogue none) s (fun u => u.clp.misses == 1 && u.regs == s.regs) = true ∧
     after (.ptmDialogue (some (100, 0))) s (fun u => u.clp.misses == 0 && u.clp.changes == [] && raw u (clpB + 0xC) == 1600) = true) ∧
    (let s := setRaw (setRaw (clep { misses := 2, slew := 7 }) (clpB + 4) 0x20000000) clpB 0x08000000
     flag s clpB 27 = true ∧ after (.ptmDialogue none) s (fun u => u.clp.slew == 0 && flag u clpB 28 && !flag u clpB 29 && flag u hltB 7) = true) := by decide +kernel
/-- A module whose port of CD0 is up. -/
def ptpState (c : Clep) : State := { clep c with ports := [(0, { phase := .up })] }
/-- The epoch TLV of a root whose epoch is 2 with offset 9 ns, identity 0x77. -/
def rootTlv : List Byte := beBytes 2 2 ++ beBytes 2 0 ++ beBytes 10 (9 * 65536) ++ List.replicate 18 0 ++ beBytes 8 0x77 ++ beBytes 2 0
/-- θ of 100 ns, 20 µs, 2 ms and −2 ms at a Sync that arrived at 5 ms. -/
theorem witness_follow_up : ∀ d ∈ [(100 : Int), 20000, 2000000, -2000000],
    let origin := ((5000000 + 9 + d) * 65536).toNat
    let s := ptpState { rootPort := some 0, ptp := [(0, { syncSeq := some (4, 5000000 * 65536) })] }
    ptpPort s 0 = true ∧ (mget {} s.clp.ptp 0).syncSeq = some (4, 5000000 * 65536) ∧ s.clp.rootPort = some 0 ∧ rootTlv.length = 42 ∧
    (⟨BitVec.ofNat 16 (beNat (rootTlv.take 2)), beInt rootTlv 4 10⟩ : Epoch) = ⟨2, 9 * 65536⟩ ∧
    after (.followUp 0 false 0 4 origin rootTlv) s (fun u => u.clp.rootIdent == 0x77 && (epochNow u == ⟨2, 9 * 65536⟩) == decide (d ≠ 2000000) &&
      u.clp.adopt == (if d = 2000000 then some (d * 65536, ⟨2, 9 * 65536⟩) else none) && flag u clpB 29 == decide (d = 100) && flag u clpB 25 == decide (d = -2000000)) = true := by
  decide +kernel
/-- R376: a slave that has locked since power-up does not adopt again. -/
theorem witness_locked_slave :
    let s := ptpState { rootPort := some 0, everLocked := true, ptp := [(0, { syncSeq := some (4, 5000000 * 65536) })] }
    s.clp.everLocked = true ∧ flag s clpB 25 = false ∧ (mget {} s.clp.ptp 0).syncSeq = some (4, 5000000 * 65536) ∧
    after (.followUp 0 false 0 4 ((7000009 * 65536 : Nat)) rootTlv) s (fun u => u.clp.adopt == none && epochNow u == ⟨2, 9 * 65536⟩ && !flag u clpB 29) = true := by decide +kernel
/-- An announced epoch whose time has passed has begun. -/
theorem witness_announced_epoch :
    let tlv : List Byte := beBytes 2 2 ++ beBytes 2 1 ++ beBytes 10 (9 * 65536) ++ beBytes 10 (11 * 65536) ++ beBytes 8 100 ++ beBytes 8 0x77 ++ beBytes 2 0
    let s := ptpState { mlt := ns 100, rootPort := some 0, ptp := [(0, { syncSeq := some (4, 5000000 * 65536) })] }
    tlv.length = 42 ∧ byteAt tlv 3 % 2 = 1 ∧ beNat ((tlv.drop 24).take 8) ≤ mltNs s ∧
    after (.followUp 0 false 0 4 (5000009 * 65536) tlv) s (fun u => epochNow u == ⟨3, 11 * 65536⟩) = true := by decide +kernel
theorem witness_ptp_messages :
    ptpPort (ptpState {}) 0 = true ∧ fld (ptpState {}) (clpB + 8) 0 7 = 0 ∧
    after (.sync 0 true false 0 0) (ptpState {}) (fun u => u.out == [.ptp 0 0 0 0 0 []]) = true ∧
    after (.sync 0 false false 0 4) (ptpState {}) (fun u => (mget {} u.clp.ptp 0).syncSeq == some (4, 0)) = true ∧
    after (.pdelayReq 0 0 100 150 250) (ptpState {}) (fun u => (mget {} u.clp.ptp 0).delay == 100) = true ∧
    after (.announce 0 false 0 0 6 0 0 0 1 0) (ptpState {}) (fun u => u.clp.rootPort == some 0) = true ∧
    after (.announce 0 true 0 0 6 0 0 0 1 0) (ptpState {}) (fun u => u.out.length == 1 && u.clp.announceSeq == 1) = true ∧
    after (.followUp 0 true 0 0 0 []) (ptpState {}) (fun u => u.out.length == 1) = true ∧
    (∀ c ∈ [Instr.sync 0 false false 1 4, .sync 0 false true 0 4, .announce 0 false 1 0 6 0 0 0 1 0], after c (ptpState {}) (fun u => u == ptpState {}) = true) ∧
    (∀ c ∈ [Instr.sync 1 true false 0 4, .followUp 1 false 0 4 0 rootTlv, .pdelayReq 1 1 2 3 4, .announce 1 true 0 0 6 0 0 0 1 0], ptpPort (ptpState {}) 1 = false ∧
      after c (ptpState {}) (fun u => u == ptpState {}) = true) ∧
    (match exec (.followUp 0 false 0 4 0 []) (ptpState {}) with | .fault f => f == .illFormed | _ => false) = true := by decide +kernel
theorem witness_announce_timeout : ∀ r ∈ [none, some 0],
    let s := ptpState { rootPort := r, masters := [(0, ⟨0, 6, 0, 0, 0, 1, 0, 0⟩)] }
    isSlave s = r.isSome ∧ (∀ e ∈ s.clp.masters, e.1 = 0 ∨ ptpPort s e.1 = false) ∧
    after (.announceReceiptTimeout 0) s (fun u => u.clp.rootPort == none && u.clp.masters == [] && flag u clpB 28 == r.isSome) = true := by decide +kernel

/-! ## Keystone -/

/-- The descriptor of a critical command without tag: CCODE, SLOT 0, CTR, the length of its block at host address 0x1000. -/
def ksDesc (code ctr len : Nat) : List Byte :=
  [0x10, 0] ++ leBytes 6 0 ++ leBytes 8 0x1000 ++ leBytes 16 0 ++ leBytes 2 code ++ leBytes 2 0 ++ leBytes 4 len ++ leBytes 8 ctr ++ leBytes 16 0
/-- A command at the head of the queue, from the mailbox. -/
def ksc (code : Nat) (b : List Byte) : KsCmd := { op := none, desc := ksDesc code 0 b.length, params := b, accepted := true }
/-- The module with that command, Keystone as given. -/
def ksState (k : Keystone) (code : Nat) (b : List Byte) : State :=
  { State.reset with ks := { k with queue := [ksc code b], mailBusy := true }, hub := { entered := true, started := true }, dies := (List.range 2).map fun d => (d, { powered := true }) }
/-- The code the mailbox shows once the command is complete. -/
def mailCode (u : State) : Option Nat := if flag u (ksB + 0x140) 29 && !u.ks.mailBusy && u.ks.queue == [] then some (fld u (ksB + 0x140) 0 8) else none

/-- An ATTEST in an owned module passes; in one without an owner it fails step 2. -/
theorem witness_critical : ∀ owned ∈ [false, true],
    let o : Op := { opr 0x10 with desc := ksDesc 0x60 0 48, phase := .ready }
    let s : State := setRaw { withOp o with ks := { owned := owned } } cfgB 0xC0000000
    s.ks.queue = [] ∧ Names s 0 false 0 0 o ∧ opcOf o = 0x10 ∧ partOf s o.part = some prt ∧ stepFree s o.part prt o = true ∧
    ksFault s { op := some 0, desc := o.desc } = (if owned then none else some (2, 0x20)) ∧
    after (.critical 0 false 0) s (fun u => (opOf u 0).map (fun x => (x.phase, x.code)) == some (if owned then (.running, 0) else (.recordDue, 0x20)) &&
      u.ks.queue.length == b2n owned && fld u (ksB + 0x320) 0 32 == b2n (!owned)) = true := by unfold Names; decide +kernel
/-- Behind a command at the head: it waits in the queue, outside while that is full, and until it is ready. -/
theorem witness_critical_waits : ∀ x ∈ [(OpPhase.ready, 1), (.ready, 15), (.ready, 16), (.admitted, 1)],
    let o : Op := { opr 0x10 with desc := ksDesc 0x60 0 48, phase := x.1 }
    let s : State := setRaw { withOp o with ks := { owned := true, queue := List.replicate x.2 (ksc 0x02 (leBytes 8 0)) } } cfgB 0xC0000000
    Names s 0 false 0 0 o ∧ opcOf o = 0x10 ∧ (s.ks.queue.head?.map (·.accepted)) = some true ∧
    (∀ p ∈ s.parts, stepFree s o.part p.2 o = true) ∧
    after (.critical 0 false 0) s (fun u => if x.1 = .ready ∧ x.2 < 16 then u.ks.queue.length == x.2 + 1 && (opOf u 0).map (·.phase) == some .running else u == s) = true := by
  unfold Names; decide +kernel
/-- A KEY_REVOKE with the right and with CTR 5 on slot 0, tagged `g`. -/
def revoke (g : List Byte) : KsCmd := { op := some 0, desc := (ksDesc 0x11 5 1).take 48 ++ g, params := [1] }
theorem revoke_of (g : List Byte) : ksFormOk (revoke g) = true ∧ ksCode (revoke g) = 0x11 ∧ ksSlot (revoke g) = 0 ∧ ksCtr (revoke g) = 5 ∧
    (revoke g).desc.drop 48 = g ∧ ksMessage (revoke g) = ksMessage (revoke []) := by
  have e : (ksDesc 0x11 5 1).take 48 = [0x10, 0, 0, 0, 0, 0, 0, 0, 0, 0x10, 0, 0, 0, 0, 0, 0, 0, 0, 0, 0, 0, 0, 0, 0, 0, 0, 0, 0, 0, 0, 0, 0,
    0x11, 0, 0, 0, 1, 0, 0, 0, 5, 0, 0, 0, 0, 0, 0, 0] := by decide +kernel
  refine ⟨?_, ?_, ?_, ?_, ?_, ?_⟩ <;>
    simp [revoke, e, ksFormOk, ksCode, ksSlot, ksCtr, ksPlen, ksMessage, ksRight, byteAt, Machine.fieldLe, leNat]
/-- Whatever the serial number, there is a TAG with which it passes steps 1 to 5. -/
theorem witness_tagged (s : State) (hs : s.ks.owned = true) (hc : stageOf s ≠ 0) (hx : (slotOf s.ks 0).state = 1 ∧ (slotOf s.ks 0).lastCtr = 4 ∧ (slotOf s.ks 0).rights = 2) :
    ∃ g, ksFault s (revoke g) = none := by
  refine ⟨(hmac256 (slotOf s.ks 0).key (ksMessage (revoke []))).take 16, ?_⟩
  generalize hg : (hmac256 (slotOf s.ks 0).key (ksMessage (revoke []))).take 16 = g
  obtain ⟨h1, h2, h3, h4, h5, h6⟩ := revoke_of g
  have h7 : g.take 16 = g := by subst hg; rw [List.take_take, Nat.min_self]
  simp [ksFault, h1, h2, h3, h4, h5, h6, h7, hg, hs, hx, hc, ksRight]
  decide
/-- OWNER_PROVISION in the mailbox of a module without an owner; with a SLOT it fails step 1. -/
theorem witness_mailbox :
    (let s := upState [(ksB + 0x100, 0x10), (ksB + 0x120, 0x13)]
     Reaches s 0 (ksB + 0x140) (ksB + 0x140) ∧ s.ks.mailBusy = false ∧ after (.ksCmdGo 0) s (fun u => u.ks.queue.map (fun c => (ksCode c, c.accepted)) == [(0x13, true)]) = true) ∧
    (let s := upState [(ksB + 0x100, 0x10), (ksB + 0x120, 0x00010013)]
     after (.ksCmdGo 0) s (fun u => mailCode u == some 0x22) = true) :=
  ⟨⟨reaches_of (by decide +kernel), by decide +kernel, by decide +kernel⟩, by decide +kernel⟩

/-- The witness of KsAtHead for a command and block. -/
theorem witness_at_head : ∀ e ∈ [(0x02, 8), (0x10, 68), (0x11, 1), (0x13, 32), (0x18, 68), (0x19, 68), (0x1A, 0), (0x1B, 1), (0x50, 1), (0x60, 48)],
    KsAtHead (ksState {} e.1 (leBytes e.2 0)) e.1 (ksc e.1 (leBytes e.2 0)) := by unfold KsAtHead; decide +kernel
/-- A wrapped block for slot 1, and one for an image key. -/
theorem witness_wrap : wrapOk (ksc 0x10 ([1, 1] ++ leBytes 66 0)) false = true ∧ wrapOk (ksc 0x18 (0xFF :: leBytes 67 0)) true = true ∧
    (slotOf (ksState {} 0x10 []).ks 1).state ≠ 1 ∧ (slotOf (ksState { slots := [(1, { state := 1 })] } 0x10 []).ks 1).state = 1 := by decide +kernel
theorem test_fuse_commands :
    (after .svnCommit (ksState {} 0x02 ([6, 0, 0, 0] ++ leBytes 4 32)) (fun u => mailCode u == some 0 && mget 0 u.ks.svn 6 == 32) &&
     after .svnCommit (ksState {} 0x02 ([6, 0, 0, 0] ++ leBytes 4 33)) (fun u => mailCode u == some 0x22 && u.ks.svn == []) &&
     after .keyRevoke (ksState { slots := [(7, { state := 1 })] } 0x11 [7]) (fun u => mailCode u == some 0 && (slotOf u.ks 7).state == 2) &&
     after .keyRevoke (ksState {} 0x11 [0]) (fun u => mailCode u == some 0x22) &&
     after .ownerProvision (ksState {} 0x13 (List.replicate 32 9)) (fun u => u.ks.owned && (slotOf u.ks 0).key == List.replicate 32 9 && (slotOf u.ks 0).rights == 0x7F) &&
     after .imgkeyFuse (ksState { fuseKey := some [] } 0x19 (0xFF :: leBytes 67 0)) (fun u => mailCode u == some 0x22) &&
     after .keysrcFuse (ksState {} 0x1A []) (fun u => u.ks.keysrc && !u.ks.keysrcNow) &&
     after .rootRevoke (ksState { rootRevoked := 3 } 0x1B [2]) (fun u => mailCode u == some 0 && u.ks.rootRevoked == 7) &&
     after .rootRevoke (ksState { rootRevoked := 7 } 0x1B [3]) (fun u => mailCode u == some 0x22 && u.ks.rootRevoked == 7) &&
     after .debugEnable (ksState {} 0x50 [0]) (fun u => mailCode u == some 0 && !u.ks.debug) &&
     after .debugEnable (ksState {} 0x50 [1]) (fun u => mailCode u == some 0 && u.ks.debug && flag u (hltB + 0x2200 + 4 * 15) 8)) = true := by decide +kernel
/-- Blocks that are not wrapped as the command wants, a slot that is open or taken, a slot without a key. -/
theorem test_key_refusals :
    (after .keyInstall (ksState {} 0x10 (leBytes 68 0xFF)) (fun u => mailCode u == some 0x22) && after .imgkeyVbat (ksState {} 0x18 (leBytes 68 0)) (fun u => mailCode u == some 0x22) &&
     after .imgkeyFuse (ksState {} 0x19 (leBytes 68 0)) (fun u => mailCode u == some 0x22) && after .keyRevoke (ksState {} 0x11 [8]) (fun u => mailCode u == some 0x22) &&
     after .debugEnable (ksState {} 0x50 [2]) (fun u => mailCode u == some 0x22 && !u.ks.debug) &&
     after .rootRevoke (ksState {} 0x1B [4]) (fun u => mailCode u == some 0x22)) = true ∧
    wrapOk (ksc 0x10 (leBytes 68 0xFF)) false = false ∧ wrapOk (ksc 0x18 (leBytes 68 0)) true = false ∧ wrapOk (ksc 0x19 (leBytes 68 0)) true = false := by decide +kernel
/-- Of every Keystone command: one with too short a block is refused; one that is not at the head, or not accepted, does nothing. -/
theorem witness_keystone_short : ∀ e ∈ [(Instr.svnCommit, 0x02), (.keyInstall, 0x10), (.keyRevoke, 0x11), (.ownerProvision, 0x13), (.imgkeyVbat, 0x18), (.imgkeyFuse, 0x19),
      (.rootRevoke, 0x1B), (.partCreate, 0x20), (.partChange, 0x21), (.partDelete, 0x22), (.gradeSet, 0x30), (.lockstepSet, 0x31), (.tapForce, 0x40), (.dieFence, 0x41),
      (.dieUnfence [], 0x42), (.debugEnable, 0x50), (.attest, 0x60)],
    0 < ksNeed e.2 ∧ after e.1 (ksState {} e.2 []) (fun u => mailCode u == some 0x22) = true := by decide +kernel
theorem witness_keystone_other : ∀ k ∈ [({ queue := [] } : Keystone), { queue := [ksc 0x03 []] }, { queue := [{ ksc 0x1A [] with accepted := false }] }],
    after .keysrcFuse { State.reset with ks := k } (fun u => u == { State.reset with ks := k }) = true := by decide +kernel

/-- An ATTEST of no region and no digest; and one of a region that holds nothing. -/
theorem witness_attest :
    (let b := List.replicate 32 1 ++ leBytes 4 0 ++ leBytes 4 0 ++ leBytes 8 0x2000
     let c := ksc 0x60 b
     KsAtHead (ksState { owned := true } 0x60 b) 0x60 c ∧ (match atDigest (ksState { owned := true } 0x60 b) c with | .ok d => d == List.replicate 32 0 | .error _ => false) = true) ∧
    (let b := List.replicate 32 1 ++ leBytes 4 0x80000000 ++ leBytes 12 0
     after .attest (ksState { owned := true } 0x60 b) (fun u => mailCode u == some 0x10) = true) := by unfold KsAtHead; decide +kernel

/-! ## Partitions -/

/-- The module in stage C with a command at the head of Keystone's queue. -/
def ksUp (code : Nat) (b : List Byte) : State := { upState [] with ks := { owned := true, queue := [ksc code b], mailBusy := true } }
/-- A partition block (18 R452): span, first logical tile and count, banks. -/
def pblock (n span first count banks : Nat) : List Byte :=
  leBytes 2 n ++ leBytes 2 span ++ [BitVec.ofNat 8 first, BitVec.ofNat 8 count, 0, 0x80] ++ leBytes 8 banks ++ leBytes 16 0 ++ List.replicate 16 0xFF ++ leBytes 16 0
/-- Partition 5 on CD1 with LT4 and LT5 and bank 1; then with LT128 in reach, and on CD2, which is fenced. -/
theorem witness_part_create :
    (let b := pblock 5 2 4 2 2
     KsAtHead (ksUp 0x20 b) 0x20 (ksc 0x20 b) ∧ blockFault (ksUp 0x20 b) b true = none ∧
     after .partCreate (ksUp 0x20 b) (fun u => (partOf u 5).map (fun q => (q.joining, q.clearing, q.tiles)) == some ([132, 133], [1], [])) = true) ∧
    blockFault (ksUp 0x20 []) (pblock 5 2 127 2 2) true = some 0x22 ∧
    after .partCreate { ksUp 0x20 (pblock 5 4 4 2 2) with dies := [(2, { powered := true, fenced := true })] } (fun u => mailCode u == some 0x10 && u.parts == []) = true := by unfold KsAtHead; decide +kernel
/-- Partition 0 loses LT0 and gains LT2; a change of partition 5, which is not there, fails. -/
theorem witness_part_change :
    let b := pblock 0 1 1 2 1
    let s : State := { ksUp 0x21 b with parts := [(0, prt)] }
    KsAtHead s 0x21 (ksc 0x21 b) ∧ partOf s 0 = some prt ∧ blockFault s b false = none ∧ blockFault s (pblock 5 1 1 2 1) false = some 0x10 ∧
    after .partChange s (fun u => (partOf u 0).map (fun q => (q.joining, q.releasing, q.tiles)) == some ([2], [0], [0, 1])) = true := by unfold KsAtHead; decide +kernel
/-- Without ports to drain, and with one. -/
theorem witness_part_delete : ∀ m ∈ [false, true],
    let s : State := { ksUp 0x22 [0] with parts := [(0, prt)], dies := [(0, { powered := true, ltMap := if m then [(0, some (9, 0))] else [] })] }
    KsAtHead s 0x22 (ksc 0x22 [0]) ∧ partOf s 0 = some prt ∧ prt.deleting = false ∧
    (spanDies prt).filter (fun d => dieUp s d && !(partPorts s 0 prt d).isEmpty) = (if m then [0] else []) ∧
    after .partDelete s (fun u => (partOf u 0).map (·.deleting) == (if m then some true else none) && (m || mailCode u == some 0)) = true := by unfold KsAtHead; decide +kernel
/-- Of a number above 63, of no partition, of one that is being deleted already; a ready operation of the partition ends. -/
theorem witness_part_delete_refused :
    (∀ x ∈ [(64, 0x22), (5, 0x10), (0, 0x10)], let s : State := { ksUp 0x22 [BitVec.ofNat 8 x.1] with parts := [(0, { prt with deleting := true })] }
     KsAtHead s 0x22 (ksc 0x22 [BitVec.ofNat 8 x.1]) ∧ after .partDelete s (fun u => mailCode u == some x.2 && u.parts == s.parts) = true) ∧
    (let s : State := { ksUp 0x22 [0] with parts := [(0, prt)], ops := [(3, { opr 11 with phase := .admitted })] }
     KsAtHead s 0x22 (ksc 0x22 [0]) ∧ after .partDelete s (fun u => (opOf u 3).map (fun o => (o.phase, o.code)) == some (.recordDue, 0x10)) = true) := by unfold KsAtHead; decide +kernel
theorem witness_sluice_safe : ∀ l ∈ [[0], [0, 1]],
    let p : Partition := { prt with deleting := true, delDies := l }
    let s : State := { upState [] with parts := [(0, p)], dies := [(0, { powered := true, ltMap := [(0, some (9, 0))], runnel := { domains := [[9, 10]], sluices := [(9, { phase := .closed }), (10, { phase := .closed })] } })] }
    partOf s 0 = some p ∧ portsDone (sluiceSafe s 0) 0 (partPorts (sluiceSafe s 0) 0 p 0) = true ∧ partPorts (sluiceSafe s 0) 0 p 0 = [9] ∧
    after (.sluiceSafe 0) s (fun u => match l with | [0] => partOf u 0 == none | _ => (partOf u 0).map (·.delDies) == some [1]) = true := by decide +kernel

theorem witness_part_steps :
    (let p : Partition := { prt with clearing := [1] }
     let s : State := { upState [] with parts := [(0, p)], dies := [(1, { powered := true, hbm := { lines := [(5, 7), (2 ^ 24 + 5, 7)] } })] }
     partOf s 0 = some p ∧ p.clearing.contains 1 = true ∧ p.bankDies.testBit 1 = false ∧
     after (.bankSetClearComplete 0 1) s (fun u => (dieOf u 1).hbm.lines == [(2 ^ 24 + 5, 7)] && (partOf u 0).map (·.clearing) == some []) = true) ∧
    (let p : Partition := { prt with copyTo := [1] }
     let s : State := { upState [] with parts := [(0, p)], dies := [(0, { powered := true, hbm := { lines := [(5, 7)] } })] }
     partOf s 0 = some p ∧ (spanDies p).head? = some 0 ∧ p.copyTo.contains 1 = true ∧
     after (.weightCopyComplete 0 1) s (fun u => (dieOf u 1).hbm.lines == [(5, 7)] && (partOf u 0).map (·.copyTo) == some []) = true) ∧
    (∀ hold ∈ [false, true], let p : Partition := { prt with stepDue := [4], releasing := [1] }
     let s : State := { upState [] with parts := [(0, p)], ops := if hold then [(0, { opr 1 with started := true, phase := .running })] else [] }
     partOf s 0 = some p ∧ p.stepDue = [4] ∧ p.joining = [] ∧ s.ops.any (fun e => holdsBoundary 0 4 e.2) = hold ∧
     after (.stepBoundary 0) s (fun u => (partOf u 0).map (fun q => (q.steps, q.tiles)) == some (if hold then (0, [0, 1]) else (1, [0]))) = true) := by decide +kernel
theorem witness_part_steps_idle :
    (let s : State := { upState [] with parts := [(0, prt)] }
     after (.bankSetClearComplete 0 1) s (fun u => u == s) = true ∧ after (.weightCopyComplete 0 1) s (fun u => u == s) = true ∧ after (.stepBoundary 0) s (fun u => u == s) = true) ∧
    (let s : State := { upState [] with parts := [(0, { prt with copyTo := [1], cur := { blk with span := 0 } })] }
     after (.weightCopyComplete 0 1) s (fun u => u == s) = true) ∧
    (let p : Partition := { prt with clearing := [1], cur := { blk with span := 1 } }
     let s : State := { upState [] with parts := [(0, p)] }
     p.cur.chain = false ∧ spanDies p = [0] ∧ after (.bankSetClearComplete 0 1) s (fun u => (partOf u 0).map (·.copyTo) == some [1]) = true) := by decide +kernel
/-- A boundary the module manager wants, with and without an operation that holds it back. -/
theorem witness_boundary_wanted : ∀ hold ∈ [false, true],
    let p : Partition := { prt with boundaryWanted := true, blk := { blk with training := true, wCount := 32 } }
    let s : State := { upState [] with parts := [(0, p)], ops := if hold then [(0, { opr 1 with started := true, phase := .running })] else [] }
    partOf s 0 = some p ∧ p.stepDue = [] ∧ s.ops.any (fun e => e.2.part == 0 && (stepEnd e.2 || holdsBoundary 0 e.2.order e.2)) = hold ∧
    after (.stepBoundary 0) s (fun u => if hold then u == s else (partOf u 0).map (fun q => (q.steps, q.cur.training, q.cur.wCount)) == some (0, true, 32)) = true := by decide +kernel

/-- Grade B with no partition, and with one; grade A of a module in grade B, with and without sixteen spares. -/
theorem witness_grade : (∀ p ∈ [[], [(0, prt)]],
    let s : State := { ksUp 0x30 [1] with parts := p, dies := [(0, { powered := true, ltMap := [(112, some (9, 0))] })] }
    KsAtHead s 0x30 (ksc 0x30 [1]) ∧ gradeB s = false ∧ s.ks.grades = [] ∧ s.ks.running = [] ∧
    s.parts.any (fun e => decide (112 < e.2.blk.firstLt + e.2.blk.ltCount)) = false ∧
    after .gradeSet s (fun u => gradeB u == decide (p = []) && (ptOf u 0 112 == none) == decide (p = []) && (partOf u 0).all (·.boundaryWanted)) = true) ∧
    (∀ x ∈ [(2, [], 0x22), (1, [(0, { prt with blk := { blk with firstLt := 112, ltCount := 1 } })], 0x10), (0, [], 0)], let b : List Byte := [BitVec.ofNat 8 x.1]
     let s : State := { ksUp 0x30 b with parts := x.2.1 }
     KsAtHead s 0x30 (ksc 0x30 b) ∧ after .gradeSet s (fun u => mailCode u == some x.2.2 && !gradeB u) = true) := by
  unfold KsAtHead; decide +kernel
/-- A module made as grade B; and two changes one behind the other. -/
theorem witness_grade_made :
    (let s := setRaw (ksUp 0x30 [0]) 4 0x270
     KsAtHead s 0x30 (ksc 0x30 [0]) ∧ flag s 4 9 = true ∧ after .gradeSet s (fun u => mailCode u == some 0x20) = true) ∧
    (let g : GradeChange := { toB := true, cmd := 1, wait := [0] }
     let s : State := { ksUp 0x30 [0] with parts := [(0, prt)], ks := { (ksUp 0x30 [0]).ks with grades := [g] } }
     KsAtHead s 0x30 (ksc 0x30 [0]) ∧ after .gradeSet s (fun u => u.ks.grades.map (fun x => (x.toB, x.wait)) == [(true, [0]), (false, [0])]) = true) := by
  unfold KsAtHead; decide +kernel
/-- To grade A, with fifteen and with sixteen spares on the one die that is up. -/
theorem witness_grade_up : ∀ n ∈ [15, 16],
    let s : State := setRaw { ksUp 0x30 [0] with hub := { (upState []).hub with passed := List.range n }, dies := (0, { powered := true }) :: (List.range 15).map fun d => (d + 1, { fenced := true }) } 4 0x170
    KsAtHead s 0x30 (ksc 0x30 [0]) ∧ gradeB s = true ∧ flag s 4 9 = false ∧ s.parts = [] ∧
    allDies.any (fun d => dieUp s d && decide ((freeSpares s d).length < 16)) = decide (n = 15) ∧
    after .gradeSet s (fun u => if n = 15 then mailCode u == some 0x10 && gradeB u else mailCode u == some 0 && !gradeB u && (ptOf u 0 127).isSome) = true := by
  unfold KsAtHead; decide +kernel
/-- Partitions 0 on CD0 and 1 on CD1. -/
def twoParts : SMap Partition := [(0, prt), (1, { prt with cur := { blk with span := 2 } })]
theorem witness_pair :
    (let b : List Byte := [0, 1, 0xFF, 1]
     let s : State := { ksUp 0x31 b with parts := twoParts.map fun e => (e.1, { e.2 with cur := { e.2.cur with wCount := 1 } }) }
     KsAtHead s 0x31 (ksc 0x31 b) ∧ inPair s 0 = false ∧ inPair s 1 = false ∧
     (∀ p ∈ partOf s 0, ∀ q ∈ partOf s 1, p.deleting = false ∧ q.deleting = false ∧ p.tiles.length = q.tiles.length ∧ p.cur.chain = q.cur.chain ∧ sameWeights s 0 1 p q = true ∧
       ∀ d ∈ spanDies p, d ∉ spanDies q) ∧
     after .lockstepSet s (fun u => u.pairs == [{ primary := 0, mirror := 1, module := 0xFF }]) = true) ∧
    (let b : List Byte := [0, 1, 0xFF, 0]
     let s : State := { ksUp 0x31 b with pairs := [{ primary := 0, mirror := 1, module := 0xFF }, { primary := 4, mirror := 5, module := 0xFF }] }
     KsAtHead s 0x31 (ksc 0x31 b) ∧ after .lockstepSet s (fun u => u.pairs == [{ primary := 4, mirror := 5, module := 0xFF }] && mailCode u == some 0) = true) ∧
    (let b : List Byte := [0, 5, 9, 1]
     let s : State := { ksUp 0x31 b with parts := [(0, prt)] }
     KsAtHead s 0x31 (ksc 0x31 b) ∧ after .lockstepSet s (fun u => u.pairs == [{ primary := 0, mirror := 5, module := 9 }]) = true) := by unfold KsAtHead; decide +kernel
/-- Numbers out of range; no primary, no mirror; one partition twice; a primary that is in a pair; no pair to end. -/
theorem witness_pair_refused : ∀ b ∈ [([64, 1, 0xFF, 1] : List Byte), [0, 64, 0xFF, 1], [0, 1, 0xFF, 2], [7, 1, 0xFF, 1], [0, 7, 0xFF, 1], [0, 0, 0xFF, 1], [3, 1, 0xFF, 1], [0, 1, 0xFF, 0]],
    let s : State := { ksUp 0x31 b with parts := twoParts ++ [(3, prt)], pairs := [{ primary := 3, mirror := 4, module := 9 }] }
    KsAtHead s 0x31 (ksc 0x31 b) ∧ after .lockstepSet s (fun u => u.pairs == s.pairs && u.ks.queue == []) = true := by unfold KsAtHead; decide +kernel

/-! ## Health -/

/-- A test of PT7 of CD0 in a state whose clock stands at `now` ms, GRACE 1 s. -/
def tapState (j : List (Nat × TapJob)) (now : Nat) : State :=
  { upState [(hltB + 4, 1000)] with hub := { (upState []).hub with taps := j }, clp := { mlt := ns (now * 1000000) } }
theorem witness_tap_due :
    (let s := tapState [] 0
     mfind s.hub.taps 0 = none ∧ s.hub.tapQueue = [] ∧ tileKey 0 7 ∉ s.hub.retired ∧ dieUp s 0 = true ∧ ltOf s 0 7 = none ∧
     after (.tapTestDue 0 7) s (fun u => (mfind u.hub.taps 0).map (fun j => (j.pt, j.step)) == some (7, 5) && (tileOf u 0 7).seq.status == .test) = true) ∧
    (let b : List Byte := [0, 1, 7, 0]
     let s : State := { tapState [] 5000 with ks := { owned := true, queue := [ksc 0x40 b], mailBusy := true } }
     KsAtHead s 0x40 (ksc 0x40 b) ∧ ltOf s 0 7 = none ∧ mfind s.hub.taps 0 = none ∧
     after .tapForce s (fun u => (mfind u.hub.taps 0).map (fun j => (j.due, j.cmd)) == some (4000000000, some 0)) = true) := by unfold KsAtHead; decide +kernel
/-- A second test of a tile, a test behind another, a retired tile, a die that is down; a mapped tile without and with a spare. -/
theorem witness_tap_not_begun :
    (let s := tapState [(0, { pt := 7, due := 0 })] 0
     after (.tapTestDue 0 7) s (fun u => u == s) = true ∧ after (.tapTestDue 0 8) s (fun u => u.hub.tapQueue.map (fun e => (e.1, e.2.pt)) == [(0, 8)]) = true ∧
     after (.tapTestDue 0 8) { s with hub := { s.hub with tapQueue := [(0, { pt := 8, due := 0 })] } } (fun u => u.hub.tapQueue.length == 1) = true) ∧
    (let s := tapState [] 0
     let r : State := { s with hub := { s.hub with retired := [tileKey 0 7] } }
     let d : State := { s with dies := [(0, { fenced := true })] }
     after (.tapTestDue 0 7) r (fun u => u == r) = true ∧ after (.tapTestDue 0 7) d (fun u => u == d) = true) ∧
    (∀ spare ∈ [false, true], let s : State := { tapState [] 0 with dies := [(0, { powered := true, ltMap := [(3, some (7, 0))] })], tiles := [(7, { part := some ctxp })], hub := { (upState []).hub with passed := if spare then [tileKey 0 9] else [] } }
     ltOf s 0 7 = some 3 ∧ freeSpares s 0 = (if spare then [9] else []) ∧ (tileOf s 0 7).part ≠ none ∧ (tileOf s 0 7).ended = false ∧
     after (.tapTestDue 0 7) s (fun u => if spare then (mfind u.hub.taps 0).map (fun j => (j.lt, j.spare, j.step)) == some (some 3, some 9, 1) else fld u (hltB + 0x100) 0 8 == 1) = true) := by decide +kernel
/-- TAP_FORCE of die 16, of tile 136, of a retired tile; behind another test; and of a mapped tile. -/
theorem witness_tap_force :
    (∀ x ∈ [([16, 1, 7, 0], 0x22), ([0, 1, 136, 0], 0x10), ([0, 1, 8, 0], 0x10)], let s : State := { tapState [] 5000 with ks := { owned := true, queue := [ksc 0x40 x.1], mailBusy := true }, hub := { (upState []).hub with retired := [8] } }
     KsAtHead s 0x40 (ksc 0x40 x.1) ∧ after .tapForce s (fun u => mailCode u == some x.2 && u.hub.taps == []) = true) ∧
    (let b : List Byte := [0, 0, 7, 0]
     let s : State := { tapState [(0, { pt := 9, due := 0 })] 5000 with ks := { owned := true, queue := [ksc 0x40 b], mailBusy := true } }
     KsAtHead s 0x40 (ksc 0x40 b) ∧ after .tapForce s (fun u => u.hub.tapQueue.map (fun e => (e.2.pt, e.2.due)) == [(7, 5000000000)] && u.ks.running.length == 1) = true) ∧
    (let b : List Byte := [0, 0, 7, 0]
     let s : State := { tapState [] 5000 with ks := { owned := true, queue := [ksc 0x40 b], mailBusy := true }, dies := [(0, { powered := true, ltMap := [(3, some (7, 0))] })], tiles := [(7, { part := some ctxp })], hub := { (upState [(hltB + 4, 1000)]).hub with passed := [tileKey 0 9] } }
     KsAtHead s 0x40 (ksc 0x40 b) ∧ after .tapForce s (fun u => (mfind u.hub.taps 0).map (fun j => (j.lt, j.spare, j.cmd)) == some (some 3, some 9, some 0)) = true) := by unfold KsAtHead; decide +kernel
theorem witness_tap_steps :
    (∀ x ∈ [(false, TileStatus.run, true, none), (true, .idle, false, none), (false, .saving, false, some 0x4000), (false, .restoring, false, some 0x4000)],
     let t : Tile := { saved := x.1, part := some ctxp, seq := { status := x.2.1, lact := true, lcnt := 2 } }
     let s := { tapState [(0, { pt := 7, due := 0 })] 1000 with tiles := [(7, t)] }
     after (.tapGraceExpiry 0 0x4000) s (fun u => (tileOf u 0 7).seq.reqs.save == x.2.2.1 && (tileOf u 0 7).seq.reqs.saveAgain == x.2.2.2 &&
       ((tileOf u 0 7).seq.status == .saving) == (x.1 || x.2.1 == .saving)) = true) ∧
    (∀ j ∈ [[], [(0, ({ pt := 7, due := 0, step := 2 } : TapJob))]], let s := tapState j 1000
     after (.tapGraceExpiry 0 0x4000) s (fun u => u == s) = true ∧ after (.tapTestResult 0 5) s (fun u => u == s) = true) ∧
    (∀ t ∈ [999, 1000], let s := tapState [(0, { pt := 7, due := 0 })] t
     mfind s.hub.taps 0 = some { pt := 7, due := 0 } ∧ (mltNs s < 0 + fld s (hltB + 4) 0 16 * 1000000 ↔ t = 999) ∧ (tileOf s 0 7).seq.status ≠ .saving ∧
     (tileOf s 0 7).seq.status ≠ .restoring ∧ after (.tapGraceExpiry 0 0x4000) s (fun u => (mfind u.hub.taps 0).map (·.step) == some (if t = 999 then 1 else 2)) = true) ∧
    (let j : TapJob := { pt := 7, due := 0, step := 5, cmd := some 1 }
     let o : Op := { opr 0x10 with phase := .running }
     let c : KsCmd := { ksc 0x40 [0, 0, 7, 0] with op := some 0 }
     let s : State := { tapState [(0, j)] 0 with ks := { running := [c] }, ops := [(0, o)] }
     mfind s.hub.taps 0 = some j ∧ s.hub.tapQueue = [] ∧ s.ks.running = [c] ∧ opOf s 0 = some o) := by decide +kernel
/-- The fused signature, whatever it is, makes the tile a spare again. -/
theorem test_tap_pass : ∃ u, exec (.tapTestResult 0 (Config.tapSignature 0 7)) (tapState [(0, { pt := 7, due := 0, step := 5 })] 0) = .next u ∧
    u.hub.passed = [7] ∧ u.hub.taps = [] := by
  refine ⟨_, rfl, ?_, ?_⟩ <;> simp [tapState, upState, mfind, mdel, tileKey, modTile, modHub, nextTap] <;> rfl

theorem witness_fence :
    (let s : State := { upState [] with ks := { owned := true, queue := [ksc 0x41 [0]], mailBusy := true } }
     dieUp s 0 = true ∧ savingOn s 0 = false ∧ KsAtHead s 0x41 (ksc 0x41 [0]) ∧ after .dieFence s (fun u => (dieOf u 0).fenced && flag u hltB 1) = true) ∧
    (∀ x ∈ [(16, 0x22), (2, 0)], let s : State := { ksUp 0x41 [BitVec.ofNat 8 x.1] with dies := [(2, { fenced := true })] }
     KsAtHead s 0x41 (ksc 0x41 [BitVec.ofNat 8 x.1]) ∧ after .dieFence s (fun u => mailCode u == some x.2 && u.dies == s.dies) = true) ∧
    (let s : State := { ksUp 0x41 [0] with tiles := [(7, { part := some ctxp, seq := { status := .saving } })] }
     savingOn s 0 = true ∧ after .dieFence s (fun u => u == s) = true) := by unfold KsAtHead; decide +kernel
theorem witness_fence_decision : ∀ saving ∈ [false, true], let t : SMap Tile := if saving then [(7, { part := some ctxp, seq := { status := .saving } })] else []
    let done (u : State) : Bool := (dieOf u 0).fenced == !saving && (mfind u.hub.fenceDue 0).isSome == saving
    (let s : State := { upState [] with tiles := t, hub := { (upState []).hub with suspects := [(0, [1, 2, 3, 4, 5])] } }
     savingOn s 0 = saving ∧ dieUp s 0 = true ∧ 4 < ((mget [] s.hub.suspects 0).filter (fun t => decide (mltNs s < t + 60000000000))).length ∧ after (.fenceDecision 0 none) s done = true) ∧
    (let s : State := { upState [] with tiles := t, dies := [(0, { powered := true, ltMap := [(3, some (9, 0))] })] }
     ptOf s 0 (3 : Fin 128) ≠ none ∧ freeSpares s 0 = [] ∧ after (.fenceDecision 0 (some 3)) s done = true) ∧
    (let s : State := { upState [] with tiles := t, pwr := { (upState []).pwr with hot := [(0, 0)] }, clp := { mlt := ns 1000000000 } }
     mfind s.pwr.hot 0 = some 0 ∧ mfind s.pwr.hot 16 = none ∧ 0 + 1000000000 ≤ mltNs s ∧ after (.shutdownLimit 0) s done = true) := by decide +kernel
theorem witness_no_fence :
    (let s : State := { upState [] with hub := { (upState []).hub with suspects := [(0, [1, 2, 3, 4])] } }
     ∀ c ∈ [Instr.fenceDecision 0 none, .fenceDecision 0 (some 3), .shutdownLimit 0, .shutdownLimit 16], after c s (fun u => u == s) = true) ∧
    (let s : State := { upState [] with pwr := { (upState []).pwr with hot := [(0, 0), (16, 0)] }, clp := { mlt := ns 1000000000 } }
     ∀ d ∈ [(0 : Fin 17), 16], after (.shutdownLimit d) s (fun u => !u.pwr.good) = true) ∧
    after (.clockDomainStopped 0 3 true) (upState []) (fun u => (dieOf u 0).fenced) = true := by decide +kernel
theorem witness_stopped :
    (∃ dom : Fin 18, domainPorts (upState []) 0 dom ≠ []) ∧
    domainPorts (upState []) 0 3 = [] ∧ after (.clockDomainStopped 0 3 false) (upState []) (fun u => fld u (clpB + 0x30) 15 5 == 3 && fld u (clpB + 0x30) 0 15 == 1) = true ∧
    after (.crossingTimeout 16 9 none) (upState []) (fun u => flag u (clpB + 0x30) 20) = true ∧
    (let s := upState []
     let a : BusAccess := { req := 0, off := ⟨dieB 0, by decide⟩, size := 4, be := 0xF, write := false, val := 0 }
     ∃ p, locate s a.req a.off = .ok p ∧ p.die < 17 ∧ p.dom < 18 ∧ flag s 8 30 = false) := by
  refine ⟨by decide +kernel, by decide +kernel, by decide +kernel, by decide +kernel, ?_⟩
  have h : (match locate (upState []) 0 (dieB 0) with | .ok p => decide (p.die < 17) && decide (p.dom < 18) | .error _ => false) = true := by decide +kernel
  split at h
  · rename_i p hp
    simp only [Bool.and_eq_true, decide_eq_true_eq] at h
    exact ⟨p, hp, h.1, h.2, by decide +kernel⟩
  · cases h
/-- The tiles' clock ends what the tiles run; the link's sends its port to recovery; the hub's own reads as all ones in the host's windows. -/
theorem witness_stopped_units :
    (let s : State := { upState [] with tiles := [(7, { part := some ctxp, seq := { status := .run } })] }
     dieUp s 0 = true ∧ after (.clockDomainStopped 0 1 false) s (fun u => (tileOf u 0 7).ended && (tileOf u 0 7).seq.status == .idle && u.hub.stopped == [(0, 1)]) = true) ∧
    (let s : State := { upState [] with ports := [(0, { phase := .up })] }
     after (.clockDomainStopped 0 9 false) s (fun u => (portOf u 0).phase == .recovery) = true) ∧
    after (.clockDomainStopped 3 11 false) (upState []) (fun u => raw u (abiB 0 + 0x1024) == 0xFFFFFFFF && u.hub.stopped == [(3, 11)]) = true := by decide +kernel
/-- A crossing on which a register access of four bytes waits. -/
theorem test_crossing_access :
    (match locate (upState []) 0 (dieB 0) with
     | .ok p => (if h : p.die < 17 ∧ p.dom < 18 then after (.crossingTimeout ⟨p.die, h.1⟩ ⟨p.dom, h.2⟩ (some { req := 0, off := ⟨dieB 0, by decide⟩, size := 4, be := 0xF, write := false, val := 0 })) (upState [])
         (fun u => flag u 8 30 && u.out == [.abort 0 false]) else false)
     | .error _ => false) = true := by decide +kernel
/-- A fenced die that is powered down, all its tiles good. -/
theorem witness_unfence :
    let s : State := { upState [] with ks := { owned := true, queue := [ksc 0x42 [0]], mailBusy := true }, dies := [(0, { powered := false, fenced := true })] }
    KsAtHead s 0x42 (ksc 0x42 [0]) ∧ dieUp s 0 = false ∧ (dieOf s 0).powered = false ∧ s.hub.fw = none ∧ lTiles s ≤ (goodOnes s 0 []).length ∧
    after (.dieUnfence []) s (fun u => mailCode u == some 0 && ptOf u 0 127 == some (127, 0)) = true ∧
    (goodOnes s 0 ((List.range 9).map (Fin.ofNat 136))).length < lTiles s ∧ after (.dieUnfence ((List.range 9).map (Fin.ofNat 136))) s (fun u => mailCode u == some 0x10 && (dieOf u 0).fenced) = true ∧
    (∀ t ∈ [{ s with dies := [(0, { powered := true, fenced := true })] }, { s with hub := { s.hub with fw := some { typ := 4, activate := true, roll := true, step := 4, image := [1], cmd := 9 } } }],
     after (.dieUnfence []) t (fun u => u == t) = true) ∧
    (match exec (.dieUnfence []) (ksUp 0x42 [0]) with | .next u => !(dieOf u 0).fenced && u.ks.queue == [] | _ => false) = true ∧
    after (.dieUnfence []) (ksUp 0x42 [16]) (fun u => mailCode u == some 0x22) = true := by unfold KsAtHead; decide +kernel

/-- An update whose image is empty is refused. -/
theorem witness_update_refused :
    let b := leBytes 16 1
    let s := ksUp 0x01 b
    KsAtHead s 0x01 (ksc 0x01 b) ∧ fwFault s (ksc 0x01 b) [] = some 0x22 ∧ after (.fwUpdate false true) s (fun u => mailCode u == some 0x22 && u.hub.fw == none) = true := by
  unfold KsAtHead; decide +kernel
theorem witness_update_idle :
    (let s := ksUp 0x01 [1]
     (ksc 0x01 [1]).params.length < ksNeed 0x01 ∧ after (.fwUpdate false true) s (fun u => mailCode u == some 0x22) = true) ∧
    (∀ c ∈ [Instr.fwUpdate false true, .fwUpdate true true, .liveActivation []], after c (ksUp 0x02 []) (fun u => u == ksUp 0x02 []) = true) := by decide +kernel
/-- An update of a type in its last steps. -/
def fwState (typ : Nat) (roll : Bool) (step : Nat) (fenced : List Nat) : State :=
  { upState [] with hub := { (upState []).hub with fw := some { typ := typ, activate := step == 4, roll := roll, step := step, image := [1], cmd := 9 } }, dies := fenced.map fun d => (d, { fenced := true }) }
theorem witness_update_steps :
    (fwState 5 false 3 []).hub.fw = some { typ := 5, activate := false, roll := false, step := 3, image := [1], cmd := 9 } ∧
    (∀ t ∈ [3, 4], after (.liveActivation []) (fwState t false 4 []) (fun u => u.hub.fw == none && flag u (hltB + 0x300) 28 && u.hub.running == []) = true) ∧
    (takesOver (fwState 1 false 4 []) { typ := 1, activate := true, roll := false, step := 4, image := [1], cmd := 9 } = true ∧
     after (.liveActivation []) (fwState 1 false 4 []) (fun u => u.hub.running == [(1, [1])] && u.hub.journal == [(1, 0)]) = true) ∧
    (takesOver { fwState 1 false 4 [] with hub := { (fwState 1 false 4 []).hub with running := [(1, [2])] } } { typ := 1, activate := true, roll := false, step := 4, image := [1], cmd := 9 } = false ∧
     after (.liveActivation []) { fwState 1 false 4 [] with hub := { (fwState 1 false 4 []).hub with running := [(1, [2])] } } (fun u => u.hub.running == [(1, [2])] && u.hub.journal == [(1, 0x22)]) = true) ∧
    after (.fwUpdate true false) (fwState 5 false 3 []) (fun u => u.hub.fw == none && u.hub.journal == [(5, 0x50)] && u.hub.bootFlash == []) = true ∧
    (∀ c ∈ [Instr.fwUpdate true true, .liveActivation []], after c (fwState 5 false (match c with | .fwUpdate _ _ => 4 | _ => 3) []) (fun u => u.hub.fw.isSome) = true) ∧
    after (.liveActivation []) (fwState 4 true 4 [0, 1]) (fun u => (dieOf u 2).fenced && u.hub.fw.map (fun j => (j.die, j.rolling)) == some (2, true)) = true ∧
    after (.liveActivation []) (fwState 4 true 4 (List.range 16)) (fun u => u.hub.fw == none && u.hub.running == [(4, [1])]) = true := by decide +kernel
/-- A roll whose die is still powered, whose die returns, and whose die has too few tiles. -/
theorem witness_roll : ∀ x ∈ [(true, []), (false, []), (false, List.range 9)],
    let f : List PT := x.2.map (Fin.ofNat 136)
    let s : State := { upState [] with hub := { (upState []).hub with fw := some { typ := 4, activate := true, roll := true, step := 4, image := [1], cmd := 9, die := 2, rolling := true } }, dies := [(2, { fenced := true, powered := x.1 })] }
    (dieOf s 2).powered = x.1 ∧ (lTiles s ≤ (goodOnes s 2 f).length ↔ x.2 = []) ∧
    after (.liveActivation f) s (fun u => if x.1 then u == s else u.hub.fw.map (fun j => (j.die, j.rolling)) == some (3, false) && (dieOf u 2).fenced == decide (x.2 ≠ [])) = true := by decide +kernel
theorem witness_calibration : ∀ t ∈ [3599, 3600],
    let s : State := { upState [] with hub := { (upState []).hub with calLast := some 0 }, clp := { mlt := ns (t * 1000000000) } }
    s.hub.calLast = some 0 ∧ (mltNs s < 0 + 3600000000000 ↔ t = 3599) ∧ [0x55#8].length ≤ 65472 ∧ calUsed s = none := by decide +kernel
theorem witness_calibration_torn :
    (let s := upState []
     s.hub.calLast = none ∧ after (.calibrationWrite [0x55] false) s (fun u => u.hub.calLast == some 0 && flashRead u 60 4 == [0xFF, 0xFF, 0xFF, 0xFF] && flashRead u 64 1 == [0x55]) = true) ∧
    (let s : State := { upState [] with hub := { (upState []).hub with calLast := some 0 } }
     ∀ w ∈ [false, true], after (.calibrationWrite [0x55] w) s (fun u => u == s) = true) := by decide +kernel
/-- A ring of two slots with its HEAD at 0 and room for a record, and full. -/
theorem witness_delivery : ∀ tail ∈ [0, 1],
    let r : FaultRec := ⟨1, 2, 0, 7, 0, 0, 1, false, false⟩
    let s : State := { upState [(hltB + 0x400, 0x8000), (hltB + 0x408, 0x81000000), (hltB + 0x410, tail)] with hub := { (upState []).hub with faults := [r] } }
    s.hub.faults.find? (fun r => !r.delivered) = some r ∧ flag s (hltB + 0x408) 31 = true ∧ ((fld s (hltB + 0x40C) 0 12 + 1) % 2 = fld s (hltB + 0x410) 0 12 % 2 ↔ tail = 1) ∧
    after .faultRecordDelivery s (fun u => fld u (hltB + 0x40C) 0 12 == 1 - tail && fld u (hltB + 0x408) 0 16 == tail && u.hub.faults.map (·.delivered) == [decide (tail = 0)]) = true := by
  decide +kernel
theorem witness_delivery_idle : ∀ x ∈ [(true, 0x81000000), (false, 0x01000000)],
    let s : State := { upState [(hltB + 0x408, x.2)] with hub := { (upState []).hub with faults := [⟨1, 2, 0, 7, 0, 0, 1, x.1, false⟩] } }
    after .faultRecordDelivery s (fun u => u == s) = true := by decide +kernel

/-! ## Bring-up and power -/

/-- The module in a stage with capabilities given. -/
def stState (stage caps : Nat) : State := { upState [(cfgB, stage * 2 ^ 30), (cfgB + 4, caps), (cfgB + 0x10, 0)] with hub := { entered := true, started := true } }
theorem witness_power_good :
    (let s : State := { State.reset with pwr := { State.reset.pwr with enabled := true } }
     s.pwr.enabled = true ∧ s.hub.started = false ∧ after (.powerGood true 2 true) s (fun u => u.pwr.split8 && u.pwr.addr == 2 && u.hub.started && flag u cfgB 28) = true) ∧
    (let s : State := { State.reset with hub := { started := true } }
     s.hub.started = true ∧ s.hub.entered = false ∧ ((loadFirst s false).1 = false) ∧
     after (.recoveryStageA false false) s (fun u => u.hub.entered && u.hub.romServes) = true ∧
     after (.configurationRequest 0) s (fun u => u.out == [.config 0 true]) = true) := by decide +kernel
/-- Events that find the module in another stage. -/
theorem witness_other_stage :
    (let s := upState []
     ∀ c ∈ [Instr.powerGood true 2 true, .stageAEntry false, .recoveryStageA true false, .configurationRequest 1, .internalDone [] [] [], .xdoneTimeout, .stageBEntry, .tilesFull [], .clkFull, .fmtWide, .hbmFull, .vidon, .stageCEntry],
       after c s (fun u => u == s) = true) ∧
    (let s := stState 2 0xF7
     s.hub.verHold = false ∧ ∀ c ∈ [Instr.tilesFull [], .clkFull, .hbmFull, .stageCEntry], after c s (fun u => u == s) = true) ∧
    (let s : State := { stState 2 0 with ports := [(0, { phase := .training })] }
     after .vidon s (fun u => u == s) = true) := by decide +kernel
theorem witness_internal_done : stageOf (stState 1 1) = 1 ∧ flag (stState 1 1) (cfgB + 0xC) 29 = false ∧ (stState 1 1).hub.verHold = false ∧ (0 : Die) ∉ ([] : List Die) ∧
    (loadLater (stState 1 1) 3).1 = false ∧ after (.internalDone [] [] []) (stState 1 1) (fun u => !flag u (cfgB + 0xC) 29 && u.dies.all (fun e => !e.2.fenced)) = true ∧
    (let s : State := { stState 1 1 with hub := { entered := true, started := true, verHold := true } }
     after (.internalDone [] [] []) s (fun u => u == s) = true) := by decide +kernel
theorem witness_stage_b :
    (∀ pins ∈ [0x60000000, 0x20000000], let s := setRaw { stState 1 1 with hub := { entered := true, started := true, idoneAt := some 0, xdoneTo := 1, cycles := 80000000 } } (cfgB + 0xC) (BitVec.ofNat 32 pins)
     awaitsB s = true ∧ flag s (cfgB + 0xC) 30 = decide (pins = 0x60000000) ∧ s.hub.idoneAt = some 0 ∧ 0 + s.hub.xdoneTo * 100000 ≤ sincePg s ∧
     after .externalDoneHigh s (fun u => (stageOf u == 2) == decide (pins = 0x60000000)) = true ∧ after .xdoneTimeout s (fun u => (stageOf u == 2 && flag u cfgB 27) == decide (pins = 0x60000000)) = true ∧
     after .stageBEntry s (fun u => (stageOf u == 2) == decide (pins = 0x20000000)) = true) := by decide +kernel
/-- The pin of external DONE while the module does not await it, and while it drives the pin itself. -/
theorem witness_done_pin :
    after .externalDoneHigh (stState 2 7) (fun u => flag u (cfgB + 0xC) 31 && stageOf u == 2) = true ∧
    (let s : State := { stState 1 1 with hub := { entered := true, started := true, xdoneDriven := true } }
     after .externalDoneHigh s (fun u => u == s) = true) := by decide +kernel
theorem witness_stage_c :
    (let s := stState 2 7
     stageOf s = 2 ∧ cap s 4 = false ∧ cap s 5 = false ∧ s.pwr.clamp = none ∧ fld s pwrB 22 6 = 0 ∧ s.hub.verHold = false ∧ (∀ d < 16, (portOf s d).phase ≠ .training) ∧
     after .clkFull s (fun u => divN u == divN s && nMax u == 48 && u.pwr.raising && !cap u 5) = true ∧ after .fmtWide s (fun u => cap u 3) = true ∧ after .vidon s (fun u => cap u 7) = true) ∧
    (let s : State := { stState 2 7 with dies := (List.range 16).map fun d => (d, { powered := true, hbm := { trained := 32, fast := (List.range 32).map fun c => (c, true) } }) }
     (∀ d < 16, ∀ c < 32, mget false (dieOf s d).hbm.fast c = true) ∧ after .hbmFull s (fun u => cap u 6) = true) ∧
    ((∀ i < 8, 3 ≤ i → cap (stState 2 0xFF) i = true) ∧ after .stageCEntry (stState 2 0xFF) (fun u => stageOf u == 3) = true) := by decide +kernel

theorem test_power_loss : ∀ c ∈ [Instr.powerGoodWithdrawn, .enloopOpen, .thermalTrip],
    after c { upState [] with tcs := [(0, { phase := .active })], ks := { owned := true, slots := [(1, { state := 1 })], debug := true } }
      (fun u => !u.pwr.good && u.regs.length ≤ 1 && u.tcs == [] && u.ks.owned && (slotOf u.ks 1).state == 1 && !flag u pwrB 31) = true := by decide +kernel
/-- The module without supply. -/
def offState : State := { State.reset with pwr := {} }
theorem test_supply :
    (after (.enloopClose 4400) offState (fun u => u.pwr.enabled) && after (.enloopClose 5701) offState (fun u => !u.pwr.enabled && u.pwr.loop) &&
     after (.supplyDroop 3) State.reset (fun u => flag u (hltB + 0x220C) 5) && after (.cprsAssert 3) State.reset (fun u => u.pwr.cprs == 8)) = true := by decide +kernel
/-- A sample with every junction and stack at `t` °C. -/
def sample (watts t : Nat) : PwrSample := ⟨5000, 100, watts, 40, 50, 3000, List.replicate 17 t, List.replicate 16 t⟩
/-- N at 20, NMAX 48, a limit of 4,000 W. -/
def govState (n : Nat) (quiet : Nat) : State := { upState [(pwrB, 0x80000000 + n)] with pwr := { State.reset.pwr with quiet := quiet } }
theorem witness_governor :
    (sample 3000 94).tj.length = 17 ∧ (sample 3000 94).hbm.length = 16 ∧ powerLimit (govState 20 950) = 4000 ∧
    after (.governorInterval (sample 3900 94)) (govState 20 950) (fun u => divN u == 21 && u.pwr.quiet == 0) = true ∧
    after (.governorInterval (sample 3901 94)) (govState 20 950) (fun u => divN u == 20) = true ∧
    after (.governorInterval (sample 3000 94)) (govState 20 949) (fun u => divN u == 20 && u.pwr.quiet == 999) = true ∧
    after (.governorInterval (sample 3000 95)) (govState 20 950) (fun u => divN u == 19 && flag u pwrB 23 && flag u pwrB 22) = true ∧
    after (.governorInterval (sample 4001 94)) (govState 8 950) (fun u => divN u == 8 && flag u pwrB 26) = true := by decide +kernel
/-- The ceilings of the reasons, N above each by more than one; at NMIN; and the end of the raise of CK_TILE. -/
theorem witness_governor_ceilings :
    (∀ x ∈ [(⟨4700, 0, 0, 0, 25, 9000, List.replicate 17 0, List.replicate 16 0⟩, 36), (⟨5000, 0, 0, 85, 25, 9000, List.replicate 17 0, List.replicate 16 0⟩, 36), ((⟨5000, 0, 0, 25, 25, 1250, List.replicate 17 0, List.replicate 16 0⟩ : PwrSample), 24)],
     after (.governorInterval x.1) (govState 48 950) (fun u => divN u == 47) = true) ∧
    after (.governorInterval (sample 3000 94)) (govState 48 950) (fun u => divN u == 48) = true ∧
    after (.governorInterval (sample 3000 94)) { govState 30 950 with pwr := { State.reset.pwr with quiet := 950, clamp := some 0 } } (fun u => divN u == 29) = true ∧
    (let s : State := { setRaw (govState 47 950) (cfgB + 4) 0xDF with pwr := { State.reset.pwr with quiet := 950, raising := true } }
     s.pwr.raising = true ∧ cap s 5 = false ∧ after (.governorInterval (sample 3000 94)) s (fun u => divN u == 48 && cap u 5 && !u.pwr.raising) = true) ∧
    (match exec (.governorInterval ⟨5000, 0, 0, 0, 25, 9000, [], List.replicate 16 0⟩) State.reset with | .fault f => f == .illFormed | _ => false) = true ∧
    after .clampRelease State.reset (fun u => u == State.reset) = true ∧ after .pwrredRelease (govState 20 0) (fun u => !u.pwr.pwrred && divN u == 20) = true := by decide +kernel
theorem witness_clamp :
    after (.fastClamp 0) (govState 30 0) (fun u => divN u == 24 && flag u pwrB 29) = true ∧ after .pwrredAssert (govState 20 0) (fun u => divN u == 20 && u.pwr.pwrred) = true ∧
    (∀ t ∈ [999999, 1000000], ∀ red ∈ [false, true],
     let s : State := { govState 20 0 with pwr := { State.reset.pwr with clamp := some 0, clampCause := 2, pwrred := red }, clp := { mlt := ns t } }
     s.pwr.clamp = some 0 ∧ s.pwr.clampCause.testBit 1 = true ∧ after .clampRelease s (fun u => (u.pwr.clamp == none) == decide (t = 1000000 ∧ red = false)) = true) := by decide +kernel

/-! ## The module as a whole -/

/-- Two commands wait; the first runs and the second stays. -/
theorem test_step_order : (match step { State.reset with pending := [.pwrredAssert, .pwrredRelease] } with | .next u => u.pwr.pwrred && u.pending == [.pwrredRelease] | _ => false) = true := by decide +kernel
theorem test_idle_tick : (match step State.reset with | .next u => u.clp.mlt == 5 * 2 ^ 38 && u.hub.cycles == 1 | _ => false) = true := by decide +kernel
/-- What the invariants ask of a state holds at reset. -/
theorem witness_invariants : Memory.wf State.reset = true ∧ KeystoneLegal State.reset.ks ∧ ClockLegal State.reset.clp := by
  refine ⟨by decide +kernel, ⟨by decide, fun _ => by simp [State.reset, State.resetAs, mget], fun _ => by simp [State.reset, State.resetAs, mget], by decide +kernel, by decide +kernel⟩, by unfold ClockLegal; decide +kernel⟩
/-- The locked fields of a mask. -/
def lockedFields (m : Option RegMask) : Nat := (m.map (·.rwl)).getD 0
theorem some_of (m : RegMask) : lockedFields (some m) = m.rwl := rfl
theorem none_of : lockedFields none = 0 := rfl
theorem unlocked_of (o : Nat) : lockedFields (hubMask o) = 0 ∧ lockedFields (ksMask o) = 0 ∧ lockedFields (cfgMask o) = 0 ∧ lockedFields (tcMask o) = 0 ∧
    lockedFields (vlMask o) = 0 ∧ lockedFields (dieMaskB o) = 0 ∧ lockedFields (mtMask o) = 0 ∧ lockedFields (seqMask o) = 0 ∧ lockedFields (ownMask o) = 0 := by
  simp only [hubMask, ksMask, cfgMask, tcMask, vlMask, dieMaskB, mtMask, seqMask, ownMask, apply_ite lockedFields, some_of, none_of, ite_self, and_self]
theorem locked_of (o : Nat) : (lockedFields (clpMask o) ≠ 0 → o = 4) ∧ (lockedFields (hltMask o) ≠ 0 → o = 4 ∨ o = 0x2000) ∧ (lockedFields (pwrMask o) ≠ 0 → o = 4) ∧
    (lockedFields (dieMaskA o) ≠ 0 → o = 0x20004) := by
  simp only [clpMask, hltMask, pwrMask, dieMaskA, apply_ite lockedFields, some_of, none_of, ite_self]
  refine ⟨?_, ?_, ?_, ?_⟩ <;> (repeat' split) <;> omega
/-- The registers with a LOCK bit: CLP_CTRL, HLT_CTRL, HLT_RPLY, PWR_CTRL and the HBM_CTRL of each die. -/
theorem lockable_of {k : Nat} (h : Lockable k) : k ∈ [clpB + 4, hltB + 4, hltB + 0x2000, pwrB + 4] ++ (List.range 16).map (fun d => 0x2020004 + 0x200000 * d) := by
  have h : lockedFields (fieldsOf k) ≠ 0 := by obtain ⟨m, hm, hr⟩ := h; rw [hm]; exact hr
  have a := locked_of (k % 0x10000)
  have b := (locked_of (k % 0x200000)).2.2.2
  simp only [fieldsOf, dieMask, apply_ite lockedFields, unlocked_of, none_of, ite_self] at h
  simp only [List.mem_append, List.mem_cons, List.mem_map, List.mem_range, List.not_mem_nil, or_false, clpB, hltB, pwrB]
  by_cases c : k < 0x60000
  · left; simp only [c] at h; (repeat' split at h) <;> omega
  · right; exact ⟨k / 0x200000 - 16, by (repeat' split at h) <;> omega, by (repeat' split at h) <;> omega⟩
theorem witness_locks_legal : LocksLegal State.reset := by
  have h : ∀ k ∈ [clpB + 4, hltB + 4, hltB + 0x2000, pwrB + 4] ++ (List.range 16).map (fun d => 0x2020004 + 0x200000 * d), clampReg k (raw State.reset k) (raw State.reset k) = raw State.reset k := by decide +kernel
  exact fun k hk => h k (lockable_of hk)
theorem witness_lock :
    Lockable (hltB + 0x2000) ∧ Reaches (upState []) 0 (hltB + 0x2000) (hltB + 0x2000) ∧
    after (.registerWrite 0 ⟨hltB + 0x2000, by decide⟩ 4 0xF 0x80000001) (upState []) (fun u => raw u (hltB + 0x2000) == 0x80000001 &&
      after (.registerWrite 0 ⟨hltB + 0x2000, by decide⟩ 4 0xF 0x2) u (fun v => raw v (hltB + 0x2000) == 0x80000001)) = true :=
  ⟨by unfold Lockable; decide +kernel, reaches_of (by decide +kernel), by decide +kernel⟩
/-- A line of partition 0 on CD0 inside its bank set, one in the Doorway and one past the end of it. -/
theorem witness_lines : let s : State := { upState [] with parts := [(0, prt)] }
    partOf s 0 = some prt ∧ dieUp s 0 = true ∧ isDoorway prt 5 = false ∧ place prt 0 5 ≠ .refused ∧ place prt 0 (2 ^ 24) = .refused := by decide +kernel
/-- 13 R307: line 1,024 of a set of two banks lies in its second bank, row 0. -/
theorem test_bank_map : hbmPlace 0x22 1024 = some (1, 5, 0, 0) ∧ hbmPlace 0x22 (2 ^ 25 - 1) = some (0, 5, 16383, 15) ∧ hbmPlace 0x22 (2 ^ 25) = none := by decide +kernel
end Sys2Proof.Tests
end

namespace Sys2Proof.Machine

/-! ## The reset state -/

@[simp] theorem raw_reset (k : Nat) : raw State.reset k = regReset k := rfl

/-- Of the registers of a part, the reset value of HUB_REV alone says which part it is (17 R438). -/
theorem raw_resetAs (b m : Bool) (k : Nat) : raw (State.resetAs b m) k = if k = 4 then revWord b m else regReset k := by
  by_cases h : k = 4
  · subst h; cases b <;> cases m <;> rfl
  · cases b <;> cases m <;> simp [raw, State.resetAs, mget, h]

/-- The value an unlisted register of the hub reads. -/
theorem regReset_hub {k : Nat} (h : k < 0x100000) : regReset k = BitVec.ofNat 32 (resetHub k) := by simp [regReset, h]
/-- The value an unlisted register of a context's table entry reads. -/
theorem regReset_tc {k : Nat} (h : 0x100000 ≤ k ∧ k < 0x140000) : regReset k = BitVec.ofNat 32 (resetTc (k % 64)) := by
  simp [regReset, show ¬ k < 0x100000 by omega, show k < 0x2000000 by omega]
/-- The value an unlisted register of a die's window reads. -/
theorem regReset_die {k : Nat} (h : 0x2000000 ≤ k ∧ k < 0x4000000) : regReset k = BitVec.ofNat 32 (resetDie (k % 0x200000)) := by
  simp [regReset, show ¬ k < 0x100000 by omega, show ¬ k < 0x2000000 by omega, h.2]

/-- Every reset value lies within the limits of its register's fields. -/
theorem clampReg_regReset (k : Nat) : clampReg k (regReset k) (regReset k) = regReset k := by
  have hub : ∀ j ∈ [clpB + 4, clpB + 8, hltB + 4, hltB + 0x408, pwrB + 4], clampReg j (regReset j) (regReset j) = regReset j := by decide
  by_cases hk : k ∈ [clpB + 4, clpB + 8, hltB + 4, hltB + 0x408, pwrB + 4]
  · exact hub k hk
  simp only [List.mem_cons, List.not_mem_nil, or_false, not_or] at hk
  obtain ⟨h1, h2, h3, h4, h5⟩ := hk
  unfold clampReg
  rw [if_neg h1, if_neg h2, if_neg h3, if_neg h4, if_neg h5]
  by_cases ht : 0x100000 ≤ k ∧ k < 0x140000
  · rw [if_pos ht, regReset_tc ht]
    split
    iterate 4 next ho => rw [ho]; decide
    rfl
  rw [if_neg ht]
  by_cases hd : 0x2000000 ≤ k ∧ k < 0x4000000
  · rw [if_pos hd, regReset_die hd]
    split
    iterate 3 next ho => rw [ho]; decide
    rfl
  rw [if_neg hd]

theorem reset_locksLegal : LocksLegal State.reset := fun k _ => clampReg_regReset k

theorem reset_keystoneLegal : KeystoneLegal State.reset.ks :=
  ⟨by decide, fun _ => Nat.zero_le 32, fun _ => ⟨Nat.zero_le 2, Nat.two_pow_pos 7, Nat.two_pow_pos 64⟩, Nat.zero_le 1, fun h => absurd h (by decide)⟩

theorem reset_clockLegal : ClockLegal State.reset.clp := ⟨by decide, by decide, .inl rfl⟩

/-- No capability is set at reset. -/
theorem cap_reset : ∀ i, i < 8 → cap State.reset i = false := by decide

/-- Settles O52: registers hold the values of the rules, and the tables, the fuses and the clocks start empty, legal and at 0. -/
theorem resetState : Obligations.ResetState := by
  unfold Obligations.ResetState
  refine ⟨rfl, by decide, reset_keystoneLegal, reset_clockLegal, reset_locksLegal, by decide, by decide, by decide, by decide, by decide, by decide,
    by decide, by decide, by decide, by decide, cap_reset, fun _ => rfl, fun _ => rfl, fun _ => rfl, fun _ => rfl, ?_,
    by decide, by decide, by decide, by decide⟩
  intro b m
  exact ⟨by simp [raw_resetAs], fun k hk => by simp [raw_resetAs, hk]⟩

end Sys2Proof.Machine

namespace Sys2Proof.Machine

/-! ## An access that reaches its register (17 R425, R426) -/

section
variable {s : State} {req : Fin 3} {off k : Nat}

/-- A place that is reached is located, and no half of an access to it is turned away. -/
theorem Reaches.locate_ok (h : Reaches s req off k) : ∃ p, locate s req off = .ok p ∧ p.key = k ∧ waits s none p = false := by
  obtain ⟨-, -, -, hp⟩ := h
  exact hp

theorem half_write (h : Reaches s req off k) (hk : k ≠ ownB req + 4) (v : W32) :
    half s none req off true v = { st := writeReg s k v } := by
  obtain ⟨p, hl, rfl, hw⟩ := h.locate_ok
  simp [half, hl, hw, hk, touch]

theorem half_read (h : Reaches s req off k) (hk : k ≠ ownB req + 4) (v : W32) :
    half s none req off false v = { st := clearRead s k, word := viewOf s k } := by
  obtain ⟨p, hl, rfl, hw⟩ := h.locate_ok
  simp [half, hl, hw, hk, touch]

theorem Reaches.aligned (h : Reaches s req off k) : off % 4 = 0 := h.2.1

/-- A requester that reaches a register exists: link 1 only in 2 × x8 mode. -/
theorem Reaches.links (h : Reaches s req off k) (h1 : req.val = 1) : twoLinks s = true := h.1 (Fin.ext h1)

/-- An access of 4 bytes to a register that is reached carries out its one half. -/
theorem access_four {off : Fin 67108864} (h : Reaches s req off k) (w : Bool) (v : W32) :
    access s none { req := req, off := off, size := 4, be := 0xF, write := w, val := v.zeroExtend 64 } =
      carryOut s none req w [] [(off, v)] := by
  obtain ⟨p, hl, -⟩ := h.locate_ok
  have hv : (v.setWidth 64).setWidth 32 = v := BitVec.setWidth_setWidth_of_le v (by decide)
  simp [access, h.aligned, hl, hv]
  intro h1 h2
  simp [h.links h1] at h2

/-- An access of 8 bytes whose two registers are reached carries out both halves, the lower address first. -/
theorem access_eight {off : Fin 67108864} {j : Nat} (h : Reaches s req off k) (h8 : off.val % 8 = 0) (hj : Reaches s req (off.val + 4) j) (w : Bool)
    (lo hi : W32) :
    access s none { req := req, off := off, size := 8, be := 0xFF, write := w, val := hi ++ lo } =
      carryOut s none req w [] [(off, lo), (off.val + 4, hi)] := by
  obtain ⟨p, hl, -⟩ := h.locate_ok
  obtain ⟨q, hq, -⟩ := hj.locate_ok
  have hlo : (hi ++ lo : W64).setWidth 32 = lo := BitVec.setWidth_append_eq_right
  have hhi : ((hi ++ lo : W64) >>> 32).setWidth 32 = hi := BitVec.setWidth_ushiftRight_eq_extractLsb.trans BitVec.extractLsb'_append_eq_left
  simp [access, h8, hl, hq, hlo, hhi]
  intro h1 h2
  simp [h.links h1] at h2

theorem registerWrite_four {off : Fin 67108864} (h : Reaches s req off k) (hk : k ≠ ownB req + 4) (v : W32) :
    exec (.registerWrite req off 4 0xF (v.zeroExtend 64)) s = .next (writeReg s k v) := by
  simp only [exec_registerWrite, execRegisterWrite, access_four h, carryOut, half_write h hk, if_true]

theorem registerRead_four {off : Fin 67108864} (h : Reaches s req off k) (hk : k ≠ ownB req + 4) :
    exec (.registerRead req off 4 0xF) s = .next (send (clearRead s k) (.readData req (leBytes 4 (viewOf s k).toNat))) := by
  have ha := access_four h false 0
  simp only [exec_registerRead, execRegisterRead]
  rw [show (0 : W64) = (0 : W32).zeroExtend 64 from rfl, ha]
  simp [carryOut, half_read h hk]

theorem registerWrite_eight {off : Fin 67108864} {j : Nat} (h : Reaches s req off k) (hk : k ≠ ownB req + 4) (h8 : off.val % 8 = 0)
    (hj : Reaches s req (off.val + 4) j) (hjk : j ≠ ownB req + 4) {v : W32} (hj' : Reaches (writeReg s k v) req (off.val + 4) j) (hi : W32) :
    exec (.registerWrite req off 8 0xFF (hi ++ v)) s = .next (writeReg (writeReg s k v) j hi) := by
  simp only [exec_registerWrite, execRegisterWrite, access_eight h h8 hj, carryOut, half_write h hk, half_write hj' hjk, if_true]

theorem registerRead_eight {off : Fin 67108864} {j : Nat} (h : Reaches s req off k) (hk : k ≠ ownB req + 4) (h8 : off.val % 8 = 0)
    (hj : Reaches s req (off.val + 4) j) (hjk : j ≠ ownB req + 4) (hj' : Reaches (clearRead s k) req (off.val + 4) j) :
    exec (.registerRead req off 8 0xFF) s = .next (send (clearRead (clearRead s k) j)
      (.readData req (leBytes 4 (viewOf s k).toNat ++ leBytes 4 (viewOf (clearRead s k) j).toNat))) := by
  have ha := access_eight h h8 hj false 0 0
  simp only [exec_registerRead, execRegisterRead]
  rw [show (0 : W64) = (0 : W32) ++ (0 : W32) from rfl, ha]
  simp [carryOut, half_read h hk, half_read hj' hjk]

end

/-! ## A write and a read of a register of CFG_, HLT_ or PWR_ (00 R14, 17 R430) -/

/-- Whether the fields of a register are of one type each, and bit 31 is LOCK's where the register has one. -/
def fieldsApart (m : RegMask) : Bool :=
  !m.wm && m.rw &&& m.w1c == 0 && m.rwl &&& m.w1c == 0 && (m.rwl == 0 || decide (m.rwl < 2 ^ 31) && decide (m.w1c < 2 ^ 31))

theorem all_ite_of_all {α : Type} {p : α → Bool} {c : Prop} [Decidable c] {a b : Option α} (ha : a.all p = true) (hb : b.all p = true) :
    (if c then a else b).all p = true := by
  split
  · exact ha
  · exact hb

theorem cfgMask_apart (o : Nat) : (cfgMask o).all fieldsApart = true := by
  unfold cfgMask
  iterate 3 refine all_ite_of_all rfl ?_
  rfl

theorem hltMask_apart (o : Nat) : (hltMask o).all fieldsApart = true := by
  unfold hltMask
  iterate 12 refine all_ite_of_all rfl ?_
  rfl

theorem pwrMask_apart (o : Nat) : (pwrMask o).all fieldsApart = true := by
  unfold pwrMask
  iterate 5 refine all_ite_of_all rfl ?_
  rfl

theorem fieldsOf_apart {k : Nat} {m : RegMask} (h1 : 0x30000 ≤ k) (h2 : k < 0x60000) (h : fieldsOf k = some m) : fieldsApart m = true := by
  have hm : (fieldsOf k).all fieldsApart = true := by
    rw [fieldsOf, if_neg (by omega), if_neg (by omega), if_neg (by omega)]
    refine all_ite_of_all (cfgMask_apart _) (all_ite_of_all (hltMask_apart _) ?_)
    rw [if_pos h2]
    exact pwrMask_apart _
  rw [h] at hm
  exact hm

/-- Three of these registers have fields with limits; a write to another is not limited. -/
theorem clampReg_free {k : Nat} (h1 : 0x30000 ≤ k) (h2 : k < 0x60000) (h : k ∉ [hltB + 4, hltB + 0x408, pwrB + 4]) (o w : W32) :
    clampReg k o w = w := by
  simp only [List.mem_cons, List.not_mem_nil, or_false, not_or] at h
  have hc : k ≠ clpB + 4 ∧ k ≠ clpB + 8 := by unfold clpB; omega
  simp [clampReg, h, hc, show ¬ 0x100000 ≤ k by omega, show ¬ 0x2000000 ≤ k by omega]

theorem testBit_of_and_eq_zero {a b i : Nat} (h : a &&& b = 0) (ha : a.testBit i = true) : b.testBit i = false := by
  have hab : (a &&& b).testBit i = false := by rw [h, Nat.zero_testBit]
  simpa [ha] using hab

/-- The bits a write may change while LOCK is as it is: those of RW fields, and of locked fields unless LOCK is set. -/
theorem keep_bit (m : RegMask) (o : W32) {i : Nat} (hi : i < 32) :
    (if (m.rwl != 0 && o.msb) = true then BitVec.ofNat 32 m.rw else BitVec.ofNat 32 m.rw ||| BitVec.ofNat 32 m.rwl).getLsbD i =
      (m.rw.testBit i || (m.rwl.testBit i && !o.msb)) := by
  by_cases h0 : m.rwl = 0
  · simp [h0, BitVec.getLsbD_ofNat, hi, -BitVec.getLsbD_eq_getElem]
  · cases ho : o.msb <;> simp [h0, BitVec.getLsbD_ofNat, hi, -BitVec.getLsbD_eq_getElem]

/-- LOCK is set by a 1 written to it, and by nothing else (00 R15). -/
theorem lock_bit (m : RegMask) (w v : W32) {i : Nat} (hi : i < 32) :
    (if m.rwl = 0 then w else w ||| (v &&& BitVec.ofNat 32 (2 ^ 31))).getLsbD i = (w.getLsbD i || (decide (i = 31 ∧ m.rwl ≠ 0) && v.getLsbD i)) := by
  have h31 : (BitVec.ofNat 32 (2 ^ 31)).getLsbD i = decide (i = 31) := by
    rw [BitVec.getLsbD_ofNat, Nat.testBit_two_pow]
    simp [hi, eq_comm]
  by_cases h0 : m.rwl = 0
  · simp [h0]
  · simp only [h0, if_false, BitVec.getLsbD_or, BitVec.getLsbD_and, h31, ne_eq, not_false_eq_true, and_true, Bool.and_comm]

/-- The bits a write leaves in a register whose fields have no limits: each by its own type (00 R14). -/
theorem newWord_bit {m : RegMask} {k : Nat} (hm : fieldsApart m = true) (hk : ∀ o w, clampReg k o w = w) (o v : W32) {i : Nat} (hi : i < 32) :
    (newWord m k o v).getLsbD i =
      if m.rw.testBit i then v.getLsbD i
      else if m.rwl.testBit i then (if o.msb then o.getLsbD i else v.getLsbD i)
      else if m.w1c.testBit i then o.getLsbD i && !v.getLsbD i
      else if i = 31 ∧ m.rwl ≠ 0 then o.getLsbD i || v.getLsbD i
      else o.getLsbD i := by
  simp only [fieldsApart, Bool.and_eq_true, Bool.not_eq_true', beq_iff_eq, Bool.or_eq_true, decide_eq_true_eq] at hm
  obtain ⟨⟨⟨hwm, hrw⟩, hrwl⟩, hlock⟩ := hm
  have hrw' := fun h => testBit_of_and_eq_zero (i := i) hrw h
  have hrwl' := fun h => testBit_of_and_eq_zero (i := i) hrwl h
  have hlock' : i = 31 ∧ m.rwl ≠ 0 → m.rwl.testBit i = false ∧ m.w1c.testBit i = false := by
    rintro ⟨rfl, h0⟩
    obtain ⟨hl, hw⟩ := hlock.resolve_left h0
    exact ⟨Nat.testBit_lt_two_pow hl, Nat.testBit_lt_two_pow hw⟩
  simp only [newWord, hwm, hk, Bool.false_eq_true, if_false, lock_bit m _ v hi, BitVec.getLsbD_and, BitVec.getLsbD_or, BitVec.getLsbD_not, keep_bit m o hi,
    BitVec.getLsbD_ofNat, hi, decide_true, Bool.true_and]
  by_cases h1 : m.rw.testBit i = true
  · rw [hrw' h1, if_pos h1, h1]; simp
  by_cases h2 : m.rwl.testBit i = true
  · have h3 : ¬ (i = 31 ∧ m.rwl ≠ 0) := fun h => Bool.eq_false_iff.mp (hlock' h).1 h2
    rw [hrwl' h2, if_neg h1, if_pos h2, decide_eq_false h3, h2]
    cases o.msb <;> simp [h1]
  · rw [if_neg h1, if_neg h2]
    by_cases h3 : i = 31 ∧ m.rwl ≠ 0
    · obtain ⟨h4, h5⟩ := hlock' h3
      rw [h4, h5, decide_eq_true h3, if_pos h3]
      cases hv : v.getLsbD i <;> simp [h1]
    · cases h4 : m.w1c.testBit i <;> simp [h1, h2, h3]

/-! ### The limits of three registers (17 R431) -/

/-- A field held within limits keeps them. -/
theorem bitsOf_fit (w : W32) {lo len a b : Nat} (h : lo + len ≤ 32) (hb : b < 2 ^ len) (hab : a ≤ b) (x : Nat) :
    a ≤ bitsOf (putBits w lo len (min b (max a x))).toNat lo len ∧ bitsOf (putBits w lo len (min b (max a x))).toNat lo len ≤ b := by
  rw [bitsOf_putBits w _ h, Nat.mod_eq_of_lt (by omega)]
  omega

theorem newWord_limited {m : RegMask} {k : Nat} (hm : fieldsApart m = true) (o v : W32) : ∃ w, newWord m k o v = clampReg k o w := by
  simp only [fieldsApart, Bool.and_eq_true, Bool.not_eq_true'] at hm
  obtain ⟨⟨⟨hwm, -⟩, -⟩, -⟩ := hm
  exact ⟨_, by simp only [newWord, hwm, Bool.false_eq_true, if_false]; rfl⟩

/-- HLT_TAP_CTRL.PERIOD is at least 1 hour (19 R478). -/
theorem clampReg_tapCtrl (o w : W32) : 1 ≤ bitsOf (clampReg (hltB + 4) o w).toNat 16 8 :=
  (bitsOf_fit w (a := 1) (b := 255) (by decide) (by decide) (by decide) _).1

/-- HLT_FLOG_CTRL.SIZE is 4 to 12 (19 R478). -/
theorem clampReg_flogCtrl (o w : W32) :
    4 ≤ bitsOf (clampReg (hltB + 0x408) o w).toNat 24 4 ∧ bitsOf (clampReg (hltB + 0x408) o w).toNat 24 4 ≤ 12 :=
  bitsOf_fit w (by decide) (by decide) (by decide) _

/-- NMIN, RED and LIMIT of PWR_CTRL (20 R494). -/
theorem clampReg_pwrCtrl (o w : W32) :
    let x := (clampReg (pwrB + 4) o w).toNat
    8 ≤ bitsOf x 0 6 ∧ bitsOf x 0 6 ≤ 48 ∧ 60 ≤ bitsOf x 8 8 ∧ 1500 ≤ bitsOf x 16 13 ∧ bitsOf x 16 13 ≤ 4000 := by
  refine ⟨(bitsOf_fit _ (by decide) (by decide) (by decide) _).1, (bitsOf_fit _ (by decide) (by decide) (by decide) _).2, ?_, ?_⟩
  · rw [show clampReg (pwrB + 4) o w = putBits _ 0 6 _ from rfl, bitsOf_putBits_ne _ _ (by decide) (by decide)]
    exact (bitsOf_fit _ (a := 60) (b := 255) (by decide) (by decide) (by decide) _).1
  · rw [show clampReg (pwrB + 4) o w = putBits (putBits _ 8 8 _) 0 6 _ from rfl, bitsOf_putBits_ne _ _ (by decide) (by decide),
      bitsOf_putBits_ne _ _ (by decide) (by decide)]
    exact bitsOf_fit _ (by decide) (by decide) (by decide) _

/-! ### The register stored by a write, and what stays as it was -/

section
variable (s : State) {k : Nat} (v : W32)

theorem raw_putReg_same {m : RegMask} (h : fieldsOf k = some m) (h8 : k ≠ 8) : raw (putReg s k v) k = newWord m k (raw s k) v := by
  simp only [putReg, h]
  split
  · rw [raw_setFlag_ne _ _ _ h8, raw_setRaw_same]
  · rw [raw_setRaw_same]

/-- A write changes no register but its own and HUB_STAT, which reports a locked field written (17 R430). -/
theorem raw_putReg_ne {j : Nat} (hj : j ≠ k) (h8 : j ≠ 8) : raw (putReg s k v) j = raw s j := by
  unfold putReg
  split
  · rfl
  · dsimp only
    split
    · rw [raw_setFlag_ne _ _ _ h8, raw_setRaw_ne _ _ hj]
    · rw [raw_setRaw_ne _ _ hj]

/-- A write to a register of fields only changes nothing but registers. -/
theorem putReg_regs_only : putReg s k v = { s with regs := (putReg s k v).regs } := by
  unfold putReg
  split
  · rfl
  · dsimp only
    split <;> rfl

@[simp] theorem putReg_out : (putReg s k v).out = s.out := by rw [putReg_regs_only]
@[simp] theorem putReg_host : (putReg s k v).host = s.host := by rw [putReg_regs_only]
@[simp] theorem putReg_tiles : (putReg s k v).tiles = s.tiles := by rw [putReg_regs_only]

/-- A write to CFG_, HLT_ or PWR_ starts nothing. -/
theorem writeReg_mgt (h1 : 0x30000 ≤ k) (h2 : k < 0x60000) : writeReg s k v = putReg s k v := by
  have hmail : offIn k (ksB + 0x100) 4 16 = false := by simp [offIn, ksB, show ¬ k < 65856 by omega]
  have hclp : k ≠ ksB + 0x140 ∧ k ≠ clpB + 4 ∧ k ≠ clpB + 0x28 := by unfold ksB clpB; omega
  simp [writeReg, writeHub, hmail, hclp, show ¬ 0x100000 ≤ k by omega, show ¬ 0x2000000 ≤ k by omega, show ¬ 0x10000000 ≤ k by omega,
    show ¬ 0x20000000 ≤ k by omega, show k ≠ 0x1020 by omega]

/-- A read of a register clears its RC bits. -/
theorem clearRead_mgt {m : RegMask} (h2 : k < 0x60000) (h : fieldsOf k = some m) :
    clearRead s k = if m.rc = 0 then s else setRaw s k (raw s k &&& ~~~(BitVec.ofNat 32 m.rc)) := by
  simp [clearRead, h, show ¬ 0x10000000 ≤ k by omega]

theorem raw_clearRead_bit {m : RegMask} (h2 : k < 0x60000) (h : fieldsOf k = some m) {i : Nat} (hi : i < 32) :
    (raw (clearRead s k) k).getLsbD i = ((raw s k).getLsbD i && !m.rc.testBit i) := by
  rw [clearRead_mgt s h2 h]
  split
  · next h0 => simp [h0]
  · rw [raw_setRaw_same, BitVec.getLsbD_and, BitVec.getLsbD_not, BitVec.getLsbD_ofNat]
    simp [hi]

theorem raw_clearRead_ne {m : RegMask} (h2 : k < 0x60000) (h : fieldsOf k = some m) {j : Nat} (hj : j ≠ k) :
    raw (clearRead s k) j = raw s j := by
  rw [clearRead_mgt s h2 h]
  split
  · rfl
  · rw [raw_setRaw_ne _ _ hj]

theorem clearRead_regs_only {m : RegMask} (h2 : k < 0x60000) (h : fieldsOf k = some m) :
    clearRead s k = { s with regs := (clearRead s k).regs } := by
  rw [clearRead_mgt s h2 h]
  split <;> rfl

end

/-- Settles O22: an access that is reached carries out its halves in order, and a write to CFG_, HLT_ or PWR_ leaves every bit by its type. -/
theorem registerAccessesComplete : Obligations.RegisterAccessesComplete := by
  unfold Obligations.RegisterAccessesComplete
  constructor
  · intro s req off k v h hk
    refine ⟨registerWrite_four h hk v, registerRead_four h hk, fun j hi h8 hjk hj => ⟨fun hj' => ?_, fun hj' => ?_⟩⟩
    · exact registerWrite_eight h hk h8 hj hjk hj' hi
    · exact registerRead_eight h hk h8 hj hjk hj'
  · intro s req off v m h1 h2 h hm
    have hk : off.val ≠ ownB req + 4 := by unfold ownB; omega
    have hm' := fieldsOf_apart h1 h2 hm
    have hsame := raw_putReg_same s v hm (by omega)
    obtain ⟨w, hw⟩ := newWord_limited (k := off) hm' (raw s off) v
    constructor
    · refine ⟨putReg s off v, by rw [registerWrite_four h hk, writeReg_mgt s v h1 h2], ?_, ?_, ?_, ?_, fun k hk h8 => raw_putReg_ne s v hk h8,
        putReg_out s v, putReg_host s v, putReg_tiles s v⟩
      · intro hfree i hi
        rw [hsame]
        exact newWord_bit hm' (clampReg_free h1 h2 hfree) _ _ hi
      · intro he
        rw [fld, ← he, hsame, hw, he]
        exact clampReg_tapCtrl _ _
      · intro he
        rw [fld, ← he, hsame, hw, he]
        exact clampReg_flogCtrl _ _
      · intro he
        rw [fld, fld, fld, ← he, hsame, hw, he]
        exact clampReg_pwrCtrl _ _
    · refine ⟨_, registerRead_four h hk, ?_, fun i hi => raw_clearRead_bit s h2 hm hi, fun k hk => raw_clearRead_ne s h2 hm hk, ?_, ?_⟩
      all_goals rw [clearRead_regs_only s h2 hm]; rfl

end Sys2Proof.Machine

namespace Sys2Proof.Machine

/-! ## A critical command that completes (18 R453, R511) -/

section
variable {s s1 : State} {c : KsCmd} {code : Nat} {e : BitVec 8}

/-- A command at Keystone's head is handed to its step 7. -/
theorem ksHead_atHead (h : KsAtHead s code c) (f : KsCmd → State) : ksHead s code f = f c := by
  obtain ⟨hq, ha, hc, hl⟩ := h
  simp [ksHead, hq, ha, hc, Nat.not_lt.mpr hl]

/-- An update of Keystone is what it gives for the Keystone there is. -/
theorem modKs_congr {f g : Keystone → Keystone} (h : f s.ks = g s.ks) : modKs s f = modKs s g := by rw [modKs, modKs, h]

/-- Out of a queue of one command nothing is left to check. -/
theorem ksPop_single (h : s.ks.queue = [c]) : ksPop s = modKs s fun k => { k with queue := [] } := by
  rw [ksPop, modKs_congr (g := fun k => { k with queue := [] }) (by rw [h]; rfl)]
  rfl

/-- What completing a command leaves as it was. -/
theorem ksComplete_frame (s : State) (c : KsCmd) (e : BitVec 8) :
    ksComplete s c e = { s with regs := (ksComplete s c e).regs, ops := (ksComplete s c e).ops, ks := (ksComplete s c e).ks } := by
  unfold ksComplete
  split
  · next k _ => unfold completeOp modOp; split <;> rfl
  · rfl

theorem ksComplete_ks (s : State) (c : KsCmd) (e : BitVec 8) : (ksComplete s c e).ks = { s.ks with mailBusy := (ksComplete s c e).ks.mailBusy } := by
  unfold ksComplete
  split
  · simp [completeOp]
  · rfl

/-- Of the registers, completing a command changes the mailbox's alone. -/
theorem raw_ksComplete_ne (s : State) (c : KsCmd) (e : BitVec 8) {j : Nat} (h : j ≠ ksB + 0x140) : raw (ksComplete s c e) j = raw s j := by
  unfold ksComplete
  split
  · exact raw_congr (by simp [completeOp]) j
  · rw [raw_setFlag_ne _ _ _ h, raw_setFld_ne _ _ _ _ h]
    exact raw_congr (by simp) j

/-- The grade in operation is no part of the mailbox. -/
theorem gradeB_ksComplete (s : State) (c : KsCmd) (e : BitVec 8) : gradeB (ksComplete s c e) = gradeB s := by
  unfold gradeB flag fld
  rw [raw_ksComplete_ne s c e (by decide)]

/-- A command completed is reported: its operation's record is due, or the mailbox shows the code and is free. -/
theorem ksComplete_reports (hq : s1.ks.queue = []) (ho : s1.ops = s.ops) : KsReports s (ksComplete s1 c e) c e := by
  refine ⟨by rw [ksComplete_ks]; exact hq, fun k o hc hk => ?_, fun hc => ?_⟩
  · simp only [ksComplete, hc, completeOp]
    exact opOf_modOp_same (by rw [opOf, ho]; exact hk) _
  · simp only [ksComplete, hc]
    refine ⟨flag_setFlag_same _ _ (by decide), ?_, rfl⟩
    rw [setFlag, fld_setFld_field _ _ (by decide) (by decide), fld_setFld_same _ _ (by decide)]
    exact Nat.mod_eq_of_lt e.isLt

/-- The head of a queue of one command completes, and the queue is empty. -/
theorem ksEnd_single (h : s.ks.queue = [c]) : ksEnd s c e = ksComplete (modKs s fun k => { k with queue := [] }) c e := by
  have hq : (ksComplete s c e).ks.queue = [c] := by rw [ksComplete_ks]; exact h
  rw [ksEnd, ksPop_single hq]
  unfold ksComplete
  split
  · unfold completeOp modOp
    simp only [modKs_ops]
    split <;> rfl
  · rfl

/-- A command that ends at the head is reported and leaves every unit as it was but Keystone. -/
theorem ksEnd_reports (hq : s1.ks.queue = [c]) (ho : s1.ops = s.ops) : KsReports s (ksEnd s1 c e) c e := by
  rw [ksEnd_single hq]
  exact ksComplete_reports rfl ho

theorem ksEnd_keeps (hq : s.ks.queue = [c]) : UnitsKept s (ksEnd s c e) ∧ (ksEnd s c e).pairs = s.pairs := by
  rw [ksEnd_single hq, ksComplete_frame]
  exact ⟨⟨rfl, rfl, rfl, rfl, rfl, rfl, rfl⟩, rfl⟩

theorem gradeB_ksEnd (hq : s.ks.queue = [c]) : gradeB (ksEnd s c e) = gradeB s := by
  rw [ksEnd_single hq, gradeB_ksComplete]
  exact flag_congr (by simp) _ _

/-- A command whose change is recorded waits among the running ones. -/
theorem ksLater_single (hq : s.ks.queue = [c]) : ksLater s c = modKs s fun k => { k with running := k.running ++ [c], queue := [] } := by
  rw [ksLater]
  exact ksPop_single (c := c) hq

/-- The one command that runs completes by its number. -/
theorem ksFinish_single (hr : s.ks.running = [c]) : ksFinish s (ksId c) e = ksComplete (modKs s fun k => { k with running := [] }) c e := by
  have hf : s.ks.running.find? (fun x => ksId x == ksId c) = some c := by simp [hr]
  rw [ksFinish, hf]
  exact congrArg (ksComplete · c e) (modKs_congr (by simp [hr]))

end

/-! ## Logical tiles mapped and unmapped (03 R90) -/

/-- From `s` to `u` nothing changes but the dies. -/
def OnlyDies (s u : State) : Prop := u = { s with dies := u.dies }

theorem OnlyDies.refl (s : State) : OnlyDies s s := rfl

theorem OnlyDies.trans {s t u : State} (h : OnlyDies s t) (h' : OnlyDies t u) : OnlyDies s u := by
  unfold OnlyDies at h h' ⊢
  rw [h', h]

theorem modDie_onlyDies (s : State) (d : Nat) (f : DieSt → DieSt) : OnlyDies s (modDie s d f) := rfl

/-- A chain of updates of dies is one. -/
theorem foldl_onlyDies {α : Type} {f : State → α → State} (hf : ∀ a x, OnlyDies a (f a x)) (l : List α) (s : State) : OnlyDies s (l.foldl f s) :=
  List.foldlRecOn l f (.refl s) fun a h x _ => h.trans (hf a x)

theorem unmapLt_onlyDies (s : State) (d lt : Nat) : OnlyDies s (unmapLt s d lt) := by
  unfold unmapLt
  split
  · exact .refl s
  · exact modDie_onlyDies ..

theorem mapLt_onlyDies (s : State) (d lt pt : Nat) : OnlyDies s (mapLt s d lt pt) := modDie_onlyDies ..

theorem mapLts_onlyDies (s : State) (d : Nat) (lts : List Nat) : OnlyDies s (mapLts s d lts) :=
  foldl_onlyDies (f := fun a (e : Nat × Nat) => mapLt a d e.1 e.2) (fun a e => mapLt_onlyDies a d e.1 e.2) _ s

theorem ptOf_unmapLt (s : State) (d lt d' lt' : Nat) : ptOf (unmapLt s d lt) d' lt' = if d' = d ∧ lt' = lt then none else ptOf s d' lt' := by
  unfold unmapLt
  split
  · next h =>
    split
    · next e => rw [e.1, e.2, h]
    · rfl
  · by_cases hd : d' = d
    · subst hd
      by_cases hl : lt' = lt
      · subst hl; simp [ptOf]
      · simp [ptOf, hl, mget_mdel_ne]
    · simp [ptOf, dieOf_modDie_ne s _ hd, hd]

theorem ptOf_mapLt_same (s : State) (d lt pt : Nat) : ptOf (mapLt s d lt pt) d lt ≠ none := by simp [ptOf, mapLt]

theorem ptOf_mapLt_mono {s : State} {d lt : Nat} (d' lt' pt' : Nat) (h : ptOf s d lt ≠ none) : ptOf (mapLt s d' lt' pt') d lt ≠ none := by
  unfold ptOf mapLt at *
  by_cases hd : d = d'
  · subst hd
    by_cases hl : lt = lt'
    · subst hl; simp
    · simpa [mget_mput_ne _ _ _ hl] using h
  · rwa [dieOf_modDie_ne s _ hd]

theorem dieOf_mapLts_ne (s : State) {d e : Nat} (lts : List Nat) (h : e ≠ d) : dieOf (mapLts s d lts) e = dieOf s e :=
  List.foldlRecOn (motive := fun a => dieOf a e = dieOf s e) _ _ rfl fun a ha x _ => by rw [← ha]; exact dieOf_modDie_ne a _ h

theorem ptOf_mapLts_mono {s : State} {d lt : Nat} (d' : Nat) (lts : List Nat) (h : ptOf s d lt ≠ none) : ptOf (mapLts s d' lts) d lt ≠ none :=
  List.foldlRecOn (motive := fun a => ptOf a d lt ≠ none) _ _ h fun _ ha x _ => ptOf_mapLt_mono d' x.1 x.2 ha

/-- What one element of a list brings about, and every other keeps, holds after the whole list. -/
theorem foldl_of_mem {α β : Type} {f : β → α → β} {P : β → Prop} {x : α} (keep : ∀ b y, P b → P (f b y)) (make : ∀ b, P (f b x)) {l : List α}
    (hx : x ∈ l) (b : β) : P (l.foldl f b) := by
  obtain ⟨l1, l2, rfl⟩ := List.append_of_mem hx
  rw [List.foldl_append, List.foldl_cons]
  exact List.foldlRecOn l2 f (make _) fun b hb y _ => keep b y hb

/-- With a spare for each, every logical tile of a list is mapped. -/
theorem ptOf_mapLts_of_mem {s : State} {d lt : Nat} {lts : List Nat} (hl : lts.length ≤ (freeSpares s d).length) (h : lt ∈ lts) :
    ptOf (mapLts s d lts) d lt ≠ none := by
  obtain ⟨⟨_, pt⟩, he, rfl⟩ : ∃ e ∈ lts.zip (freeSpares s d), e.1 = lt := by
    rw [← List.mem_map, List.map_fst_zip hl]
    exact h
  exact foldl_of_mem (f := fun a (e : Nat × Nat) => mapLt a d e.1 e.2) (P := fun a => ptOf a d _ ≠ none)
    (fun _ y ha => ptOf_mapLt_mono d y.1 y.2 ha) (fun a => ptOf_mapLt_same a d _ pt) he s

theorem mem_highLts {lt : Nat} : lt ∈ highLts ↔ 112 ≤ lt ∧ lt < 128 := by
  simp only [highLts, upTo, List.mem_map, List.mem_range]
  exact ⟨by rintro ⟨i, hi, rfl⟩; omega, fun h => ⟨lt - 112, by omega, by omega⟩⟩

theorem mem_allDies {d : Nat} : d ∈ allDies ↔ d < 16 := List.mem_range

/-- The free spares of a die are a matter of the die, the tiles and the hub. -/
theorem freeSpares_congr {s u : State} {d : Nat} (hd : dieOf u d = dieOf s d) (ht : u.tiles = s.tiles) (hh : u.hub = s.hub) :
    freeSpares u d = freeSpares s d := by
  simp [freeSpares, freeTarget, ptOf, tileOf, sluiceOf, hd, ht, hh]


/-! ## The operating grade (00 R4, R5) -/

/-- LT112 to LT127 of every die unmapped. -/
def unmapHigh (s : State) : State := allDies.foldl (fun a d => highLts.foldl (fun a lt => unmapLt a d lt) a) s
/-- LT112 to LT127 of every die that is up mapped onto spares. -/
def mapHigh (s : State) : State := (allDies.filter (dieUp s)).foldl (fun a d => mapLts a d highLts) s

theorem unmapHigh_onlyDies (s : State) : OnlyDies s (unmapHigh s) :=
  foldl_onlyDies (fun a d => foldl_onlyDies (fun b lt => unmapLt_onlyDies b d lt) _ a) _ s

theorem mapHigh_onlyDies (s : State) : OnlyDies s (mapHigh s) := foldl_onlyDies (fun a d => mapLts_onlyDies a d highLts) _ s

theorem ptOf_unmapHigh (s : State) {d lt : Nat} (hd : d < 16) (hl : 112 ≤ lt ∧ lt < 128) : ptOf (unmapHigh s) d lt = none := by
  have keep (a : State) (d' lt' : Nat) (ha : ptOf a d lt = none) : ptOf (unmapLt a d' lt') d lt = none := by
    rw [ptOf_unmapLt, ha, ite_self]
  refine foldl_of_mem (P := fun a => ptOf a d lt = none) (fun a d' ha => ?_) (fun a => ?_) (mem_allDies.mpr hd) s
  · exact List.foldlRecOn (motive := fun b => ptOf b d lt = none) _ _ ha fun b hb lt' _ => keep b d' lt' hb
  · exact foldl_of_mem (P := fun b => ptOf b d lt = none) (fun b lt' hb => keep b d lt' hb) (fun b => by simp [ptOf_unmapLt]) (mem_highLts.mpr hl) a

/-- A die's turn comes with its spares as they were: those before it are other dies. -/
theorem ptOf_mapHigh {s : State} {d lt : Nat} (hd : d < 16) (hu : dieUp s d = true) (hl : 112 ≤ lt ∧ lt < 128) (hf : 16 ≤ (freeSpares s d).length) :
    ptOf (mapHigh s) d lt ≠ none := by
  have hmem : d ∈ allDies.filter (dieUp s) := List.mem_filter.mpr ⟨mem_allDies.mpr hd, hu⟩
  obtain ⟨l1, l2, hsplit, hnot⟩ := List.eq_append_cons_of_mem hmem
  rw [mapHigh, hsplit, List.foldl_append, List.foldl_cons]
  have hdie : dieOf (l1.foldl (fun a e => mapLts a e highLts) s) d = dieOf s d :=
    List.foldlRecOn (motive := fun a => dieOf a d = dieOf s d) _ _ rfl fun a ha e he => by
      rw [← ha]
      exact dieOf_mapLts_ne a _ fun hde => hnot (hde ▸ he)
  have honly : OnlyDies s (l1.foldl (fun a e => mapLts a e highLts) s) := foldl_onlyDies (fun a d => mapLts_onlyDies a d highLts) _ s
  have hfree := freeSpares_congr hdie (by rw [honly]) (by rw [honly])
  refine List.foldlRecOn (motive := fun a => ptOf a d lt ≠ none) _ _ ?_ fun a ha e _ => ptOf_mapLts_mono e _ ha
  exact ptOf_mapLts_of_mem (by rw [hfree]; exact hf) (mem_highLts.mpr hl)

/-- HUB_REV with another number of logical tiles and OGRADE (17 R438). -/
def setGrade (s : State) (b : Bool) : State := setFld (setFlag s 4 8 b) 4 0 8 (if b then 0x70 else 0x80)

theorem gradeB_setGrade (s : State) (b : Bool) : gradeB (setGrade s b) = b := by
  rw [gradeB, setGrade, flag_setFld_field _ _ (by decide) (by decide), flag_setFlag_same _ _ (by decide)]

theorem fld_setGrade (s : State) (b : Bool) : fld (setGrade s b) 4 0 8 = if b then 0x70 else 0x80 := by
  rw [setGrade, fld_setFld_same _ _ (by decide)]
  cases b <;> rfl

theorem makeGrade_toB {s : State} {g : GradeChange} (hg : g.toB = true) (h : gradeB s = false) :
    makeGrade s g = ksFinish (setGrade (unmapHigh s) true) g.cmd 0 := by
  simp [makeGrade, hg, h, setGrade, unmapHigh]

/-- Whether some die that is up lacks the sixteen spares grade A takes. -/
def fewSpares (s : State) : Bool := allDies.any (fun d => dieUp s d && decide ((freeSpares s d).length < 16))

theorem makeGrade_toA {s : State} {g : GradeChange} (hg : g.toB = false) (h : gradeB s = true) :
    makeGrade s g = if fewSpares s then ksFinish s g.cmd 0x10 else ksFinish (setGrade (mapHigh s) false) g.cmd 0 := by
  simp [makeGrade, hg, h, setGrade, mapHigh, fewSpares, List.any_filter]

/-- A grade change at the head of the line that still waits for a boundary holds the line. -/
theorem gradesFuel_waits {s : State} {g : GradeChange} {r : List GradeChange} (n : Nat) (h : s.ks.grades = g :: r) (hw : g.wait ≠ []) :
    gradesFuel n s = s := by
  cases n <;> simp [gradesFuel, h, hw]

/-- A grade change in the line: it waits for the boundary of every partition, and its command runs. -/
def gradeAsked (s : State) (c : KsCmd) : State :=
  { s with
    parts := s.parts.map (fun e => (e.1, { e.2 with boundaryWanted := true }))
    ks := { s.ks with
      grades := s.ks.grades ++ [{ toB := ksByte c 0 == 1, cmd := ksId c, wait := s.parts.map (·.1) }], running := s.ks.running ++ [c], queue := [] } }

section
variable {s : State} {c : KsCmd}

/-- GRADE_SET of a grade it is refused for, with the code of its first refusal. -/
theorem gradeSet_refused (h : KsAtHead s 0x30 c) {e : BitVec 8}
    (he : 1 < ksByte c 0 ∧ e = 0x22 ∨ (ksByte c 0 = 0 ∧ flag s 4 9 = true) ∧ e = 0x20 ∨
      (ksByte c 0 = 1 ∧ s.parts.any (fun e => decide (112 < e.2.blk.firstLt + e.2.blk.ltCount)) = true) ∧ e = 0x10) :
    exec .gradeSet s = .next (ksEnd s c e) := by
  rw [exec_gradeSet, execGradeSet, ksHead_atHead h]
  rcases he with ⟨h1, rfl⟩ | ⟨h1, rfl⟩ | ⟨h1, rfl⟩
  · simp [h1]
  · simp [h1]
  · simp only [h1]
    simp

/-- A grade change that is not refused: made at once where nothing changes and nothing pends, or put in line. -/
theorem gradeSet_accepted (h : KsAtHead s 0x30 c) (h1 : ksByte c 0 ≤ 1) (hA : ksByte c 0 = 0 → flag s 4 9 = false)
    (hB : ksByte c 0 = 1 → s.parts.any (fun e => decide (112 < e.2.blk.firstLt + e.2.blk.ltCount)) = false) :
    exec .gradeSet s = .next (if (ksByte c 0 == 1) = gradeB s ∧ s.ks.grades = [] then ksEnd s c 0
      else gradesFuel (s.ks.grades.length + 1) (gradeAsked s c)) := by
  have hA' : ¬ (ksByte c 0 = 0 ∧ flag s 4 9 = true) := fun ⟨a, b⟩ => by simp [hA a] at b
  have hB' : ¬ (ksByte c 0 = 1 ∧ s.parts.any (fun e => decide (112 < e.2.blk.firstLt + e.2.blk.ltCount)) = true) := fun ⟨a, b⟩ => by simp [hB a] at b
  rw [exec_gradeSet, execGradeSet, ksHead_atHead h]
  dsimp only
  rw [if_neg (by omega), if_neg hA', if_neg hB']
  split
  · rfl
  · have hl : ksLater { gradeAsked s c with ks := { s.ks with grades := (gradeAsked s c).ks.grades } } c = gradeAsked s c := ksLater_single h.1
    refine (congrArg (fun u : State => Host.Outcome.next (gradesFuel u.ks.grades.length u)) hl).trans ?_
    simp [gradeAsked]

/-- Its change taken out of the line, the command of a grade change alone runs. -/
def gradeTaken (s : State) (c : KsCmd) : State := { s with ks := { s.ks with running := [c], queue := [] } }

/-- With no partition and nothing in line or running, a change of grade is made at once. -/
theorem gradesFuel_gradeAsked (hp : s.parts = []) (hg : s.ks.grades = []) (hr : s.ks.running = []) :
    gradesFuel (s.ks.grades.length + 1) (gradeAsked s c) = makeGrade (gradeTaken s c) ⟨ksByte c 0 == 1, ksId c, []⟩ := by
  simp [gradeAsked, gradeTaken, hp, hg, hr, gradesFuel, modKs]

/-- A change in line behind others, or waiting for a partition, is recorded and no more. -/
theorem gradesFuel_gradeAsked_waits (n : Nat) (hp : s.parts ≠ []) (hw : ∀ x ∈ s.ks.grades, x.wait ≠ []) :
    gradesFuel n (gradeAsked s c) = gradeAsked s c := by
  cases hg : s.ks.grades with
  | nil => exact gradesFuel_waits n (by simp only [gradeAsked, hg]; rfl) (by simpa using hp)
  | cons x r => exact gradesFuel_waits n (by simp only [gradeAsked, hg]; rfl) (hw x (by simp [hg]))

variable {t : State} {e : BitVec 8}

theorem ksFinish_reports (hr : t.ks.running = [c]) (hq : t.ks.queue = []) (ho : t.ops = s.ops) : KsReports s (ksFinish t (ksId c) e) c e := by
  rw [ksFinish_single hr]
  exact ksComplete_reports hq ho

/-- A command that completes as the only one running changes neither the units nor HUB_REV. -/
theorem ksFinish_keeps (hr : t.ks.running = [c]) :
    let u := ksFinish t (ksId c) e
    u.tiles = t.tiles ∧ u.host = t.host ∧ u.dies = t.dies ∧ u.ks.grades = t.ks.grades ∧ raw u 4 = raw t 4 := by
  simp only [ksFinish_single hr]
  refine ⟨?_, ?_, ?_, by rw [ksComplete_ks]; rfl, raw_ksComplete_ne _ c e (by decide)⟩
  all_goals rw [ksComplete_frame]; rfl

theorem gradeB_of_raw {s u : State} (h : raw u 4 = raw s 4) : gradeB u = gradeB s := by rw [gradeB, flag, fld, h, gradeB, flag, fld]

theorem ptOf_congr {s u : State} (h : u.dies = s.dies) (d lt : Nat) : ptOf u d lt = ptOf s d lt := by rw [ptOf, dieOf, h, ptOf, dieOf]

/-- A module that takes a grade: the dies as `t` has them, and HUB_REV of the grade. -/
theorem setGrade_taken (b : Bool) (ht : OnlyDies (gradeTaken s c) t) :
    let u := ksFinish (setGrade t b) (ksId c) e
    u.tiles = s.tiles ∧ u.host = s.host ∧ u.ks.grades = s.ks.grades ∧ KsReports s u c e ∧ gradeB u = b ∧ fld u 4 0 8 = (if b then 0x70 else 0x80) ∧
      ∀ d lt, ptOf u d lt = ptOf t d lt := by
  have hr : (setGrade t b).ks.running = [c] := by rw [ht]; rfl
  obtain ⟨htiles, hhost, hdies, hgrades, hraw⟩ := ksFinish_keeps (e := e) hr
  refine ⟨by rw [htiles, ht]; rfl, by rw [hhost, ht]; rfl, by rw [hgrades, ht]; rfl, ksFinish_reports hr (by rw [ht]; rfl) (by rw [ht]; rfl),
    ?_, ?_, ptOf_congr hdies⟩
  · rw [gradeB_of_raw hraw, gradeB_setGrade]
  · rw [fld, hraw]
    exact fld_setGrade t b

/-- To grade B: 112 logical tiles, the others mapped nowhere. -/
theorem makeGrade_taken_toB (hb : gradeB s = false) :
    let u := makeGrade (gradeTaken s c) ⟨true, ksId c, []⟩
    u.tiles = s.tiles ∧ u.host = s.host ∧ u.ks.grades = s.ks.grades ∧ KsReports s u c 0 ∧ gradeB u = true ∧ fld u 4 0 8 = 0x70 ∧
      ∀ d lt, d < 16 → 112 ≤ lt → lt < 128 → ptOf u d lt = none := by
  rw [makeGrade_toB (s := gradeTaken s c) rfl hb]
  obtain ⟨htiles, hhost, hgrades, hrep, hgrade, hfld, hpt⟩ := setGrade_taken (e := 0) true (unmapHigh_onlyDies (gradeTaken s c))
  dsimp only
  exact ⟨htiles, hhost, hgrades, hrep, hgrade, hfld, fun d lt hd h1 h2 => by rw [hpt]; exact ptOf_unmapHigh _ hd ⟨h1, h2⟩⟩

/-- To grade A: 128 logical tiles, the new ones on spares of every die that is up. -/
theorem makeGrade_taken_toA (hb : gradeB s = true) (hf : fewSpares s = false) :
    let u := makeGrade (gradeTaken s c) ⟨false, ksId c, []⟩
    u.tiles = s.tiles ∧ u.host = s.host ∧ u.ks.grades = s.ks.grades ∧ KsReports s u c 0 ∧ gradeB u = false ∧ fld u 4 0 8 = 0x80 ∧
      ∀ d lt, d < 16 → dieUp s d = true → 112 ≤ lt → lt < 128 → ptOf u d lt ≠ none := by
  have hf' : fewSpares (gradeTaken s c) = false := hf
  rw [makeGrade_toA (s := gradeTaken s c) rfl hb, hf', if_neg (by decide)]
  obtain ⟨htiles, hhost, hgrades, hrep, hgrade, hfld, hpt⟩ := setGrade_taken (e := 0) false (mapHigh_onlyDies (gradeTaken s c))
  refine ⟨htiles, hhost, hgrades, hrep, hgrade, hfld, fun d lt hd hu h1 h2 => ?_⟩
  have hspare : 16 ≤ (freeSpares s d).length := by
    have hd' := List.any_eq_false.mp hf d (mem_allDies.mpr hd)
    simpa [hu] using hd'
  rw [hpt]
  exact ptOf_mapHigh hd hu ⟨h1, h2⟩ hspare

/-- Without the spares grade A takes, the change ends with E_TARGET_OFF and the grade stays. -/
theorem makeGrade_taken_few (hb : gradeB s = true) (hf : fewSpares s = true) :
    let u := makeGrade (gradeTaken s c) ⟨false, ksId c, []⟩
    u.tiles = s.tiles ∧ u.host = s.host ∧ u.ks.grades = s.ks.grades ∧ KsReports s u c 0x10 ∧ gradeB u = true ∧ u.dies = s.dies := by
  have hf' : fewSpares (gradeTaken s c) = true := hf
  rw [makeGrade_toA (s := gradeTaken s c) rfl hb, if_pos hf']
  obtain ⟨htiles, hhost, hdies, hgrades, hraw⟩ := ksFinish_keeps (t := gradeTaken s c) (c := c) (e := 0x10) rfl
  exact ⟨htiles, hhost, hgrades, ksFinish_reports rfl rfl rfl, (gradeB_of_raw hraw).trans hb, hdies⟩

end

/-! ## Lock-step pairs (09 R235) -/

/-- A partition that exists and is not being deleted. -/
def livePart (s : State) (n : Nat) : Option Partition := (partOf s n).filter (fun p => !p.deleting)

theorem livePart_eq_some {s : State} {n : Nat} {p : Partition} : livePart s n = some p ↔ partOf s n = some p ∧ p.deleting = false := by
  simp [livePart, Option.filter_eq_some_iff]

theorem livePart_eq_none {s : State} {n : Nat} : livePart s n = none ↔ ∀ p, ¬ (partOf s n = some p ∧ p.deleting = false) := by
  simp only [← livePart_eq_some, Option.eq_none_iff_forall_ne_some, ne_eq]

/-- Whether two partitions can run in lock-step: on different dies, with equal tile counts, one mode and one weight image. -/
def canPair (s : State) (a b : Nat) (p q : Partition) : Bool :=
  a != b && p.tiles.length == q.tiles.length && p.cur.chain == q.cur.chain && sameWeights s a b p q && (spanDies p).all (fun d => !(spanDies q).contains d)

theorem canPair_iff {s : State} {a b : Nat} {p q : Partition} :
    canPair s a b p q = true ↔ a ≠ b ∧ p.tiles.length = q.tiles.length ∧ p.cur.chain = q.cur.chain ∧ sameWeights s a b p q = true ∧
      ∀ d ∈ spanDies p, d ∉ spanDies q := by
  simp [canPair, and_assoc]

section
variable {s : State} {c : KsCmd}

/-- LOCKSTEP_SET with a field out of its range. -/
theorem lockstepSet_form (h : KsAtHead s 0x31 c) (hf : 64 ≤ ksByte c 0 ∨ 64 ≤ ksByte c 1 ∨ 1 < ksByte c 3) :
    exec .lockstepSet s = .next (ksEnd s c 0x22) := by
  rw [exec_lockstepSet, execLockstepSet, ksHead_atHead h]
  dsimp only
  rw [if_pos hf]

variable (h : KsAtHead s 0x31 c) (ha : ksByte c 0 < 64) (hb : ksByte c 1 < 64)
include h ha hb

/-- The end of a pair. -/
theorem lockstepSet_end (h3 : ksByte c 3 = 0) :
    exec .lockstepSet s = .next
      (if s.pairs.any (fun q => q.primary == ksByte c 0 && q.mirror == ksByte c 1 && q.module == ksByte c 2) then
        ksEnd { s with pairs := s.pairs.filter (fun q => !(q.primary == ksByte c 0 && q.mirror == ksByte c 1 && q.module == ksByte c 2)) } c 0
      else ksEnd s c (Config.refusalCode 0x31)) := by
  rw [exec_lockstepSet, execLockstepSet, ksHead_atHead h]
  dsimp only
  rw [if_neg (by omega), if_pos h3]

/-- A pair whose primary is no live partition. -/
theorem lockstepSet_noPrimary (h3 : ksByte c 3 = 1) (hp : livePart s (ksByte c 0) = none) : exec .lockstepSet s = .next (ksEnd s c 0x10) := by
  rw [exec_lockstepSet, execLockstepSet, ksHead_atHead h]
  dsimp only
  rw [if_neg (by omega), if_neg (by omega)]
  simp only [livePart] at hp
  rw [hp]

/-- A pair whose mirror is no live partition of this module. -/
theorem lockstepSet_noMirror (h3 : ksByte c 3 = 1) {p : Partition} (hp : livePart s (ksByte c 0) = some p) (hq : livePart s (ksByte c 1) = none) :
    exec .lockstepSet s = .next
      (if ksByte c 2 = 0xFF then ksEnd s c 0x10
      else if inPair s (ksByte c 0) then ksEnd s c (Config.refusalCode 0x31)
      else ksEnd { s with pairs := s.pairs ++ [{ primary := ksByte c 0, mirror := ksByte c 1, module := ksByte c 2 }] } c 0) := by
  rw [exec_lockstepSet, execLockstepSet, ksHead_atHead h]
  dsimp only
  rw [if_neg (by omega), if_neg (by omega)]
  simp only [livePart] at hp hq
  rw [hp, hq]
  by_cases hm : ksByte c 2 = 0xFF <;> simp [hm]

/-- A pair of two live partitions, or of one of them and a partition of another module. -/
theorem lockstepSet_mirror (h3 : ksByte c 3 = 1) {p q : Partition} (hp : livePart s (ksByte c 0) = some p) (hq : livePart s (ksByte c 1) = some q) :
    exec .lockstepSet s = .next
      (if (ksByte c 2 = 0xFF ∧ (!canPair s (ksByte c 0) (ksByte c 1) p q) = true) ∨ inPair s (ksByte c 0) = true ∨
          (ksByte c 2 = 0xFF ∧ inPair s (ksByte c 1) = true) then ksEnd s c (Config.refusalCode 0x31)
      else ksEnd { s with pairs := s.pairs ++ [{ primary := ksByte c 0, mirror := ksByte c 1, module := ksByte c 2 }] } c 0) := by
  rw [exec_lockstepSet, execLockstepSet, ksHead_atHead h]
  dsimp only
  rw [if_neg (by omega), if_neg (by omega)]
  simp only [livePart] at hp hq
  rw [hp, hq]
  dsimp only
  rw [if_neg (by simp)]
  rfl

/-- A pair is refused where its primary is in a pair, or its mirror here is in one or does not match. -/
theorem lockstepSet_refused (h3 : ksByte c 3 = 1) {p : Partition} (hp : livePart s (ksByte c 0) = some p)
    (hq : ksByte c 2 = 0xFF → livePart s (ksByte c 1) ≠ none)
    (hbad : inPair s (ksByte c 0) = true ∨
      ksByte c 2 = 0xFF ∧ ∀ q, livePart s (ksByte c 1) = some q → canPair s (ksByte c 0) (ksByte c 1) p q = false ∨ inPair s (ksByte c 1) = true) :
    exec .lockstepSet s = .next (ksEnd s c (Config.refusalCode 0x31)) := by
  cases hq' : livePart s (ksByte c 1) with
  | none =>
    have hm : ksByte c 2 ≠ 0xFF := fun hm => hq hm hq'
    rw [lockstepSet_noMirror h ha hb h3 hp hq', if_neg hm, if_pos (hbad.resolve_right fun x => hm x.1)]
  | some q =>
    rw [lockstepSet_mirror h ha hb h3 hp hq', if_pos]
    rcases hbad with hin | ⟨hm, hq⟩
    · exact .inr (.inl hin)
    · exact (hq q hq').elim (fun hc => .inl ⟨hm, by rw [hc]; rfl⟩) (fun hin => .inr (.inr ⟨hm, hin⟩))

/-- A pair is set where its primary is free and its mirror, where it is of this module, is free and matches. -/
theorem lockstepSet_set (h3 : ksByte c 3 = 1) {p : Partition} (hp : livePart s (ksByte c 0) = some p) (hin : inPair s (ksByte c 0) = false)
    (hgood : ksByte c 2 = 0xFF → inPair s (ksByte c 1) = false ∧
      ∃ q, livePart s (ksByte c 1) = some q ∧ canPair s (ksByte c 0) (ksByte c 1) p q = true) :
    exec .lockstepSet s =
      .next (ksEnd { s with pairs := s.pairs ++ [{ primary := ksByte c 0, mirror := ksByte c 1, module := ksByte c 2 }] } c 0) := by
  cases hq' : livePart s (ksByte c 1) with
  | none =>
    have hm : ksByte c 2 ≠ 0xFF := fun hm => by obtain ⟨-, q, hq, -⟩ := hgood hm; simp [hq'] at hq
    rw [lockstepSet_noMirror h ha hb h3 hp hq', if_neg hm, if_neg (by simp [hin])]
  | some q =>
    rw [lockstepSet_mirror h ha hb h3 hp hq', if_neg]
    rintro (⟨hm, hc⟩ | hin' | ⟨hm, hin'⟩)
    · obtain ⟨-, r, hr, hpair⟩ := hgood hm
      obtain rfl : q = r := Option.some.inj (hq'.symm.trans hr)
      simp [hpair] at hc
    · simp [hin] at hin'
    · simp [(hgood hm).1] at hin'

omit h ha hb in
theorem namesPair_iff {a b m : Nat} (q : LockPair) :
    (q.primary == a && q.mirror == b && q.module == m) = true ↔ q.primary = a ∧ q.mirror = b ∧ q.module = m := by
  simp [and_assoc]

omit h ha hb in
/-- A command that ends at the head, the lock-step pairs as it leaves them. -/
theorem pairs_of_ksEnd {i : Instr} {l : List LockPair} {e : BitVec 8} (hq : s.ks.queue = [c]) (hx : exec i s = .next (ksEnd { s with pairs := l } c e)) :
    ∃ u : State, exec i s = .next u ∧ KsReports s u c e ∧ UnitsKept s u ∧ u.pairs = l := by
  have hkeep := ksEnd_keeps (s := { s with pairs := l }) (e := e) hq
  exact ⟨_, hx, ksEnd_reports hq rfl, hkeep.1, hkeep.2⟩

end

/-! ## The two commands -/

/-- With no partition and nothing in line or running, an accepted GRADE_SET makes its change. -/
theorem gradeSet_madeAtOnce {s : State} {c : KsCmd} (h : KsAtHead s 0x30 c) (h1 : ksByte c 0 ≤ 1) (hA : ksByte c 0 = 0 → flag s 4 9 = false)
    (hB : ksByte c 0 = 1 → s.parts.any (fun e => decide (112 < e.2.blk.firstLt + e.2.blk.ltCount)) = false)
    (hp : s.parts = []) (hg : s.ks.grades = []) (hr : s.ks.running = []) (hne : (ksByte c 0 == 1) ≠ gradeB s) :
    exec .gradeSet s = .next (makeGrade (gradeTaken s c) ⟨ksByte c 0 == 1, ksId c, []⟩) := by
  rw [gradeSet_accepted h h1 hA hB, if_neg (fun hx => hne hx.1), gradesFuel_gradeAsked hp hg hr]

/-- Settles O44: each command is refused, reported at once, put in line or carried out, as its block and the state say. -/
theorem modesComplete : Obligations.ModesComplete := by
  unfold Obligations.ModesComplete
  intro s c
  constructor
  · intro h
    refine ⟨fun hcase => ?_, fun h1 hA hB => ⟨fun hsame hg => ?_, fun hp hne hw => ?_, fun hp hg hr hne => ?_⟩⟩
    · have hx := gradeSet_refused h (e := if 1 < ksByte c 0 then 0x22 else if ksByte c 0 = 0 ∧ flag s 4 9 = true then 0x20 else 0x10) (by
        rcases hcase with h1 | h1 | h1
        · exact .inl ⟨h1, if_pos h1⟩
        · exact .inr (.inl ⟨h1, by rw [if_neg (by omega), if_pos h1]⟩)
        · exact .inr (.inr ⟨h1, by rw [if_neg (by omega), if_neg (by omega)]⟩))
      exact ⟨_, hx, ksEnd_reports h.1 rfl, (ksEnd_keeps h.1).1, gradeB_ksEnd h.1⟩
    · have hx := gradeSet_accepted h h1 hA hB
      rw [if_pos ⟨hsame, hg⟩] at hx
      exact ⟨_, hx, ksEnd_reports h.1 rfl, (ksEnd_keeps h.1).1, gradeB_ksEnd h.1⟩
    · have hx := gradeSet_accepted h h1 hA hB
      rw [if_neg (fun ⟨a, b⟩ => hne.elim (· a) (· b)), gradesFuel_gradeAsked_waits _ hp hw] at hx
      refine ⟨_, hx, rfl, rfl, rfl, rfl, rfl, rfl, fun e he => ?_⟩
      obtain ⟨x, -, rfl⟩ := List.mem_map.mp he
      rfl
    · have hx := gradeSet_madeAtOnce h h1 hA hB hp hg hr hne
      rcases (by omega : ksByte c 0 = 1 ∨ ksByte c 0 = 0) with h0 | h0
      · have hb : gradeB s = false := by simpa [h0] using hne
        rw [h0] at hx
        obtain ⟨htiles, hhost, hgrades, hmade⟩ := makeGrade_taken_toB (c := c) hb
        exact ⟨_, hx, htiles, hhost, hgrades.trans hg, fun _ => hmade, fun h => by omega, fun h => by omega⟩
      · have hb : gradeB s = true := by simpa [h0] using hne
        rw [h0] at hx
        cases hf : fewSpares s with
        | false =>
          obtain ⟨htiles, hhost, hgrades, hmade⟩ := makeGrade_taken_toA (c := c) hb hf
          exact ⟨_, hx, htiles, hhost, hgrades.trans hg, fun h => by omega, fun _ _ => hmade, fun _ hfew => absurd hfew (by rw [← fewSpares, hf]; decide)⟩
        | true =>
          obtain ⟨htiles, hhost, hgrades, hmade⟩ := makeGrade_taken_few (c := c) hb hf
          exact ⟨_, hx, htiles, hhost, hgrades.trans hg, fun h => by omega, fun _ hfew => absurd hfew (by rw [← fewSpares, hf]; decide), fun _ _ => hmade⟩
  · intro h
    refine ⟨fun hf => pairs_of_ksEnd h.1 (lockstepSet_form h hf), fun ha hb h3 => ⟨fun hp => ?_, fun p hp => ?_⟩,
      fun ha hb h3 => ⟨fun hn => ?_, fun hy => ?_⟩⟩
    · exact pairs_of_ksEnd h.1 (lockstepSet_noPrimary h ha hb h3 (livePart_eq_none.mpr hp))
    · have hp' := livePart_eq_some.mpr hp
      refine ⟨fun hm hq => ?_, fun hin hq => ?_, fun q hm hq hbad => ?_, fun hin hgood => ?_⟩
      · have hx := lockstepSet_noMirror h ha hb h3 hp' (livePart_eq_none.mpr hq)
        rw [if_pos hm] at hx
        exact pairs_of_ksEnd h.1 hx
      · refine pairs_of_ksEnd h.1 (lockstepSet_refused h ha hb h3 hp' (fun hm => ?_) (.inl hin))
        obtain ⟨q, hq⟩ := hq hm
        rw [livePart_eq_some.mpr hq]
        exact Option.some_ne_none q
      · have hq' := livePart_eq_some.mpr hq
        refine pairs_of_ksEnd h.1 (lockstepSet_refused h ha hb h3 hp' (fun _ => by rw [hq']; exact Option.some_ne_none q) (.inr ⟨hm, fun r hr => ?_⟩))
        obtain rfl : q = r := Option.some.inj (hq'.symm.trans hr)
        exact hbad.imp_left fun hc => Bool.eq_false_iff.mpr (mt canPair_iff.mp hc)
      · refine pairs_of_ksEnd h.1 (lockstepSet_set h ha hb h3 hp' hin fun hm => ?_)
        obtain ⟨hfree, q, hq, hsame⟩ := hgood hm
        exact ⟨hfree, q, livePart_eq_some.mpr hq, canPair_iff.mpr hsame⟩
    · have hx := lockstepSet_end h ha hb h3
      rw [if_neg] at hx
      · exact pairs_of_ksEnd h.1 hx
      · simpa only [List.any_eq_true, namesPair_iff, not_exists, not_and] using hn
    · have hx := lockstepSet_end h ha hb h3
      rw [if_pos (List.any_eq_true.mpr (by simpa only [namesPair_iff] using hy))] at hx
      obtain ⟨u, hu, hrep, hkeep, hpairs⟩ := pairs_of_ksEnd h.1 hx
      refine ⟨u, hu, hrep, hkeep, fun q hq => ?_, fun q hq hne => ?_⟩
      · rw [hpairs, List.mem_filter, Bool.not_eq_true', ← Bool.not_eq_true, namesPair_iff] at hq
        exact hq
      · rw [hpairs, List.mem_filter, Bool.not_eq_true', ← Bool.not_eq_true, namesPair_iff]
        exact ⟨hq, hne⟩

end Sys2Proof.Machine

namespace Sys2Proof.Machine

/-! ## A deletion that completes an operation of its own partition (16 R418; 18 R511) -/

/-- PART_DELETE of partition 0, brought by operation 3. -/
def ownDelete : KsCmd :=
  { op := some 3, desc := 0x10 :: (leBytes 31 0 ++ leBytes 2 0x22 ++ leBytes 2 0 ++ leBytes 4 1 ++ leBytes 24 0), params := [0], accepted := true }

/-- A block that names LT0 of CD0 and bank 0. -/
def oneTileBlock : PartBlock := { span := 1, ltCount := 1, banks := 1, staging := 1 }

/-- A partition of that block, with no tile mapped and so no port to drain. -/
def portlessPart : Partition := { blk := oneTileBlock, cur := oneTileBlock, tiles := [0], bankDies := 1 }

/-- The critical operation of partition 0 that brought the command, still `ready`. -/
def ownDeleteOp : Op :=
  { life := 0, ctx := 0, express := false, opseq := 0, home := 0, part := 0, desc := ownDelete.desc, phase := .ready }

/-- The command of `ownDeleteOp` at the head of Keystone's queue. -/
def ownDeletion : State :=
  { State.reset with parts := [(0, portlessPart)], ops := [(3, ownDeleteOp)], ks := { owned := true, queue := [ownDelete] } }

theorem ownDelete_atHead : KsAtHead ownDeletion 0x22 ownDelete := by
  refine ⟨rfl, rfl, ?_, ?_⟩ <;> decide

/-- With no die to drain the deletion completes at once, and the OK it reports takes the place of the E_TARGET_OFF its operation had ended with. -/
theorem ownDeletion_code : (match exec .partDelete ownDeletion with | .next u => (opOf u 3).map (·.code) | _ => none) = some 0 := by
  decide +kernel

/-- Refutes O42: a ready operation of the deleted partition that is the command's own completes with OK and not with E_TARGET_OFF; nothing in the
statement says that Keystone holds no command of the operation. -/
theorem not_partitionCommandsComplete : ¬ Obligations.PartitionCommandsComplete := by
  unfold Obligations.PartitionCommandsComplete
  intro h
  obtain ⟨-, -, hdelete, -⟩ := h ownDeletion ownDelete
  obtain ⟨-, -, hgone⟩ := hdelete ownDelete_atHead
  obtain ⟨u, hu, -, -, hends, -⟩ := hgone portlessPart rfl rfl (by decide)
  obtain ⟨y, hy, -, hcode⟩ := hends 3 ownDeleteOp rfl rfl (.inr (.inr rfl))
  have hok := ownDeletion_code
  rw [hu] at hok
  simp [hy, hcode] at hok

/-! ## A step boundary over a table whose keys do not rise (13 R310) -/

/-- A serving partition that wants a boundary. -/
def servingPart : Partition := { portlessPart with boundaryWanted := true }

/-- A training partition with a tile that is to leave. -/
def trainingPart : Partition := { portlessPart with cur := { oneTileBlock with training := true }, releasing := [0] }

/-- Partitions 5 and 3, listed in falling order. -/
def fallingParts : State := { State.reset with parts := [(5, servingPart), (3, trainingPart)] }

/-- The slots are divided between one bank of each class. Then partition 3 asks for a boundary of its own, which lists it a second time: of the table
that the boundary leaves, two banks count for the training class. -/
theorem fallingParts_slots :
    (match exec (.stepBoundary 5) fallingParts with
      | .next u => (fld u (hbmB 0 + 8) 8 8, servingSlots (classBanks u 0 false) (classBanks u 0 true))
      | _ => (0, 0)) = (16, 11) := by
  decide +kernel

/-- Refutes O43: where the table of partitions lists its keys in falling order, the slots of the serving class after a boundary are not those of the
banks in the table; nothing in the statement says that the keys rise. -/
theorem not_partitionStepsComplete : ¬ Obligations.PartitionStepsComplete := by
  unfold Obligations.PartitionStepsComplete
  intro h
  obtain ⟨-, -, -, -, hboundary⟩ := h fallingParts 5 0 servingPart rfl
  obtain ⟨-, hwanted⟩ := hboundary
  obtain ⟨-, hmoves⟩ := hwanted rfl
  obtain ⟨u, q, hu, -, -, -, -, -, -, -, -, -, -, -, -, -, -, hslots⟩ := hmoves rfl rfl
  have heval := fallingParts_slots
  rw [hu] at heval
  have hd := hslots 0
  simp only [Prod.mk.injEq] at heval
  obtain ⟨h16, h11⟩ := heval
  exact absurd (h16.symm.trans (hd.trans h11)) (by decide)

end Sys2Proof.Machine

namespace Sys2Proof.Machine

/-! ## A dispatch to a busy unit (07 R190) -/

/-- A GENERATE of OPSEQ 1, ready to run at position 0 of its partition's span. -/
def readyGenerate : Op :=
  { life := 0, ctx := 0, express := false, opseq := 1, home := 0, part := 0, desc := 3 :: leBytes 63 0, phase := .ready }

/-- The operation, under key 1, and CD0's unit at work on another one. -/
def busyUnit : State :=
  { State.reset with parts := [(0, portlessPart)], ops := [(1, readyGenerate)], dies := [(0, { fountain := { queue := [7] } })] }

/-- What stands in CD1's unit after the GENERATE. -/
def otherUnitAfter (s : State) : List Nat :=
  match exec (.generate 0 false 1 false) s with
  | .next u => (dieOf u 1).fountain.queue
  | _ => []

theorem readyGenerate_named : Names busyUnit 0 false 1 1 readyGenerate := ⟨rfl, rfl⟩

/-- The operation is to run on CD0. -/
theorem readyGenerate_die : (partOf busyUnit readyGenerate.part).bind (fun p => spanDie p (genArgs readyGenerate).die) = some 0 := by decide +kernel

/-- CD1's unit stays empty: the operation waits in CD0's. -/
theorem otherUnitAfter_busyUnit : otherUnitAfter busyUnit = [] := by decide +kernel

/-- `enterFtn busyUnit 1 0` is operation 0 in the unit of die 1, not operation 1 in that of die 0. -/
theorem otherUnitAfter_entered : otherUnitAfter (enterFtn busyUnit 1 0) = [0] := by decide +kernel

/-- Refutes O24: the statement has a dispatched operation under key `k` enter the unit of die `e` as `enterFtn s k e`, which is operation `e` in the unit
of die `k` (`enterFtn` takes the die first); where the two differ, so do the runs. -/
theorem not_fountainCompletes : ¬ Obligations.FountainCompletes := by
  unfold Obligations.FountainCompletes
  intro h
  obtain ⟨-, -, hdispatch, -⟩ := h busyUnit 0 false 1 1 readyGenerate portlessPart 0 0
  obtain ⟨-, hruns⟩ := hdispatch (.generate 0 false 1 false) readyGenerate_named (by decide +kernel) (.inl ⟨⟨false, rfl⟩, rfl⟩)
  obtain ⟨-, henters⟩ := hruns (by decide +kernel)
  obtain ⟨hsame, -⟩ := henters 0 readyGenerate_die
  have hqueue : otherUnitAfter busyUnit = otherUnitAfter (enterFtn busyUnit 1 0) := by rw [otherUnitAfter, hsame, otherUnitAfter]
  rw [otherUnitAfter_busyUnit, otherUnitAfter_entered] at hqueue
  exact absurd hqueue (by decide)

end Sys2Proof.Machine
